-- ==== Sys2Proof/Word.lean ====
section
/-! DEFINITION. The word types of the Torong T8 (spec/00_scope.md R3, R4) and their plainest arithmetic. -/

namespace Sys2Proof

/-- A byte of memory (R3). -/
abbrev Byte := BitVec 8

/-- A vector register of one lane (R88). -/
abbrev W32 := BitVec 32

/-- A scalar register, an address or a system register (R88). -/
abbrev W64 := BitVec 64

/-- One bit per lane of a bough; bit `l` is lane `l` (R124). -/
abbrev Mask := BitVec 32

/-- A sparse map from natural numbers to words: pairs in rising key order, none holding zero, so
that equal maps are equal lists. Memory bytes, registers, banks, slots and tiles are held so. -/
abbrev Sparse (w : Nat) := List (Nat × BitVec w)

/-- The lanes of a bough, in increasing order (R22). -/
def lanes : List Nat := List.range 32

end Sys2Proof
end

