-- ==== Sys2Proof/Config.lean ====
section
/-! DEFINITION. What the manual leaves to an implementation or leaves free, as constants without a body:
no proof can see their values (spec/00_scope.md R5, R7). -/

namespace Sys2Proof

/-- The slice, 0 to 63, that a hash of the line address selects within a die (R11, R407). -/
opaque Config.sliceOf : Nat → Nat

/-- The home slice, numbered over the package, of the record of a sibling group, by partition and handle
(R351, R407). -/
opaque Config.groupHome : Nat → Nat → Nat

/-- The logged writes that a slice's own Heartwood storage holds (R251), by slice over the package. -/
opaque Config.heartRoom : Nat → Nat

/-- What a participant on another package contributes to a collective: by partition, communicator,
collective, rank and element (log 17). -/
opaque Config.peerElem : Nat → Nat → Nat → Nat → Nat → Nat

/-- Whether a participant on another package asked for the same collective (R222, log 17). -/
opaque Config.peerAgrees : Nat → Nat → Nat → Nat → Bool

/-- A fresh free value for each value of the counter `free` of the state (log 4). -/
opaque Config.freeWord : Nat → BitVec 128

/-- The SM3_256 digest of some data, as a number (R391, R392, log 56). -/
opaque Config.sm3 : Nat → BitVec 256

/-- The device identity key's SM2_P256 signature of some data (R392, log 56). -/
opaque Config.sm2 : Nat → BitVec 512

/-- The boot ROM, the firmware image, the capabilities of a mailbox and a function's certificate chain, which
ends in the device identity key, as numbers (R391, R392, log 56). -/
opaque Config.romData : Nat
opaque Config.imageData : Nat
opaque Config.spdmCaps : Nat
opaque Config.certChain : Nat → Nat

/-- What the device returns for an operation whose result the manual only bounds (R174), by opcode, type
code and operand bits; the meaning uses it where it lies within the bound. -/
opaque Config.approx : Nat → Nat → Nat → Nat

end Sys2Proof
end

