-- ==== Sys2Proof/Syntax.lean ====
section
/-! DEFINITION. The instructions of Kucon 1.0 and the other steps of the opcode table, as syntax:
field types (spec/02_encoding.md R47-R58), the seven formats (R49-R55), and `Instr`, one constructor
per row of spec/opcode_table.json. -/

namespace Sys2Proof

/-- The completion-flag selector FS (R38, R47). -/
inductive Fs where
  | none | a | b
  deriving DecidableEq, Repr

/-- The common header less its opcode (R47): guard PG, PN, flag selector FS, transient bit TR. -/
structure Hdr where
  pg : BitVec 3
  pn : Bool
  fs : Fs
  tr : Bool
  deriving DecidableEq, Repr

/-- The type codes of R57. -/
inductive Ty where
  | i8 | n8 | i16 | n16 | i32 | n32 | i64 | n64
  | f16 | bf16 | f32 | f64 | e4m3 | e5m2 | e2m1 | o4
  deriving DecidableEq, Repr

/-- The rounding codes of R58 that are not reserved. -/
inductive Rm where
  | rn | rz | ru | rd | rna | rs | rfmt
  deriving DecidableEq, Repr

/-- The address spaces of format M that are not reserved (R51, R185). -/
inductive Space where
  | global | localSp | ro
  deriving DecidableEq, Repr

/-- The address modes of format M that are not reserved (R51, R119). -/
inductive Am where
  | base | uniform | ln
  deriving DecidableEq, Repr

/-- The scopes (R51, R186). -/
inductive Scope where
  | core | die | pkg | sys
  deriving DecidableEq, Repr

/-- The access sizes (R51). -/
inductive Sz where
  | b8 | b16 | b32 | b64 | b128
  deriving DecidableEq, Repr

/-- The branch modes of format J (R52). -/
inductive Bm where
  | lane | any | all
  deriving DecidableEq, Repr

/-- A predicate destination: `none` is PD = 7 (R49, R89). -/
abbrev Pd := Option (Fin 7)

/-- Format A (R49). -/
structure FmtA where
  dst : BitVec 8
  sa : BitVec 8
  sb : BitVec 8
  sc : BitVec 8
  ty : Ty
  rm : Rm
  sat : Bool
  neg : BitVec 3
  abs : BitVec 3
  knd : BitVec 3
  pd : Pd
  sub : BitVec 8
  deriving DecidableEq, Repr

/-- Format I (R50). -/
structure FmtI where
  dst : BitVec 8
  sa : BitVec 8
  ty : Ty
  rm : Rm
  sat : Bool
  nega : Bool
  kndd : Bool
  pd : Pd
  sub : BitVec 8
  imm : W32
  deriving DecidableEq, Repr

/-- The operands of an instruction that has a V form in format A and an I form in format I (R60). -/
inductive FmtAI where
  | a (f : FmtA)
  | i (f : FmtI)
  deriving DecidableEq, Repr

/-- Format M (R51). -/
structure FmtM where
  dv : BitVec 8
  av : BitVec 8
  as : BitVec 6
  sp : Space
  am : Am
  sc : Scope
  sz : Sz
  ch : BitVec 3
  aop : BitVec 4
  ty : Ty
  pd : Pd
  ord : Bool
  off : W32
  deriving DecidableEq, Repr

/-- Format J (R52). -/
structure FmtJ where
  tgt : BitVec 20
  tsl : Fin 5
  rcv : BitVec 20
  rsl : Fin 5
  bm : Bm
  as : BitVec 6
  deriving DecidableEq, Repr

/-- Format E (R53). -/
structure FmtE where
  tk : BitVec 6
  fp : BitVec 6
  pa : BitVec 6
  pb : BitVec 6
  pc : BitVec 6
  vx : BitVec 8
  sla : BitVec 4
  slb : BitVec 4
  acc : BitVec 2
  sub : BitVec 8
  imm : BitVec 24
  deriving DecidableEq, Repr

/-- Format Y (R54). -/
structure FmtY where
  sd : BitVec 6
  s1 : BitVec 6
  s2 : BitVec 6
  s3 : BitVec 6
  vd : BitVec 8
  pd : Pd
  sub : BitVec 8
  imm : W32
  deriving DecidableEq, Repr

/-- One predicate-selected target of MBR (R55, R137). -/
structure MbrPair where
  off : BitVec 20
  slot : Fin 5
  pk : BitVec 3
  neg : Bool
  deriving DecidableEq, Repr

/-- MBR in format W (R55): four pairs, the reconvergence point, and the pair count minus one. -/
structure FmtMbr where
  p0 : MbrPair
  p1 : MbrPair
  p2 : MbrPair
  p3 : MbrPair
  rcOff : BitVec 20
  rcSlot : Fin 5
  cnt : BitVec 2
  deriving DecidableEq, Repr

/-- MOVW in format W (R55). -/
structure FmtMovw where
  dst : BitVec 8
  scalar : Bool
  imm : W64
  deriving DecidableEq, Repr

/-- The mask half W2 of ATTN's full form (R323). -/
structure AttnMask where
  causal : Bool
  g : BitVec 3
  win : BitVec 16
  ks : BitVec 6
  qs : BitVec 6
  deriving DecidableEq, Repr

/-- Where the distributor places a copse (R14, R15, R25, R190): the core, the LOCAL address of each
bough's allotment, and the first SCR and FIF banks. The manual leaves the choice open. -/
structure Place where
  core : Nat
  regBases : List Nat
  scr : Nat
  fif : Nat
  deriving DecidableEq, Repr

/-- One access that reaches device memory from the host or from a peer (R379, R381, R261). -/
inductive ExtAcc where
  | read (n : Nat)
  | write (n : Nat) (v : BitVec 128)
  deriving DecidableEq, Repr

/-- The atomic operations of the link and of PCI Express (R261, R379). -/
inductive ExtAtom where
  | fetchAdd (n : Nat) (v : BitVec 128)
  | swap (n : Nat) (v : BitVec 128)
  | cas (n : Nat) (cmp new : BitVec 128)
  deriving DecidableEq, Repr

/-- A request that a peer sends (R261, R381). -/
inductive PeerReq where
  | acc (a : ExtAcc)
  | atom (aop : Nat) (ty : Ty) (n : Nat) (v : BitVec 128)
  | cas (n : Nat) (cmp new : BitVec 128)
  deriving DecidableEq, Repr

/-- What one power sample measures (R393, R394). -/
structure PowerMeasure where
  watts : Nat
  tj : Nat
  hbm : Nat
  icore : List Nat
  deriving DecidableEq, Repr

/-- One row of spec/opcode_table.json each. The first 191 are instructions; the others are the
steps of the device and of the host, which have no encoding and carry what they act on. -/
inductive Instr where
  -- class 0 (R95-R123)
  | iadd (h : Hdr) (f : FmtA)
  | isub (h : Hdr) (f : FmtA)
  | imul (h : Hdr) (f : FmtA)
  | imulhi (h : Hdr) (f : FmtA)
  | imad (h : Hdr) (f : FmtAI)
  | imin (h : Hdr) (f : FmtA)
  | imax (h : Hdr) (f : FmtA)
  | iabs (h : Hdr) (f : FmtA)
  | icmp (h : Hdr) (f : FmtA)
  | isel (h : Hdr) (f : FmtA)
  | andL (h : Hdr) (f : FmtAI)
  | orL (h : Hdr) (f : FmtAI)
  | xorL (h : Hdr) (f : FmtAI)
  | notL (h : Hdr) (f : FmtA)
  | tern (h : Hdr) (f : FmtA)
  | shl (h : Hdr) (f : FmtA)
  | shr (h : Hdr) (f : FmtA)
  | sha (h : Hdr) (f : FmtA)
  | fshl (h : Hdr) (f : FmtA)
  | fshr (h : Hdr) (f : FmtA)
  | popc (h : Hdr) (f : FmtA)
  | clz (h : Hdr) (f : FmtA)
  | brev (h : Hdr) (f : FmtA)
  | bfx (h : Hdr) (f : FmtA)
  | bfi (h : Hdr) (f : FmtA)
  | bsel (h : Hdr) (f : FmtA)
  | mov (h : Hdr) (f : FmtA)
  | movi (h : Hdr) (f : FmtI)
  | movw (h : Hdr) (f : FmtMovw)
  | laneid (h : Hdr) (f : FmtA)
  | xlane (h : Hdr) (f : FmtA)
  | vote (h : Hdr) (f : FmtA)
  | plop (h : Hdr) (f : FmtA)
  | pmov (h : Hdr) (f : FmtA)
  | lnset (h : Hdr) (f : FmtY)
  | lnadv (h : Hdr) (f : FmtY)
  | lnget (h : Hdr) (f : FmtY)
  | coef (h : Hdr) (f : FmtY)
  | addr (h : Hdr) (f : FmtM)
  | rep (h : Hdr) (f : FmtY)
  -- class 1 (R155-R184)
  | fadd (h : Hdr) (f : FmtAI)
  | fsub (h : Hdr) (f : FmtAI)
  | fmul (h : Hdr) (f : FmtAI)
  | ffma (h : Hdr) (f : FmtAI)
  | fmin (num : Bool) (h : Hdr) (f : FmtAI)
  | fmax (num : Bool) (h : Hdr) (f : FmtAI)
  | fcmp (h : Hdr) (f : FmtAI)
  | fclass (h : Hdr) (f : FmtA)
  | frcp (h : Hdr) (f : FmtA)
  | frsq (h : Hdr) (f : FmtA)
  | fsqrt (h : Hdr) (f : FmtA)
  | fdiv (h : Hdr) (f : FmtA)
  | fexp2 (h : Hdr) (f : FmtA)
  | flog2 (h : Hdr) (f : FmtA)
  | fsin (h : Hdr) (f : FmtA)
  | fcos (h : Hdr) (f : FmtA)
  | ftanh (h : Hdr) (f : FmtA)
  | fsigm (h : Hdr) (f : FmtA)
  | ferf (h : Hdr) (f : FmtA)
  | frnd (h : Hdr) (f : FmtA)
  | fscale (h : Hdr) (f : FmtA)
  | hadd2 (h : Hdr) (f : FmtA)
  | hmul2 (h : Hdr) (f : FmtA)
  | hfma2 (h : Hdr) (f : FmtA)
  | hmin2 (h : Hdr) (f : FmtA)
  | hmax2 (h : Hdr) (f : FmtA)
  | ffmaw (h : Hdr) (f : FmtA)
  | cvtFf (h : Hdr) (f : FmtA)
  | cvtFi (h : Hdr) (f : FmtA)
  | cvtIf (h : Hdr) (f : FmtA)
  | cvtIi (h : Hdr) (f : FmtA)
  | cvtPack (h : Hdr) (f : FmtA)
  | cvtUnpack (h : Hdr) (f : FmtA)
  | cvtb (h : Hdr) (f : FmtA)
  | unpk (h : Hdr) (f : FmtA)
  | dot16 (h : Hdr) (f : FmtA)
  | dot4 (h : Hdr) (f : FmtA)
  | dot8 (h : Hdr) (f : FmtA)
  | fmtset (h : Hdr) (f : FmtY)
  | fmtget (h : Hdr) (f : FmtY)
  | fmtmod (h : Hdr) (f : FmtY)
  | dith (h : Hdr) (f : FmtA)
  -- class 2 (R124-R154)
  | bra (h : Hdr) (f : FmtJ)
  | brc (h : Hdr) (f : FmtJ)
  | mbr (h : Hdr) (f : FmtMbr)
  | jmpi (h : Hdr) (f : FmtJ)
  | call (h : Hdr) (f : FmtJ)
  | callIndirect (h : Hdr) (f : FmtJ)
  | ret (h : Hdr) (f : FmtJ)
  | exit (h : Hdr) (f : FmtY)
  | nop (h : Hdr) (f : FmtY)
  | yield (h : Hdr) (f : FmtY)
  | emrget (h : Hdr) (f : FmtY)
  | emrset (h : Hdr) (f : FmtY)
  | join (h : Hdr) (f : FmtJ)
  | rfenter (h : Hdr) (f : FmtY)
  | refill (h : Hdr) (f : FmtY)
  | refillLast (h : Hdr) (f : FmtY)
  | rfinfo (h : Hdr) (f : FmtY)
  | rfexit (h : Hdr) (f : FmtY)
  | waitf (h : Hdr) (f : FmtY)
  | brx (h : Hdr) (f : FmtJ)
  | loop (h : Hdr) (f : FmtJ)
  | splitq (h : Hdr) (f : FmtY)
  | rfskip (h : Hdr) (f : FmtY)
  | setpri (h : Hdr) (f : FmtY)
  -- class 3 (R185-R223)
  | ld (h : Hdr) (f : FmtM)
  | st (h : Hdr) (f : FmtM)
  | ldro (h : Hdr) (f : FmtM)
  | prefL1 (h : Hdr) (f : FmtM)
  | prefDie (h : Hdr) (f : FmtM)
  | acopy (srcLocal dstLocal : Bool) (h : Hdr) (f : FmtE)
  | agather (h : Hdr) (f : FmtE)
  | ascatter (h : Hdr) (f : FmtE)
  | acoll (h : Hdr) (f : FmtE)
  | afill (h : Hdr) (f : FmtE)
  | bankrole (h : Hdr) (f : FmtY)
  | bankq (h : Hdr) (f : FmtY)
  | cinvSys (h : Hdr) (f : FmtY)
  | cinvRo (h : Hdr) (f : FmtY)
  | zline (h : Hdr) (f : FmtM)
  | xprobe (h : Hdr) (f : FmtM)
  | toktest (h : Hdr) (f : FmtY)
  -- class 4 (R257-R281)
  | atom (h : Hdr) (f : FmtM)
  | red (h : Hdr) (f : FmtM)
  | cas (h : Hdr) (f : FmtM)
  | bar (h : Hdr) (f : FmtY)
  | barArrive (h : Hdr) (f : FmtY)
  | barWait (h : Hdr) (f : FmtY)
  | gbar (h : Hdr) (f : FmtY)
  | lcadd (h : Hdr) (f : FmtM)
  | lcread (h : Hdr) (f : FmtM)
  | lcmerge (h : Hdr) (f : FmtM)
  | lcbase (h : Hdr) (f : FmtY)
  | lcseed (h : Hdr) (f : FmtY)
  -- class 5 (R282-R329)
  | opclaim (h : Hdr) (f : FmtY)
  | oprel (h : Hdr) (f : FmtY)
  | opfill (glob : Bool) (h : Hdr) (f : FmtE)
  | layout (h : Hdr) (f : FmtY)
  | bankcnt (h : Hdr) (f : FmtY)
  | mma (ovr : Bool) (h : Hdr) (f : FmtE)
  | mmas (ovr : Bool) (h : Hdr) (f : FmtE)
  | accld (loc : Bool) (h : Hdr) (f : FmtE)
  | accst (loc : Bool) (h : Hdr) (f : FmtE)
  | acczero (h : Hdr) (f : FmtE)
  | acccvt (rs : Bool) (h : Hdr) (f : FmtE)
  | accscale (h : Hdr) (f : FmtE)
  | attn (full : Option AttnMask) (h : Hdr) (f : FmtE)
  | smerge (h : Hdr) (f : FmtE)
  | kvgather (h : Hdr) (f : FmtE)
  | kvappend (h : Hdr) (f : FmtE)
  | seqcommit (h : Hdr) (f : FmtY)
  | seqcommitFork (h : Hdr) (f : FmtY)
  | seqcommitRel (h : Hdr) (f : FmtY)
  | seqinfo (h : Hdr) (f : FmtY)
  -- class 6 (R330-R355)
  | tspawn (nb : Bool) (h : Hdr) (f : FmtY)
  | twait (nb : Bool) (h : Hdr) (f : FmtY)
  | tfillFut (h : Hdr) (f : FmtY)
  | tfillSig (h : Hdr) (f : FmtY)
  | tinfo (h : Hdr) (f : FmtY)
  | tyield (h : Hdr) (f : FmtY)
  | tcancel (h : Hdr) (f : FmtY)
  | enq (nb : Bool) (h : Hdr) (f : FmtY)
  | deq (nb : Bool) (h : Hdr) (f : FmtY)
  | qstat (h : Hdr) (f : FmtY)
  | qcreate (h : Hdr) (f : FmtY)
  | qcreateFree (h : Hdr) (f : FmtY)
  | launch (h : Hdr) (f : FmtY)
  | launchAgg (h : Hdr) (f : FmtY)
  | sibjoin (h : Hdr) (f : FmtY)
  | sibleave (h : Hdr) (f : FmtY)
  | ballot (h : Hdr) (f : FmtY)
  | canchk (h : Hdr) (f : FmtY)
  | sibinfo (h : Hdr) (f : FmtY)
  | nestset (h : Hdr) (f : FmtY)
  -- class 7 (R229, R255, R256, R364)
  | fenceAcq (h : Hdr) (f : FmtY)
  | fenceRel (h : Hdr) (f : FmtY)
  | fenceAcqrel (h : Hdr) (f : FmtY)
  | srget (sys : Bool) (h : Hdr) (f : FmtY)
  | srset (sys : Bool) (h : Hdr) (f : FmtY)
  | trap (h : Hdr) (f : FmtY)
  | bkpt (h : Hdr) (f : FmtY)
  | timeget (h : Hdr) (f : FmtY)
  | detphase (h : Hdr) (f : FmtY)
  | detq (h : Hdr) (f : FmtY)
  | tlbinv (h : Hdr) (f : FmtY)
  | halt (h : Hdr) (f : FmtY)
  | sleep (h : Hdr) (f : FmtY)
  | ctxsave (h : Hdr) (f : FmtY)
  | ctxrest (h : Hdr) (f : FmtY)
  | eret (h : Hdr) (f : FmtY)
  -- steps inside the device (spec/95_what_each_step_holds.md); `k` names an item in flight
  | lineEntry
  | instructionCompletion (k : Nat)
  | loadDataReturn (k : Nat)
  | leaseGrant (k j : Nat)
  | storePerform (k : Nat)
  | storeAcknowledgement (k : Nat)
  | atomicBatch (k g : Nat)
  | walkComplete (k : Nat)
  | engineStart (k units : Nat)
  | tokenWrite (k : Nat)
  | matrixBegin (k : Nat)
  | retireAtEnd
  | refillCursorAdvance (bough : Nat)
  | phaseEnd (launch : Nat)
  | futureWake (k : Nat)
  | taskStart (launch : Nat) (p : Place)
  | cancellationDelivery (k : Nat)
  | aggregationWindowClose (k : Nat)
  | lwtExpiry (launch copse : Nat)
  | copseAdmission (launch copse : Nat) (p : Place)
  | copseRestore (launch copse : Nat) (p : Place)
  | sleepExpiry (bough : Nat)
  | yieldExpiry (bough : Nat)
  | launchCompletion (launch : Nat)
  | instanceClose (launch copse inst : Nat)
  -- host commands of partition `p`, queue `q` (R384), and host accesses
  | doorbell (p q : Nat) (v : W64)
  | ext (p q : Nat)
  | launchCommand (p q : Nat)
  | kill (p q : Nat)
  | preempt (p q : Nat)
  | preemptSave (p : Nat)
  | restore (p q : Nat)
  | replyResume (p q : Nat)
  | replyKill (p q : Nat)
  | tlbinvCommand (p q : Nat)
  | comm (p q : Nat)
  | nopCommand (p q : Nat)
  | map (p q : Nat)
  | mapPublish (p q : Nat)
  | fqhead (p : Nat) (v : W64)
  | cqhead (p q : Nat) (v : W64)
  | errstat (p : Nat) (v : W64)
  | partitionRegisterWrite (fn off : Nat) (v : W64)
  | functionLevelReset (p : Nat)
  | bar2Access (p off : Nat) (a : ExtAcc)
  | hostAtomicop (p off : Nat) (a : ExtAtom)
  -- peers and links (R261, R390)
  | peerRequest (pa : Nat) (r : PeerReq)
  | flitReceive (link : Nat) (flit : List Byte)
  | flitReplay (link : Nat)
  -- Sirxo (R391-R394)
  | sirxoBoot
  | getVersion (p : Nat)
  | getCapabilities (p : Nat)
  | negotiateAlgorithms (p : Nat)
  | getDigests (p : Nat)
  | getCertificate (p : Nat)
  | challenge (p : Nat) (nonce : BitVec 256)
  | getMeasurements (p : Nat)
  | powerSample (m : PowerMeasure)
  | thermalShutdown
  deriving DecidableEq, Repr

end Sys2Proof
end

