-- ==== Sys2Proof/WellFormed.lean ====
section
/-! DEFINITION. Which instruction terms are well formed: the reserved codes, fixed fields and register
ranges of spec/02_encoding.md (R47, R51, R53, R55, R56, R61, R63) that the field types of Syntax.lean
leave possible. What an instruction's own page adds is `pageOk`, in Decode.lean. -/

namespace Sys2Proof

/-- The fields after the header, by format (R49-R55, R323). -/
inductive Payload where
  | a (f : FmtA)
  | i (f : FmtI)
  | m (f : FmtM)
  | j (f : FmtJ)
  | e (f : FmtE)
  | y (f : FmtY)
  | mbr (f : FmtMbr)
  | movw (f : FmtMovw)
  | attn (f : FmtE) (w : AttnMask)
  deriving DecidableEq, Repr

/-- The payload of a V or an I form. -/
def FmtAI.payload : FmtAI → Payload
  | .a f => .a f
  | .i f => .i f

/-- The header and the payload of an instruction; none for a step of the device or of the host. -/
def Instr.view : Instr → Option (Hdr × Payload)
  | .iadd h f => some (h, .a f)
  | .isub h f => some (h, .a f)
  | .imul h f => some (h, .a f)
  | .imulhi h f => some (h, .a f)
  | .imad h f => some (h, f.payload)
  | .imin h f => some (h, .a f)
  | .imax h f => some (h, .a f)
  | .iabs h f => some (h, .a f)
  | .icmp h f => some (h, .a f)
  | .isel h f => some (h, .a f)
  | .andL h f => some (h, f.payload)
  | .orL h f => some (h, f.payload)
  | .xorL h f => some (h, f.payload)
  | .notL h f => some (h, .a f)
  | .tern h f => some (h, .a f)
  | .shl h f => some (h, .a f)
  | .shr h f => some (h, .a f)
  | .sha h f => some (h, .a f)
  | .fshl h f => some (h, .a f)
  | .fshr h f => some (h, .a f)
  | .popc h f => some (h, .a f)
  | .clz h f => some (h, .a f)
  | .brev h f => some (h, .a f)
  | .bfx h f => some (h, .a f)
  | .bfi h f => some (h, .a f)
  | .bsel h f => some (h, .a f)
  | .mov h f => some (h, .a f)
  | .movi h f => some (h, .i f)
  | .movw h f => some (h, .movw f)
  | .laneid h f => some (h, .a f)
  | .xlane h f => some (h, .a f)
  | .vote h f => some (h, .a f)
  | .plop h f => some (h, .a f)
  | .pmov h f => some (h, .a f)
  | .lnset h f => some (h, .y f)
  | .lnadv h f => some (h, .y f)
  | .lnget h f => some (h, .y f)
  | .coef h f => some (h, .y f)
  | .addr h f => some (h, .m f)
  | .rep h f => some (h, .y f)
  | .fadd h f => some (h, f.payload)
  | .fsub h f => some (h, f.payload)
  | .fmul h f => some (h, f.payload)
  | .ffma h f => some (h, f.payload)
  | .fmin _ h f => some (h, f.payload)
  | .fmax _ h f => some (h, f.payload)
  | .fcmp h f => some (h, f.payload)
  | .fclass h f => some (h, .a f)
  | .frcp h f => some (h, .a f)
  | .frsq h f => some (h, .a f)
  | .fsqrt h f => some (h, .a f)
  | .fdiv h f => some (h, .a f)
  | .fexp2 h f => some (h, .a f)
  | .flog2 h f => some (h, .a f)
  | .fsin h f => some (h, .a f)
  | .fcos h f => some (h, .a f)
  | .ftanh h f => some (h, .a f)
  | .frnd h f => some (h, .a f)
  | .fscale h f => some (h, .a f)
  | .hadd2 h f => some (h, .a f)
  | .hmul2 h f => some (h, .a f)
  | .hfma2 h f => some (h, .a f)
  | .hmin2 h f => some (h, .a f)
  | .hmax2 h f => some (h, .a f)
  | .ffmaw h f => some (h, .a f)
  | .cvtFf h f => some (h, .a f)
  | .cvtFi h f => some (h, .a f)
  | .cvtIf h f => some (h, .a f)
  | .cvtIi h f => some (h, .a f)
  | .cvtPack h f => some (h, .a f)
  | .cvtUnpack h f => some (h, .a f)
  | .cvtb h f => some (h, .a f)
  | .unpk h f => some (h, .a f)
  | .dot16 h f => some (h, .a f)
  | .dot4 h f => some (h, .a f)
  | .dot8 h f => some (h, .a f)
  | .fmtset h f => some (h, .y f)
  | .fmtget h f => some (h, .y f)
  | .fmtmod h f => some (h, .y f)
  | .dith h f => some (h, .a f)
  | .fsigm h f => some (h, .a f)
  | .ferf h f => some (h, .a f)
  | .bra h f => some (h, .j f)
  | .brc h f => some (h, .j f)
  | .mbr h f => some (h, .mbr f)
  | .jmpi h f => some (h, .j f)
  | .call h f => some (h, .j f)
  | .callIndirect h f => some (h, .j f)
  | .ret h f => some (h, .j f)
  | .exit h f => some (h, .y f)
  | .nop h f => some (h, .y f)
  | .yield h f => some (h, .y f)
  | .emrget h f => some (h, .y f)
  | .emrset h f => some (h, .y f)
  | .join h f => some (h, .j f)
  | .rfenter h f => some (h, .y f)
  | .refill h f => some (h, .y f)
  | .refillLast h f => some (h, .y f)
  | .rfinfo h f => some (h, .y f)
  | .rfexit h f => some (h, .y f)
  | .waitf h f => some (h, .y f)
  | .brx h f => some (h, .j f)
  | .loop h f => some (h, .j f)
  | .splitq h f => some (h, .y f)
  | .rfskip h f => some (h, .y f)
  | .setpri h f => some (h, .y f)
  | .ld h f => some (h, .m f)
  | .st h f => some (h, .m f)
  | .ldro h f => some (h, .m f)
  | .prefL1 h f => some (h, .m f)
  | .prefDie h f => some (h, .m f)
  | .acopy _ _ h f => some (h, .e f)
  | .agather h f => some (h, .e f)
  | .ascatter h f => some (h, .e f)
  | .acoll h f => some (h, .e f)
  | .afill h f => some (h, .e f)
  | .bankrole h f => some (h, .y f)
  | .bankq h f => some (h, .y f)
  | .cinvSys h f => some (h, .y f)
  | .cinvRo h f => some (h, .y f)
  | .zline h f => some (h, .m f)
  | .xprobe h f => some (h, .m f)
  | .toktest h f => some (h, .y f)
  | .atom h f => some (h, .m f)
  | .red h f => some (h, .m f)
  | .cas h f => some (h, .m f)
  | .bar h f => some (h, .y f)
  | .barArrive h f => some (h, .y f)
  | .barWait h f => some (h, .y f)
  | .gbar h f => some (h, .y f)
  | .lcadd h f => some (h, .m f)
  | .lcread h f => some (h, .m f)
  | .lcmerge h f => some (h, .m f)
  | .lcbase h f => some (h, .y f)
  | .lcseed h f => some (h, .y f)
  | .opclaim h f => some (h, .y f)
  | .oprel h f => some (h, .y f)
  | .opfill _ h f => some (h, .e f)
  | .layout h f => some (h, .y f)
  | .bankcnt h f => some (h, .y f)
  | .mma _ h f => some (h, .e f)
  | .mmas _ h f => some (h, .e f)
  | .accld _ h f => some (h, .e f)
  | .accst _ h f => some (h, .e f)
  | .acczero h f => some (h, .e f)
  | .acccvt _ h f => some (h, .e f)
  | .accscale h f => some (h, .e f)
  | .attn none h f => some (h, .e f)
  | .attn (some w) h f => some (h, .attn f w)
  | .smerge h f => some (h, .e f)
  | .kvgather h f => some (h, .e f)
  | .kvappend h f => some (h, .e f)
  | .seqcommit h f => some (h, .y f)
  | .seqcommitFork h f => some (h, .y f)
  | .seqcommitRel h f => some (h, .y f)
  | .seqinfo h f => some (h, .y f)
  | .tspawn _ h f => some (h, .y f)
  | .twait _ h f => some (h, .y f)
  | .tfillFut h f => some (h, .y f)
  | .tfillSig h f => some (h, .y f)
  | .tinfo h f => some (h, .y f)
  | .tyield h f => some (h, .y f)
  | .tcancel h f => some (h, .y f)
  | .enq _ h f => some (h, .y f)
  | .deq _ h f => some (h, .y f)
  | .qstat h f => some (h, .y f)
  | .qcreate h f => some (h, .y f)
  | .qcreateFree h f => some (h, .y f)
  | .launch h f => some (h, .y f)
  | .launchAgg h f => some (h, .y f)
  | .sibjoin h f => some (h, .y f)
  | .sibleave h f => some (h, .y f)
  | .ballot h f => some (h, .y f)
  | .canchk h f => some (h, .y f)
  | .sibinfo h f => some (h, .y f)
  | .nestset h f => some (h, .y f)
  | .fenceAcq h f => some (h, .y f)
  | .fenceRel h f => some (h, .y f)
  | .fenceAcqrel h f => some (h, .y f)
  | .srget _ h f => some (h, .y f)
  | .srset _ h f => some (h, .y f)
  | .trap h f => some (h, .y f)
  | .bkpt h f => some (h, .y f)
  | .timeget h f => some (h, .y f)
  | .detphase h f => some (h, .y f)
  | .detq h f => some (h, .y f)
  | .tlbinv h f => some (h, .y f)
  | .halt h f => some (h, .y f)
  | .sleep h f => some (h, .y f)
  | .ctxsave h f => some (h, .y f)
  | .ctxrest h f => some (h, .y f)
  | .eret h f => some (h, .y f)
  | .lineEntry => none
  | .instructionCompletion _ => none
  | .loadDataReturn _ => none
  | .leaseGrant _ _ => none
  | .storePerform _ => none
  | .storeAcknowledgement _ => none
  | .atomicBatch _ _ => none
  | .walkComplete _ => none
  | .engineStart _ _ => none
  | .tokenWrite _ => none
  | .matrixBegin _ => none
  | .retireAtEnd => none
  | .refillCursorAdvance _ => none
  | .phaseEnd _ => none
  | .futureWake _ => none
  | .taskStart _ _ => none
  | .cancellationDelivery _ => none
  | .aggregationWindowClose _ => none
  | .lwtExpiry _ _ => none
  | .copseAdmission _ _ _ => none
  | .copseRestore _ _ _ => none
  | .sleepExpiry _ => none
  | .yieldExpiry _ => none
  | .launchCompletion _ => none
  | .instanceClose _ _ _ => none
  | .doorbell _ _ _ => none
  | .ext _ _ => none
  | .launchCommand _ _ => none
  | .kill _ _ => none
  | .preempt _ _ => none
  | .preemptSave _ => none
  | .restore _ _ => none
  | .replyResume _ _ => none
  | .replyKill _ _ => none
  | .tlbinvCommand _ _ => none
  | .comm _ _ => none
  | .nopCommand _ _ => none
  | .map _ _ => none
  | .mapPublish _ _ => none
  | .fqhead _ _ => none
  | .cqhead _ _ _ => none
  | .errstat _ _ => none
  | .partitionRegisterWrite _ _ _ => none
  | .functionLevelReset _ => none
  | .bar2Access _ _ _ => none
  | .hostAtomicop _ _ _ => none
  | .peerRequest _ _ => none
  | .flitReceive _ _ => none
  | .flitReplay _ => none
  | .sirxoBoot => none
  | .getVersion _ => none
  | .getCapabilities _ => none
  | .negotiateAlgorithms _ => none
  | .getDigests _ => none
  | .getCertificate _ => none
  | .challenge _ _ => none
  | .getMeasurements _ => none
  | .powerSample _ => none
  | .thermalShutdown => none

/-- PG = 7 with PN = 1 is reserved (R47). -/
def Hdr.wf (h : Hdr) : Bool := !(h.pg == 7 && h.pn)

/-- KND makes DST and SA scalar (bit 33), SB (32), SC (31): a scalar register is 0 to 63 (R49, R56). -/
def FmtA.wf (f : FmtA) : Bool :=
  (!f.knd.getLsbD 2 || (f.dst.toNat < 64 && f.sa.toNat < 64)) &&
  (!f.knd.getLsbD 1 || f.sb.toNat < 64) && (!f.knd.getLsbD 0 || f.sc.toNat < 64)

/-- KNDD makes DST and SA scalar (R50, R56). -/
def FmtI.wf (f : FmtI) : Bool := !f.kndd || (f.dst.toNat < 64 && f.sa.toNat < 64)

/-- With AM = 01 AV is zero; with AM = 10 its low four bits are (R51). -/
def FmtM.wf (f : FmtM) : Bool :=
  match f.am with
  | .base => true
  | .uniform => f.av == 0
  | .ln => f.av.toNat % 16 == 0

/-- A pair of MBR that is not used. -/
def MbrPair.zero : MbrPair := { off := 0, slot := 0, pk := 0, neg := false }

/-- Every field of a pair at or above the pair count is zero (R55). -/
def FmtMbr.wf (f : FmtMbr) : Bool :=
  (f.cnt.toNat ≥ 1 || f.p1 == .zero) && (f.cnt.toNat ≥ 2 || f.p2 == .zero) &&
  (f.cnt.toNat ≥ 3 || f.p3 == .zero)

/-- A scalar destination of MOVW is 0 to 63 (R56). -/
def FmtMovw.wf (f : FmtMovw) : Bool := !f.scalar || f.dst.toNat < 64

/-- The reserved codes and ranges of a payload. -/
def Payload.wf : Payload → Bool
  | .a f => f.wf
  | .i f => f.wf
  | .m f => f.wf
  | .mbr f => f.wf
  | .movw f => f.wf
  | _ => true

/-- The operations that an engine carries out (R53). -/
def Instr.isEngine : Instr → Bool
  | .acopy _ _ _ _ | .agather _ _ | .ascatter _ _ | .acoll _ _ | .afill _ _ | .opfill _ _ _
  | .attn _ _ _ | .kvgather _ _ => true
  | _ => false

/-- TK and FP of an engine operation are not 63; of every other format-E instruction both are (R53). -/
def Instr.tokenOk (i : Instr) : Bool :=
  match i.view with
  | some (_, .e f) | some (_, .attn f _) =>
    if i.isEngine then f.tk != 63 && f.fp != 63 else f.tk == 63 && f.fp == 63
  | _ => true

/-- A V form has KND[33] = 0 and an S form KND = 111 (R61). -/
def FmtA.vsOk (f : FmtA) : Bool := f.knd == 7 || !f.knd.getLsbD 2

/-- SP and AM of an atomic (R61). -/
def FmtM.atomOk (f : FmtM) : Bool := f.sp != .ro && f.am != .ln

/-- The fields that the opcode of an instruction fixes hold a value some variant has (R61). -/
def Instr.variantOk : Instr → Bool
  | .iadd _ f | .isub _ f | .imul _ f | .icmp _ f | .shl _ f | .shr _ f | .mov _ f => f.vsOk
  | .dot16 _ f => f.ty == .e4m3 || f.ty == .e5m2
  | .dot4 _ f => f.ty == .bf16 || f.ty == .f16
  | .cvtPack _ f | .cvtUnpack _ f => f.sub.toNat % 16 == 0
  | .ld _ f | .st _ f => f.sp != .ro
  | .ldro _ f => f.sp == .ro
  | .atom _ f => f.atomOk && f.aop.toNat ≤ 11
  | .red _ f => f.atomOk && f.aop.toNat ≤ 11 && f.aop != 9
  | .cas _ f => f.atomOk && (f.sz == .b32 || f.sz == .b64 || f.sz == .b128)
  | .seqcommit _ f | .tfillFut _ f | .qcreate _ f => f.sub == 0
  | .seqcommitFork _ f | .tfillSig _ f | .qcreateFree _ f => f.sub == 1
  | .seqcommitRel _ f => f.sub == 2
  | _ => true

/-- The partition, queue and link numbers of a step of the host exist (R382, R383, R390). -/
def Instr.hostOk : Instr → Bool
  | .doorbell p q _ | .ext p q | .launchCommand p q | .kill p q | .preempt p q | .restore p q
  | .replyResume p q | .replyKill p q | .tlbinvCommand p q | .comm p q | .nopCommand p q
  | .map p q | .mapPublish p q | .cqhead p q _ => p < 16 && q < 8
  | .preemptSave p | .fqhead p _ | .errstat p _ | .functionLevelReset p | .bar2Access p _ _
  | .hostAtomicop p _ _ | .getVersion p | .getCapabilities p | .negotiateAlgorithms p
  | .getDigests p | .getCertificate p | .challenge p _ | .getMeasurements p => p < 16
  | .partitionRegisterWrite fn _ _ => fn < 16
  | .flitReceive l _ | .flitReplay l => l < 18
  | _ => true

/-- Well-formed: every check of this file. -/
def Instr.wf (i : Instr) : Bool :=
  (match i.view with
   | some (h, p) => h.wf && p.wf
   | none => true) && i.tokenOk && i.variantOk && i.hostOk

end Sys2Proof
end

