-- ==== Sys2Proof/Decode.lean ====
section
/-! DEFINITION. The decoder, total on any bytes, and the encoder (spec/02_encoding.md): the layouts of
the header and of the formats (R47-R55, R323), the codes (R57, R58), the opcode map (R60, R61), and what
each instruction's page allows in its fields (R63). A word is the natural number whose bit j is bit j
of the slot. -/

namespace Sys2Proof

/-- Why a slot, or a pair of slots, holds no instruction: the cases of R63. -/
inductive DecodeErr where
  | length
  | reservedOpcode (op : Nat)
  | reservedCode (field : String)
  | zeroField (field : String)
  | pairing
  | fixedField
  | illFormed
  | page
  deriving DecidableEq, Repr

/-! ## Fields -/

/-- The fields of a word, lowest first, given their widths. -/
def splitBits : List Nat → Nat → List Nat
  | [], _ => []
  | w :: ws, n => n % 2 ^ w :: splitBits ws (n / 2 ^ w)

/-- The word whose fields, lowest first, are given as (width, value). -/
def joinBits : List (Nat × Nat) → Nat
  | [] => 0
  | (w, v) :: r => v % 2 ^ w + 2 ^ w * joinBits r

/-- The code of a truth value. -/
def bit (b : Bool) : Nat := if b then 1 else 0

/-- A code that may be reserved, named by its field. -/
def need {α : Type} (field : String) : Option α → Except DecodeErr α
  | some a => .ok a
  | none => .error (.reservedCode field)

/-- A field that is zero in every instruction of its format. -/
def zeroField (field : String) (n : Nat) : Except DecodeErr Unit :=
  if n = 0 then .ok () else .error (.zeroField field)

def Fs.ofCode : Nat → Option Fs
  | 0 => some .none
  | 1 => some .a
  | 2 => some .b
  | _ => Option.none

def Fs.code : Fs → Nat
  | .none => 0
  | .a => 1
  | .b => 2

/-- R57. -/
def Ty.ofCode : Nat → Option Ty
  | 0 => some .i8 | 1 => some .n8 | 2 => some .i16 | 3 => some .n16
  | 4 => some .i32 | 5 => some .n32 | 6 => some .i64 | 7 => some .n64
  | 8 => some .f16 | 9 => some .bf16 | 10 => some .f32 | 11 => some .f64
  | 12 => some .e4m3 | 13 => some .e5m2 | 14 => some .e2m1 | 15 => some .o4
  | _ => none

/-- R57. -/
def Ty.code : Ty → Nat
  | .i8 => 0 | .n8 => 1 | .i16 => 2 | .n16 => 3 | .i32 => 4 | .n32 => 5 | .i64 => 6 | .n64 => 7
  | .f16 => 8 | .bf16 => 9 | .f32 => 10 | .f64 => 11 | .e4m3 => 12 | .e5m2 => 13 | .e2m1 => 14
  | .o4 => 15

/-- R58; code 6 is reserved. -/
def Rm.ofCode : Nat → Option Rm
  | 0 => some .rn | 1 => some .rz | 2 => some .ru | 3 => some .rd | 4 => some .rna | 5 => some .rs
  | 7 => some .rfmt
  | _ => none

/-- R58. -/
def Rm.code : Rm → Nat
  | .rn => 0 | .rz => 1 | .ru => 2 | .rd => 3 | .rna => 4 | .rs => 5 | .rfmt => 7

def Space.ofCode : Nat → Option Space
  | 0 => some .global | 1 => some .localSp | 2 => some .ro
  | _ => none

def Space.code : Space → Nat
  | .global => 0 | .localSp => 1 | .ro => 2

def Am.ofCode : Nat → Option Am
  | 0 => some .base | 1 => some .uniform | 2 => some .ln
  | _ => none

def Am.code : Am → Nat
  | .base => 0 | .uniform => 1 | .ln => 2

/-- The place of an address mode among the variants of LD and ST (R60). -/
def Am.variant : Am → Nat
  | .base => 0 | .ln => 1 | .uniform => 2

/-- 1 for the uniform-address form of an atomic (R60). -/
def Am.uniformBit : Am → Nat
  | .uniform => 1
  | _ => 0

def Scope.ofCode : Nat → Option Scope
  | 0 => some .core | 1 => some .die | 2 => some .pkg | 3 => some .sys
  | _ => none

def Scope.code : Scope → Nat
  | .core => 0 | .die => 1 | .pkg => 2 | .sys => 3

def Sz.ofCode : Nat → Option Sz
  | 0 => some .b8 | 1 => some .b16 | 2 => some .b32 | 3 => some .b64 | 4 => some .b128
  | _ => none

def Sz.code : Sz → Nat
  | .b8 => 0 | .b16 => 1 | .b32 => 2 | .b64 => 3 | .b128 => 4

/-- The size in bytes. -/
def Sz.bytes (z : Sz) : Nat := 2 ^ z.code

def Bm.ofCode : Nat → Option Bm
  | 0 => some .lane | 1 => some .any | 2 => some .all
  | _ => none

def Bm.code : Bm → Nat
  | .lane => 0 | .any => 1 | .all => 2

/-- PD: 0 to 6 name a predicate, 7 none, 8 to 15 are reserved (R49). -/
def Pd.ofCode (n : Nat) : Option Pd :=
  if h : n < 7 then some (some ⟨n, h⟩) else if n = 7 then some none else none

def Pd.code : Pd → Nat
  | some k => k.val
  | none => 7

/-- A slot field; 5 to 7 are reserved (R42). -/
def slotOfCode (n : Nat) : Option (Fin 5) := if h : n < 5 then some ⟨n, h⟩ else none

/-! ## The header and the formats -/

def hdrWidths : List Nat := [1, 2, 1, 3, 9]

/-- Bits [95:80] (R47). -/
def parseHdr (n : Nat) : Except DecodeErr (Nat × Hdr) :=
  match splitBits hdrWidths n with
  | [tr, fs, pn, pg, op] => do
    let fs ← need "FS" (Fs.ofCode fs)
    return (op, { pg := BitVec.ofNat 3 pg, pn := pn == 1, fs, tr := tr == 1 })
  | _ => .error .length

def hdrFields (op : Nat) (h : Hdr) : List (Nat × Nat) :=
  [(1, bit h.tr), (2, h.fs.code), (1, bit h.pn), (3, h.pg.toNat), (9, op)]

/-- R49. -/
def parseA (n : Nat) : Except DecodeErr FmtA :=
  match splitBits [19, 8, 4, 3, 3, 3, 1, 3, 4, 8, 8, 8, 8] n with
  | [z, sub, pd, knd, abs, neg, sat, rm, ty, sc, sb, sa, dst] => do
    zeroField "[18:0]" z
    let pd ← need "PD" (Pd.ofCode pd)
    let rm ← need "RM" (Rm.ofCode rm)
    let ty ← need "TY" (Ty.ofCode ty)
    return { dst := BitVec.ofNat 8 dst, sa := BitVec.ofNat 8 sa, sb := BitVec.ofNat 8 sb,
             sc := BitVec.ofNat 8 sc, ty, rm, sat := sat == 1, neg := BitVec.ofNat 3 neg,
             abs := BitVec.ofNat 3 abs, knd := BitVec.ofNat 3 knd, pd, sub := BitVec.ofNat 8 sub }
  | _ => .error .length

def fieldsA (f : FmtA) : List (Nat × Nat) :=
  [(19, 0), (8, f.sub.toNat), (4, Pd.code f.pd), (3, f.knd.toNat), (3, f.abs.toNat), (3, f.neg.toNat),
   (1, bit f.sat), (3, f.rm.code), (4, f.ty.code), (8, f.sc.toNat), (8, f.sb.toNat),
   (8, f.sa.toNat), (8, f.dst.toNat)]

/-- R50. -/
def parseI (n : Nat) : Except DecodeErr FmtI :=
  match splitBits [32, 10, 8, 4, 1, 1, 1, 3, 4, 8, 8] n with
  | [imm, z, sub, pd, kndd, nega, sat, rm, ty, sa, dst] => do
    zeroField "[41:32]" z
    let pd ← need "PD" (Pd.ofCode pd)
    let rm ← need "RM" (Rm.ofCode rm)
    let ty ← need "TY" (Ty.ofCode ty)
    return { dst := BitVec.ofNat 8 dst, sa := BitVec.ofNat 8 sa, ty, rm, sat := sat == 1,
             nega := nega == 1, kndd := kndd == 1, pd, sub := BitVec.ofNat 8 sub,
             imm := BitVec.ofNat 32 imm }
  | _ => .error .length

def fieldsI (f : FmtI) : List (Nat × Nat) :=
  [(32, f.imm.toNat), (10, 0), (8, f.sub.toNat), (4, Pd.code f.pd), (1, bit f.kndd),
   (1, bit f.nega), (1, bit f.sat), (3, f.rm.code), (4, f.ty.code), (8, f.sa.toNat),
   (8, f.dst.toNat)]

/-- R51. -/
def parseM (n : Nat) : Except DecodeErr FmtM :=
  match splitBits [32, 1, 4, 4, 4, 3, 3, 3, 2, 2, 6, 8, 8] n with
  | [off, ord, pd, ty, aop, ch, sz, sc, am, sp, as, av, dv] => do
    let pd ← need "PD" (Pd.ofCode pd)
    let ty ← need "TY" (Ty.ofCode ty)
    let sz ← need "SZ" (Sz.ofCode sz)
    let sc ← need "SC" (Scope.ofCode sc)
    let am ← need "AM" (Am.ofCode am)
    let sp ← need "SP" (Space.ofCode sp)
    return { dv := BitVec.ofNat 8 dv, av := BitVec.ofNat 8 av, as := BitVec.ofNat 6 as, sp, am, sc,
             sz, ch := BitVec.ofNat 3 ch, aop := BitVec.ofNat 4 aop, ty, pd, ord := ord == 1,
             off := BitVec.ofNat 32 off }
  | _ => .error .length

def fieldsM (f : FmtM) : List (Nat × Nat) :=
  [(32, f.off.toNat), (1, bit f.ord), (4, Pd.code f.pd), (4, f.ty.code), (4, f.aop.toNat),
   (3, f.ch.toNat), (3, f.sz.code), (3, f.sc.code), (2, f.am.code), (2, f.sp.code),
   (6, f.as.toNat), (8, f.av.toNat), (8, f.dv.toNat)]

/-- R52. -/
def parseJ (n : Nat) : Except DecodeErr FmtJ :=
  match splitBits [26, 6, 2, 3, 20, 3, 20] n with
  | [z, as, bm, rsl, rcv, tsl, tgt] => do
    zeroField "[25:0]" z
    let bm ← need "BM" (Bm.ofCode bm)
    let rsl ← need "RSL" (slotOfCode rsl)
    let tsl ← need "TSL" (slotOfCode tsl)
    return { tgt := BitVec.ofNat 20 tgt, tsl, rcv := BitVec.ofNat 20 rcv, rsl, bm,
             as := BitVec.ofNat 6 as }
  | _ => .error .length

def fieldsJ (f : FmtJ) : List (Nat × Nat) :=
  [(26, 0), (6, f.as.toNat), (2, f.bm.code), (3, f.rsl.val), (20, f.rcv.toNat), (3, f.tsl.val),
   (20, f.tgt.toNat)]

/-- R53. -/
def parseE (n : Nat) : Except DecodeErr FmtE :=
  match splitBits [24, 8, 2, 4, 4, 8, 6, 6, 6, 6, 6] n with
  | [imm, sub, acc, slb, sla, vx, pc, pb, pa, fp, tk] =>
    return { tk := BitVec.ofNat 6 tk, fp := BitVec.ofNat 6 fp, pa := BitVec.ofNat 6 pa,
             pb := BitVec.ofNat 6 pb, pc := BitVec.ofNat 6 pc, vx := BitVec.ofNat 8 vx,
             sla := BitVec.ofNat 4 sla, slb := BitVec.ofNat 4 slb, acc := BitVec.ofNat 2 acc,
             sub := BitVec.ofNat 8 sub, imm := BitVec.ofNat 24 imm }
  | _ => .error .length

def fieldsE (f : FmtE) : List (Nat × Nat) :=
  [(24, f.imm.toNat), (8, f.sub.toNat), (2, f.acc.toNat), (4, f.slb.toNat), (4, f.sla.toNat),
   (8, f.vx.toNat), (6, f.pc.toNat), (6, f.pb.toNat), (6, f.pa.toNat), (6, f.fp.toNat),
   (6, f.tk.toNat)]

/-- R54. -/
def parseY (n : Nat) : Except DecodeErr FmtY :=
  match splitBits [32, 4, 8, 4, 8, 6, 6, 6, 6] n with
  | [imm, z, sub, pd, vd, s3, s2, s1, sd] => do
    zeroField "[35:32]" z
    let pd ← need "PD" (Pd.ofCode pd)
    return { sd := BitVec.ofNat 6 sd, s1 := BitVec.ofNat 6 s1, s2 := BitVec.ofNat 6 s2,
             s3 := BitVec.ofNat 6 s3, vd := BitVec.ofNat 8 vd, pd, sub := BitVec.ofNat 8 sub,
             imm := BitVec.ofNat 32 imm }
  | _ => .error .length

def fieldsY (f : FmtY) : List (Nat × Nat) :=
  [(32, f.imm.toNat), (4, 0), (8, f.sub.toNat), (4, Pd.code f.pd), (8, f.vd.toNat), (6, f.s3.toNat),
   (6, f.s2.toNat), (6, f.s1.toNat), (6, f.sd.toNat)]

/-- One pair of MBR (R55). -/
def mbrPair (off slot pk neg : Nat) : Except DecodeErr MbrPair := do
  let slot ← need "slot" (slotOfCode slot)
  return { off := BitVec.ofNat 20 off, slot, pk := BitVec.ofNat 3 pk, neg := neg == 1 }

def pairFields (p : MbrPair) : List (Nat × Nat) :=
  [(1, bit p.neg), (3, p.pk.toNat), (3, p.slot.val), (20, p.off.toNat)]

/-- MBR in W1[79:0] and W2 (R55). -/
def parseMbr (n w2 : Nat) : Except DecodeErr FmtMbr :=
  match splitBits [3, 3, 20, 1, 3, 3, 20, 1, 3, 3, 20] n,
        splitBits [40, 2, 1, 3, 3, 20, 1, 3, 3, 20] w2 with
  | [z, rs, ro, n1, k1, s1, o1, n0, k0, s0, o0], [z', cnt, n3, k3, s3, o3, n2, k2, s2, o2] => do
    zeroField "[2:0]" z
    zeroField "W2[39:0]" z'
    let rcSlot ← need "slot" (slotOfCode rs)
    let p0 ← mbrPair o0 s0 k0 n0
    let p1 ← mbrPair o1 s1 k1 n1
    let p2 ← mbrPair o2 s2 k2 n2
    let p3 ← mbrPair o3 s3 k3 n3
    return { p0, p1, p2, p3, rcOff := BitVec.ofNat 20 ro, rcSlot, cnt := BitVec.ofNat 2 cnt }
  | _, _ => .error .length

def fieldsMbr (f : FmtMbr) : List (Nat × Nat) :=
  [(3, 0), (3, f.rcSlot.val), (20, f.rcOff.toNat)] ++ pairFields f.p1 ++ pairFields f.p0

def fieldsMbr2 (f : FmtMbr) : List (Nat × Nat) :=
  [(40, 0), (2, f.cnt.toNat)] ++ pairFields f.p3 ++ pairFields f.p2

/-- MOVW (R55). -/
def parseMovw (n w2 : Nat) : Except DecodeErr FmtMovw :=
  match splitBits [71, 1, 8] n, splitBits [64, 32] w2 with
  | [z, sc, dst], [imm, z'] => do
    zeroField "[70:0]" z
    zeroField "W2[95:64]" z'
    return { dst := BitVec.ofNat 8 dst, scalar := sc == 1, imm := BitVec.ofNat 64 imm }
  | _, _ => .error .length

def fieldsMovw (f : FmtMovw) : List (Nat × Nat) := [(71, 0), (1, bit f.scalar), (8, f.dst.toNat)]

def fieldsMovw2 (f : FmtMovw) : List (Nat × Nat) := [(64, f.imm.toNat), (32, 0)]

/-- W2 of ATTN's full form (R323). -/
def parseAttn2 (w2 : Nat) : Except DecodeErr AttnMask :=
  match splitBits [6, 6, 16, 3, 1, 64] w2 with
  | [qs, ks, win, g, c, z] => do
    zeroField "W2[95:32]" z
    return { causal := c == 1, g := BitVec.ofNat 3 g, win := BitVec.ofNat 16 win,
             ks := BitVec.ofNat 6 ks, qs := BitVec.ofNat 6 qs }
  | _ => .error .length

def fieldsAttn2 (w : AttnMask) : List (Nat × Nat) :=
  [(6, w.qs.toNat), (6, w.ks.toNat), (16, w.win.toNat), (3, w.g.toNat), (1, bit w.causal), (64, 0)]

/-! ## The opcode map -/

/-- The formats that an opcode selects. -/
inductive Format where
  | a | i | m | j | e | y | mbr | movw
  deriving DecidableEq, Repr

/-- The format of each assigned opcode, by ranges (R60). Every other opcode is reserved. -/
def formatTable : List (Nat × Nat × Format) :=
  [(0x00, 0x07, .a), (0x08, 0x08, .i), (0x09, 0x0F, .a), (0x10, 0x10, .i),
   (0x11, 0x11, .a), (0x12, 0x12, .i), (0x13, 0x13, .a), (0x14, 0x14, .i),
   (0x15, 0x25, .a), (0x26, 0x27, .i), (0x28, 0x28, .movw), (0x29, 0x2D, .a),
   (0x2E, 0x31, .y), (0x32, 0x32, .m), (0x33, 0x33, .y), (0x40, 0x40, .a),
   (0x41, 0x41, .i), (0x42, 0x42, .a), (0x43, 0x43, .i), (0x44, 0x44, .a),
   (0x45, 0x45, .i), (0x46, 0x46, .a), (0x47, 0x47, .i), (0x48, 0x48, .a),
   (0x49, 0x49, .i), (0x4A, 0x4A, .a), (0x4B, 0x4B, .i), (0x4C, 0x4C, .a),
   (0x4D, 0x4D, .i), (0x4E, 0x4E, .a), (0x4F, 0x4F, .i), (0x50, 0x50, .a),
   (0x51, 0x51, .i), (0x52, 0x71, .a), (0x72, 0x74, .y), (0x75, 0x77, .a),
   (0x80, 0x81, .j), (0x82, 0x82, .mbr), (0x83, 0x86, .j), (0x87, 0x8B, .y),
   (0x8C, 0x8C, .j), (0x8D, 0x92, .y), (0x93, 0x94, .j), (0x95, 0x97, .y),
   (0xC0, 0xCF, .m), (0xD0, 0xD7, .e), (0xD8, 0xDB, .y), (0xDC, 0xDD, .m),
   (0xDE, 0xDE, .y), (0x100, 0x133, .m), (0x134, 0x137, .y), (0x138, 0x13A, .m),
   (0x13B, 0x13C, .y), (0x140, 0x141, .y), (0x142, 0x143, .e), (0x144, 0x145, .y),
   (0x146, 0x155, .e), (0x156, 0x157, .y), (0x180, 0x195, .y), (0x1C0, 0x1D1, .y)]

def formatOf (op : Nat) : Option Format :=
  (formatTable.find? fun r => r.1 ≤ op && op ≤ r.2.1).map fun r => r.2.2

/-- The opcode of an instruction (R60, R61). A step of the device or of the host has none: 512. -/
def opcode : Instr → Nat
  | .iadd _ f => if f.knd == 7 then 0x01 else 0x00
  | .isub _ f => if f.knd == 7 then 0x03 else 0x02
  | .imul _ f => if f.knd == 7 then 0x05 else 0x04
  | .imulhi _ _ => 0x06
  | .imad _ (.a _) => 0x07
  | .imad _ (.i _) => 0x08
  | .imin _ _ => 0x09
  | .imax _ _ => 0x0A
  | .iabs _ _ => 0x0B
  | .icmp _ f => if f.knd == 7 then 0x0D else 0x0C
  | .isel _ _ => 0x0E
  | .andL _ (.a _) => 0x0F
  | .andL _ (.i _) => 0x10
  | .orL _ (.a _) => 0x11
  | .orL _ (.i _) => 0x12
  | .xorL _ (.a _) => 0x13
  | .xorL _ (.i _) => 0x14
  | .notL _ _ => 0x15
  | .tern _ _ => 0x16
  | .shl _ f => if f.knd == 7 then 0x18 else 0x17
  | .shr _ f => if f.knd == 7 then 0x1A else 0x19
  | .sha _ _ => 0x1B
  | .fshl _ _ => 0x1C
  | .fshr _ _ => 0x1D
  | .popc _ _ => 0x1E
  | .clz _ _ => 0x1F
  | .brev _ _ => 0x20
  | .bfx _ _ => 0x21
  | .bfi _ _ => 0x22
  | .bsel _ _ => 0x23
  | .mov _ f => if f.knd == 7 then 0x25 else 0x24
  | .movi _ f => if f.kndd then 0x27 else 0x26
  | .movw _ _ => 0x28
  | .laneid _ _ => 0x29
  | .xlane _ _ => 0x2A
  | .vote _ _ => 0x2B
  | .plop _ _ => 0x2C
  | .pmov _ _ => 0x2D
  | .lnset _ _ => 0x2E
  | .lnadv _ _ => 0x2F
  | .lnget _ _ => 0x30
  | .coef _ _ => 0x31
  | .addr _ _ => 0x32
  | .rep _ _ => 0x33
  | .fadd _ (.a _) => 0x40
  | .fadd _ (.i _) => 0x41
  | .fsub _ (.a _) => 0x42
  | .fsub _ (.i _) => 0x43
  | .fmul _ (.a _) => 0x44
  | .fmul _ (.i _) => 0x45
  | .ffma _ (.a _) => 0x46
  | .ffma _ (.i _) => 0x47
  | .fmin false _ (.a _) => 0x48
  | .fmin false _ (.i _) => 0x49
  | .fmin true _ (.a _) => 0x4A
  | .fmin true _ (.i _) => 0x4B
  | .fmax false _ (.a _) => 0x4C
  | .fmax false _ (.i _) => 0x4D
  | .fmax true _ (.a _) => 0x4E
  | .fmax true _ (.i _) => 0x4F
  | .fcmp _ (.a _) => 0x50
  | .fcmp _ (.i _) => 0x51
  | .fclass _ _ => 0x52
  | .frcp _ _ => 0x53
  | .frsq _ _ => 0x54
  | .fsqrt _ _ => 0x55
  | .fdiv _ _ => 0x56
  | .fexp2 _ _ => 0x57
  | .flog2 _ _ => 0x58
  | .fsin _ _ => 0x59
  | .fcos _ _ => 0x5A
  | .ftanh _ _ => 0x5B
  | .frnd _ _ => 0x5C
  | .fscale _ _ => 0x5D
  | .hadd2 _ _ => 0x5E
  | .hmul2 _ _ => 0x5F
  | .hfma2 _ _ => 0x60
  | .hmin2 _ _ => 0x61
  | .hmax2 _ _ => 0x62
  | .ffmaw _ _ => 0x63
  | .cvtFf _ _ => 0x64
  | .cvtFi _ _ => 0x65
  | .cvtIf _ _ => 0x66
  | .cvtIi _ _ => 0x67
  | .cvtPack _ _ => 0x68
  | .cvtUnpack _ _ => 0x69
  | .cvtb _ f => if f.rm == .rs then 0x6B else 0x6A
  | .unpk _ _ => 0x6C
  | .dot16 _ f => if f.ty == .e5m2 then 0x6E else 0x6D
  | .dot4 _ f => if f.ty == .f16 then 0x70 else 0x6F
  | .dot8 _ _ => 0x71
  | .fmtset _ _ => 0x72
  | .fmtget _ _ => 0x73
  | .fmtmod _ _ => 0x74
  | .dith _ _ => 0x75
  | .fsigm _ _ => 0x76
  | .ferf _ _ => 0x77
  | .bra _ _ => 0x80
  | .brc _ _ => 0x81
  | .mbr _ _ => 0x82
  | .jmpi _ _ => 0x83
  | .call _ _ => 0x84
  | .callIndirect _ _ => 0x85
  | .ret _ _ => 0x86
  | .exit _ _ => 0x87
  | .nop _ _ => 0x88
  | .yield _ _ => 0x89
  | .emrget _ _ => 0x8A
  | .emrset _ _ => 0x8B
  | .join _ _ => 0x8C
  | .rfenter _ _ => 0x8D
  | .refill _ _ => 0x8E
  | .refillLast _ _ => 0x8F
  | .rfinfo _ _ => 0x90
  | .rfexit _ _ => 0x91
  | .waitf _ _ => 0x92
  | .brx _ _ => 0x93
  | .loop _ _ => 0x94
  | .splitq _ _ => 0x95
  | .rfskip _ _ => 0x96
  | .setpri _ _ => 0x97
  | .ld _ f => 0xC0 + 2 * f.am.variant + (if f.sp == .localSp then 1 else 0)
  | .st _ f => 0xC6 + 2 * f.am.variant + (if f.sp == .localSp then 1 else 0)
  | .ldro _ f => if f.am == .ln then 0xCD else 0xCC
  | .prefL1 _ _ => 0xCE
  | .prefDie _ _ => 0xCF
  | .acopy false true _ _ => 0xD0
  | .acopy true false _ _ => 0xD1
  | .acopy false false _ _ => 0xD2
  | .acopy true true _ _ => 0xD3
  | .agather _ _ => 0xD4
  | .ascatter _ _ => 0xD5
  | .acoll _ _ => 0xD6
  | .afill _ _ => 0xD7
  | .bankrole _ _ => 0xD8
  | .bankq _ _ => 0xD9
  | .cinvSys _ _ => 0xDA
  | .cinvRo _ _ => 0xDB
  | .zline _ _ => 0xDC
  | .xprobe _ _ => 0xDD
  | .toktest _ _ => 0xDE
  | .atom _ f => 0x100 + 2 * f.aop.toNat + f.am.uniformBit
  | .red _ f => 0x118 + 2 * (if f.aop.toNat < 9 then f.aop.toNat else f.aop.toNat - 1) + f.am.uniformBit
  | .cas _ f => 0x12E + 2 * (match f.sz with | .b32 => 0 | .b64 => 1 | _ => 2) + f.am.uniformBit
  | .bar _ _ => 0x134
  | .barArrive _ _ => 0x135
  | .barWait _ _ => 0x136
  | .gbar _ _ => 0x137
  | .lcadd _ _ => 0x138
  | .lcread _ _ => 0x139
  | .lcmerge _ _ => 0x13A
  | .lcbase _ _ => 0x13B
  | .lcseed _ _ => 0x13C
  | .opclaim _ _ => 0x140
  | .oprel _ _ => 0x141
  | .opfill false _ _ => 0x142
  | .opfill true _ _ => 0x143
  | .layout _ _ => 0x144
  | .bankcnt _ _ => 0x145
  | .mma false _ _ => 0x146
  | .mma true _ _ => 0x147
  | .mmas false _ _ => 0x148
  | .mmas true _ _ => 0x149
  | .accld false _ _ => 0x14A
  | .accld true _ _ => 0x14B
  | .accst false _ _ => 0x14C
  | .accst true _ _ => 0x14D
  | .acczero _ _ => 0x14E
  | .acccvt false _ _ => 0x14F
  | .acccvt true _ _ => 0x150
  | .accscale _ _ => 0x151
  | .attn _ _ _ => 0x152
  | .smerge _ _ => 0x153
  | .kvgather _ _ => 0x154
  | .kvappend _ _ => 0x155
  | .seqcommit _ _ => 0x156
  | .seqcommitFork _ _ => 0x156
  | .seqcommitRel _ _ => 0x156
  | .seqinfo _ _ => 0x157
  | .tspawn false _ _ => 0x180
  | .tspawn true _ _ => 0x181
  | .twait false _ _ => 0x182
  | .twait true _ _ => 0x183
  | .tfillFut _ _ => 0x184
  | .tfillSig _ _ => 0x184
  | .tinfo _ _ => 0x185
  | .tyield _ _ => 0x186
  | .tcancel _ _ => 0x187
  | .enq false _ _ => 0x188
  | .enq true _ _ => 0x189
  | .deq false _ _ => 0x18A
  | .deq true _ _ => 0x18B
  | .qstat _ _ => 0x18C
  | .qcreate _ _ => 0x18D
  | .qcreateFree _ _ => 0x18D
  | .launch _ _ => 0x18E
  | .launchAgg _ _ => 0x18F
  | .sibjoin _ _ => 0x190
  | .sibleave _ _ => 0x191
  | .ballot _ _ => 0x192
  | .canchk _ _ => 0x193
  | .sibinfo _ _ => 0x194
  | .nestset _ _ => 0x195
  | .fenceAcq _ _ => 0x1C0
  | .fenceRel _ _ => 0x1C1
  | .fenceAcqrel _ _ => 0x1C2
  | .srget false _ _ => 0x1C3
  | .srget true _ _ => 0x1C4
  | .srset false _ _ => 0x1C5
  | .srset true _ _ => 0x1C6
  | .trap _ _ => 0x1C7
  | .bkpt _ _ => 0x1C8
  | .timeget _ _ => 0x1C9
  | .detphase _ _ => 0x1CA
  | .detq _ _ => 0x1CB
  | .tlbinv _ _ => 0x1CC
  | .halt _ _ => 0x1CD
  | .sleep _ _ => 0x1CE
  | .ctxsave _ _ => 0x1CF
  | .ctxrest _ _ => 0x1D0
  | .eret _ _ => 0x1D1
  | .lineEntry => 512
  | .instructionCompletion _ => 512
  | .loadDataReturn _ => 512
  | .leaseGrant _ _ => 512
  | .storePerform _ => 512
  | .storeAcknowledgement _ => 512
  | .atomicBatch _ _ => 512
  | .walkComplete _ => 512
  | .engineStart _ _ => 512
  | .tokenWrite _ => 512
  | .matrixBegin _ => 512
  | .retireAtEnd => 512
  | .refillCursorAdvance _ => 512
  | .phaseEnd _ => 512
  | .futureWake _ => 512
  | .taskStart _ _ => 512
  | .cancellationDelivery _ => 512
  | .aggregationWindowClose _ => 512
  | .lwtExpiry _ _ => 512
  | .copseAdmission _ _ _ => 512
  | .copseRestore _ _ _ => 512
  | .sleepExpiry _ => 512
  | .yieldExpiry _ => 512
  | .launchCompletion _ => 512
  | .instanceClose _ _ _ => 512
  | .doorbell _ _ _ => 512
  | .ext _ _ => 512
  | .launchCommand _ _ => 512
  | .kill _ _ => 512
  | .preempt _ _ => 512
  | .preemptSave _ => 512
  | .restore _ _ => 512
  | .replyResume _ _ => 512
  | .replyKill _ _ => 512
  | .tlbinvCommand _ _ => 512
  | .comm _ _ => 512
  | .nopCommand _ _ => 512
  | .map _ _ => 512
  | .mapPublish _ _ => 512
  | .fqhead _ _ => 512
  | .cqhead _ _ _ => 512
  | .errstat _ _ => 512
  | .partitionRegisterWrite _ _ _ => 512
  | .functionLevelReset _ => 512
  | .bar2Access _ _ _ => 512
  | .hostAtomicop _ _ _ => 512
  | .peerRequest _ _ => 512
  | .flitReceive _ _ => 512
  | .flitReplay _ => 512
  | .sirxoBoot => 512
  | .getVersion _ => 512
  | .getCapabilities _ => 512
  | .negotiateAlgorithms _ => 512
  | .getDigests _ => 512
  | .getCertificate _ => 512
  | .challenge _ _ => 512
  | .getMeasurements _ => 512
  | .powerSample _ => 512
  | .thermalShutdown => 512

/-- The instruction that an opcode of format A names (R60). -/
def mkA (op : Nat) (h : Hdr) (f : FmtA) : Option Instr :=
  match op with
  | 0x00 | 0x01 => some (.iadd h f)
  | 0x02 | 0x03 => some (.isub h f)
  | 0x04 | 0x05 => some (.imul h f)
  | 0x06 => some (.imulhi h f)
  | 0x07 => some (.imad h (.a f))
  | 0x09 => some (.imin h f)
  | 0x0A => some (.imax h f)
  | 0x0B => some (.iabs h f)
  | 0x0C | 0x0D => some (.icmp h f)
  | 0x0E => some (.isel h f)
  | 0x0F => some (.andL h (.a f))
  | 0x11 => some (.orL h (.a f))
  | 0x13 => some (.xorL h (.a f))
  | 0x15 => some (.notL h f)
  | 0x16 => some (.tern h f)
  | 0x17 | 0x18 => some (.shl h f)
  | 0x19 | 0x1A => some (.shr h f)
  | 0x1B => some (.sha h f)
  | 0x1C => some (.fshl h f)
  | 0x1D => some (.fshr h f)
  | 0x1E => some (.popc h f)
  | 0x1F => some (.clz h f)
  | 0x20 => some (.brev h f)
  | 0x21 => some (.bfx h f)
  | 0x22 => some (.bfi h f)
  | 0x23 => some (.bsel h f)
  | 0x24 | 0x25 => some (.mov h f)
  | 0x29 => some (.laneid h f)
  | 0x2A => some (.xlane h f)
  | 0x2B => some (.vote h f)
  | 0x2C => some (.plop h f)
  | 0x2D => some (.pmov h f)
  | 0x40 => some (.fadd h (.a f))
  | 0x42 => some (.fsub h (.a f))
  | 0x44 => some (.fmul h (.a f))
  | 0x46 => some (.ffma h (.a f))
  | 0x48 => some (.fmin false h (.a f))
  | 0x4A => some (.fmin true h (.a f))
  | 0x4C => some (.fmax false h (.a f))
  | 0x4E => some (.fmax true h (.a f))
  | 0x50 => some (.fcmp h (.a f))
  | 0x52 => some (.fclass h f)
  | 0x53 => some (.frcp h f)
  | 0x54 => some (.frsq h f)
  | 0x55 => some (.fsqrt h f)
  | 0x56 => some (.fdiv h f)
  | 0x57 => some (.fexp2 h f)
  | 0x58 => some (.flog2 h f)
  | 0x59 => some (.fsin h f)
  | 0x5A => some (.fcos h f)
  | 0x5B => some (.ftanh h f)
  | 0x5C => some (.frnd h f)
  | 0x5D => some (.fscale h f)
  | 0x5E => some (.hadd2 h f)
  | 0x5F => some (.hmul2 h f)
  | 0x60 => some (.hfma2 h f)
  | 0x61 => some (.hmin2 h f)
  | 0x62 => some (.hmax2 h f)
  | 0x63 => some (.ffmaw h f)
  | 0x64 => some (.cvtFf h f)
  | 0x65 => some (.cvtFi h f)
  | 0x66 => some (.cvtIf h f)
  | 0x67 => some (.cvtIi h f)
  | 0x68 => some (.cvtPack h f)
  | 0x69 => some (.cvtUnpack h f)
  | 0x6A | 0x6B => some (.cvtb h f)
  | 0x6C => some (.unpk h f)
  | 0x6D | 0x6E => some (.dot16 h f)
  | 0x6F | 0x70 => some (.dot4 h f)
  | 0x71 => some (.dot8 h f)
  | 0x75 => some (.dith h f)
  | 0x76 => some (.fsigm h f)
  | 0x77 => some (.ferf h f)
  | _ => none

/-- The instruction that an opcode of format I names (R60). -/
def mkI (op : Nat) (h : Hdr) (f : FmtI) : Option Instr :=
  match op with
  | 0x08 => some (.imad h (.i f))
  | 0x10 => some (.andL h (.i f))
  | 0x12 => some (.orL h (.i f))
  | 0x14 => some (.xorL h (.i f))
  | 0x26 | 0x27 => some (.movi h f)
  | 0x41 => some (.fadd h (.i f))
  | 0x43 => some (.fsub h (.i f))
  | 0x45 => some (.fmul h (.i f))
  | 0x47 => some (.ffma h (.i f))
  | 0x49 => some (.fmin false h (.i f))
  | 0x4B => some (.fmin true h (.i f))
  | 0x4D => some (.fmax false h (.i f))
  | 0x4F => some (.fmax true h (.i f))
  | 0x51 => some (.fcmp h (.i f))
  | _ => none

/-- The instruction that an opcode of format M names (R60). -/
def mkM (op : Nat) (h : Hdr) (f : FmtM) : Option Instr :=
  match op with
  | 0x32 => some (.addr h f)
  | 0xC0 | 0xC1 | 0xC2 | 0xC3 | 0xC4 | 0xC5 => some (.ld h f)
  | 0xC6 | 0xC7 | 0xC8 | 0xC9 | 0xCA | 0xCB => some (.st h f)
  | 0xCC | 0xCD => some (.ldro h f)
  | 0xCE => some (.prefL1 h f)
  | 0xCF => some (.prefDie h f)
  | 0xDC => some (.zline h f)
  | 0xDD => some (.xprobe h f)
  | 0x100 | 0x101 | 0x102 | 0x103 | 0x104 | 0x105 | 0x106 | 0x107 | 0x108 | 0x109 | 0x10A | 0x10B | 0x10C | 0x10D | 0x10E | 0x10F | 0x110 | 0x111 | 0x112 | 0x113 | 0x114 | 0x115 | 0x116 | 0x117 => some (.atom h f)
  | 0x118 | 0x119 | 0x11A | 0x11B | 0x11C | 0x11D | 0x11E | 0x11F | 0x120 | 0x121 | 0x122 | 0x123 | 0x124 | 0x125 | 0x126 | 0x127 | 0x128 | 0x129 | 0x12A | 0x12B | 0x12C | 0x12D => some (.red h f)
  | 0x12E | 0x12F | 0x130 | 0x131 | 0x132 | 0x133 => some (.cas h f)
  | 0x138 => some (.lcadd h f)
  | 0x139 => some (.lcread h f)
  | 0x13A => some (.lcmerge h f)
  | _ => none

/-- The instruction that an opcode of format J names (R60). -/
def mkJ (op : Nat) (h : Hdr) (f : FmtJ) : Option Instr :=
  match op with
  | 0x80 => some (.bra h f)
  | 0x81 => some (.brc h f)
  | 0x83 => some (.jmpi h f)
  | 0x84 => some (.call h f)
  | 0x85 => some (.callIndirect h f)
  | 0x86 => some (.ret h f)
  | 0x8C => some (.join h f)
  | 0x93 => some (.brx h f)
  | 0x94 => some (.loop h f)
  | _ => none

/-- The instruction that an opcode of format E, and ATTN in its short form names (R60). -/
def mkE (op : Nat) (h : Hdr) (f : FmtE) : Option Instr :=
  match op with
  | 0xD0 => some (.acopy false true h f)
  | 0xD1 => some (.acopy true false h f)
  | 0xD2 => some (.acopy false false h f)
  | 0xD3 => some (.acopy true true h f)
  | 0xD4 => some (.agather h f)
  | 0xD5 => some (.ascatter h f)
  | 0xD6 => some (.acoll h f)
  | 0xD7 => some (.afill h f)
  | 0x142 => some (.opfill false h f)
  | 0x143 => some (.opfill true h f)
  | 0x146 => some (.mma false h f)
  | 0x147 => some (.mma true h f)
  | 0x148 => some (.mmas false h f)
  | 0x149 => some (.mmas true h f)
  | 0x14A => some (.accld false h f)
  | 0x14B => some (.accld true h f)
  | 0x14C => some (.accst false h f)
  | 0x14D => some (.accst true h f)
  | 0x14E => some (.acczero h f)
  | 0x14F => some (.acccvt false h f)
  | 0x150 => some (.acccvt true h f)
  | 0x151 => some (.accscale h f)
  | 0x152 => some (.attn none h f)
  | 0x153 => some (.smerge h f)
  | 0x154 => some (.kvgather h f)
  | 0x155 => some (.kvappend h f)
  | _ => none

/-- The instruction that an opcode of format Y names (R60). -/
def mkY (op : Nat) (h : Hdr) (f : FmtY) : Option Instr :=
  match op with
  | 0x2E => some (.lnset h f)
  | 0x2F => some (.lnadv h f)
  | 0x30 => some (.lnget h f)
  | 0x31 => some (.coef h f)
  | 0x33 => some (.rep h f)
  | 0x72 => some (.fmtset h f)
  | 0x73 => some (.fmtget h f)
  | 0x74 => some (.fmtmod h f)
  | 0x87 => some (.exit h f)
  | 0x88 => some (.nop h f)
  | 0x89 => some (.yield h f)
  | 0x8A => some (.emrget h f)
  | 0x8B => some (.emrset h f)
  | 0x8D => some (.rfenter h f)
  | 0x8E => some (.refill h f)
  | 0x8F => some (.refillLast h f)
  | 0x90 => some (.rfinfo h f)
  | 0x91 => some (.rfexit h f)
  | 0x92 => some (.waitf h f)
  | 0x95 => some (.splitq h f)
  | 0x96 => some (.rfskip h f)
  | 0x97 => some (.setpri h f)
  | 0xD8 => some (.bankrole h f)
  | 0xD9 => some (.bankq h f)
  | 0xDA => some (.cinvSys h f)
  | 0xDB => some (.cinvRo h f)
  | 0xDE => some (.toktest h f)
  | 0x134 => some (.bar h f)
  | 0x135 => some (.barArrive h f)
  | 0x136 => some (.barWait h f)
  | 0x137 => some (.gbar h f)
  | 0x13B => some (.lcbase h f)
  | 0x13C => some (.lcseed h f)
  | 0x140 => some (.opclaim h f)
  | 0x141 => some (.oprel h f)
  | 0x144 => some (.layout h f)
  | 0x145 => some (.bankcnt h f)
  | 0x156 => match f.sub.toNat with
    | 0 => some (.seqcommit h f)
    | 1 => some (.seqcommitFork h f)
    | 2 => some (.seqcommitRel h f)
    | _ => none
  | 0x157 => some (.seqinfo h f)
  | 0x180 => some (.tspawn false h f)
  | 0x181 => some (.tspawn true h f)
  | 0x182 => some (.twait false h f)
  | 0x183 => some (.twait true h f)
  | 0x184 => match f.sub.toNat with
    | 0 => some (.tfillFut h f)
    | 1 => some (.tfillSig h f)
    | _ => none
  | 0x185 => some (.tinfo h f)
  | 0x186 => some (.tyield h f)
  | 0x187 => some (.tcancel h f)
  | 0x188 => some (.enq false h f)
  | 0x189 => some (.enq true h f)
  | 0x18A => some (.deq false h f)
  | 0x18B => some (.deq true h f)
  | 0x18C => some (.qstat h f)
  | 0x18D => match f.sub.toNat with
    | 0 => some (.qcreate h f)
    | 1 => some (.qcreateFree h f)
    | _ => none
  | 0x18E => some (.launch h f)
  | 0x18F => some (.launchAgg h f)
  | 0x190 => some (.sibjoin h f)
  | 0x191 => some (.sibleave h f)
  | 0x192 => some (.ballot h f)
  | 0x193 => some (.canchk h f)
  | 0x194 => some (.sibinfo h f)
  | 0x195 => some (.nestset h f)
  | 0x1C0 => some (.fenceAcq h f)
  | 0x1C1 => some (.fenceRel h f)
  | 0x1C2 => some (.fenceAcqrel h f)
  | 0x1C3 => some (.srget false h f)
  | 0x1C4 => some (.srget true h f)
  | 0x1C5 => some (.srset false h f)
  | 0x1C6 => some (.srset true h f)
  | 0x1C7 => some (.trap h f)
  | 0x1C8 => some (.bkpt h f)
  | 0x1C9 => some (.timeget h f)
  | 0x1CA => some (.detphase h f)
  | 0x1CB => some (.detq h f)
  | 0x1CC => some (.tlbinv h f)
  | 0x1CD => some (.halt h f)
  | 0x1CE => some (.sleep h f)
  | 0x1CF => some (.ctxsave h f)
  | 0x1D0 => some (.ctxrest h f)
  | 0x1D1 => some (.eret h f)
  | _ => none

/-- The instruction of an opcode, its header and its payload. -/
def mkInstr (op : Nat) (h : Hdr) : Payload → Option Instr
  | .a f => mkA op h f
  | .i f => mkI op h f
  | .m f => mkM op h f
  | .j f => mkJ op h f
  | .e f => mkE op h f
  | .y f => mkY op h f
  | .mbr f => if op = 0x82 then some (.mbr h f) else none
  | .movw f => if op = 0x28 then some (.movw h f) else none
  | .attn f w => if op = 0x152 then some (.attn (some w) h f) else none

/-- The payload of a word, in a pair or alone (R37, R55). -/
def parsePayload (op n : Nat) (w2 : Option Nat) : Except DecodeErr Payload :=
  match formatOf op, w2 with
  | none, _ => .error (.reservedOpcode op)
  | some .mbr, some w => Payload.mbr <$> parseMbr n w
  | some .movw, some w => Payload.movw <$> parseMovw n w
  | some .e, some w =>
    if op = 0x152 then do
      let f ← parseE n
      let m ← parseAttn2 w
      return .attn f m
    else .error .pairing
  | some _, some _ => .error .pairing
  | some .mbr, none | some .movw, none => .error .pairing
  | some .a, none => Payload.a <$> parseA n
  | some .i, none => Payload.i <$> parseI n
  | some .m, none => Payload.m <$> parseM n
  | some .j, none => Payload.j <$> parseJ n
  | some .e, none => Payload.e <$> parseE n
  | some .y, none => Payload.y <$> parseY n

/-! ## What an instruction's own page allows -/

/-- A signed integer type. -/
def Ty.signed : Ty → Bool
  | .i8 | .i16 | .i32 | .i64 => true
  | _ => false

/-- An integer type of 32 or 64 bits. -/
def Ty.int : Ty → Bool
  | .i32 | .n32 | .i64 | .n64 => true
  | _ => false

/-- The registers that one value of a type takes (R88). -/
def Ty.regs : Ty → Nat
  | .i64 | .n64 | .f64 => 2
  | _ => 1

/-- The bits of a type's width of operation (R95). -/
def Ty.width (t : Ty) : Nat :=
  match t with
  | .i8 | .n8 | .e4m3 | .e5m2 => 8
  | .i16 | .n16 | .f16 | .bf16 => 16
  | .i32 | .n32 | .f32 => 32
  | .i64 | .n64 | .f64 => 64
  | .e2m1 | .o4 => 4

/-- The registers of an access of a size; a byte or a halfword takes one (R201). -/
def Sz.regs (z : Sz) : Nat := (z.bytes + 3) / 4

/-- What the page of a format-A instruction accepts (R96, R98, R169): types, KND codes, which sources it
reads, whether SAT, NEG with ABS (the mask of sources), a predicate destination, and SUB codes. -/
structure PageA where
  tys : List Ty
  knds : List Nat
  a : Bool := true
  b : Bool := false
  c : Bool := false
  d : Bool := true
  sat : Bool := false
  signs : Nat := 0
  pd : Bool := false
  rms : List Rm := [.rn]
  sub : Nat → Bool := fun n => n == 0

/-- A format-A instruction holds what its page accepts, and zero in every other field. -/
def PageA.ok (p : PageA) (f : FmtA) : Bool :=
  p.tys.contains f.ty && p.knds.contains f.knd.toNat && (p.d || f.dst == 0) && (p.a || f.sa == 0) &&
  (p.b || f.sb == 0) && (p.c || f.sc == 0) && (p.sat || !f.sat) && (p.pd || f.pd == none) &&
  p.rms.contains f.rm && p.sub f.sub.toNat &&
  (f.neg &&& ~~~(BitVec.ofNat 3 p.signs)) == 0 && (f.abs &&& ~~~(BitVec.ofNat 3 p.signs)) == 0

/-- KND codes by which sources may be scalar: SB, SB and SC, or none; and every operand of an S form. -/
def kB : List Nat := [0, 2]
def kBC : List Nat := [0, 1, 2, 3]
def kNone : List Nat := [0]
def kS : List Nat := [7]

def intTys : List Ty := [.i32, .n32, .i64, .n64]

/-- NEG and ABS are accepted only with an i type (R96). -/
def signsOf (t : Ty) (m : Nat) : Nat := if t.signed then m else 0

/-- IADD and ISUB, V forms (R98): SUB[7] selects .x2 of a 16-bit type; SUB[3] a carry-in. -/
def addOk (f : FmtA) : Bool :=
  if f.knd == 7 then
    { tys := intTys, knds := kS, b := true, sat := true, signs := signsOf f.ty 6 : PageA }.ok f
  else
    { tys := if f.sub.toNat == 0x80 then [.i16, .n16] else intTys, knds := kB, b := true, sat := true,
      signs := signsOf f.ty 6, pd := true,
      sub := fun n => n == 0 || n == 0x80 || (8 ≤ n && n ≤ 14) : PageA }.ok f

/-- IMIN and IMAX (R98). -/
def minOk (f : FmtA) : Bool :=
  { tys := if f.sub.toNat == 0x80 then [.i16, .n16] else intTys, knds := kB, b := true,
    signs := signsOf f.ty 6, sub := fun n => n == 0 || n == 0x80 : PageA }.ok f

/-- A logic or shift instruction of two sources (R103, R104). -/
def twoOk (knds : List Nat) (f : FmtA) : Bool := { tys := intTys, knds, b := true : PageA }.ok f

/-- Source B may be a scalar in a V form; an S form has every operand scalar (R104). -/
def vsKnds (f : FmtA) : List Nat := if f.knd == 7 then kS else kB

/-- A format-I instruction of class 0: unused fields zero (R96). -/
def FmtI.plain (f : FmtI) : Bool := f.rm == .rn && f.pd == none && f.sub == 0

/-- The I form of a logic instruction (R103). -/
def logicIOk (f : FmtI) : Bool := intTys.contains f.ty && f.plain && !f.sat && !f.nega

/-- The fields of format Y that a page does not use are zero, given in order SD, S1, S2, S3, VD, PD,
SUB, IMM32. -/
structure PageY where
  sd : Bool := false
  s1 : Bool := false
  s2 : Bool := false
  s3 : Bool := false
  vd : Bool := false
  pd : Bool := false
  fs : Bool := false
  full : Bool := false
  tr : Bool := false
  sub : Nat → Bool := fun n => n == 0
  imm : Nat → Bool := fun n => n == 0

/-- A format-Y instruction and its header hold what its page accepts. `full` asks for PG = 7, PN = 0. -/
def PageY.ok (p : PageY) (h : Hdr) (f : FmtY) : Bool :=
  (p.sd || f.sd == 0) && (p.s1 || f.s1 == 0) && (p.s2 || f.s2 == 0) && (p.s3 || f.s3 == 0) &&
  (p.vd || f.vd == 0) && (p.pd || f.pd == none) && (p.fs || h.fs == .none) &&
  (!p.full || (h.pg == 7 && !h.pn)) && (p.tr || !h.tr) && p.sub f.sub.toNat && p.imm f.imm.toNat

/-- The pages of class 0 (R95-R123). -/
def page0 : Instr → Bool
  | .iadd _ f | .isub _ f => addOk f
  | .imul _ f =>
    { tys := intTys, knds := vsKnds f, b := true, sat := true, signs := signsOf f.ty 6 : PageA }.ok f
  | .imulhi _ f => twoOk kB f
  | .imad _ (.a f) =>
    { tys := intTys, knds := kBC, b := true, c := true, sat := true, signs := signsOf f.ty 7 : PageA }.ok f
  | .imad _ (.i f) => intTys.contains f.ty && f.plain && (f.ty.signed || !f.nega)
  | .imin _ f | .imax _ f => minOk f
  | .iabs _ f => { tys := [.i32, .i64], knds := kNone, sat := true : PageA }.ok f
  | .icmp _ f =>
    { tys := intTys, knds := vsKnds f, b := true, d := false, pd := true, signs := signsOf f.ty 6,
      sub := fun n => n ≤ 5 : PageA }.ok f && f.pd != none
  | .isel _ f => { tys := intTys, knds := kB, b := true, sub := fun n => n < 16 : PageA }.ok f
  | .andL _ (.a f) | .orL _ (.a f) | .xorL _ (.a f) => twoOk kB f
  | .andL _ (.i f) | .orL _ (.i f) | .xorL _ (.i f) => logicIOk f
  | .notL _ f | .popc _ f | .clz _ f | .brev _ f => { tys := intTys, knds := kNone : PageA }.ok f
  | .tern _ f =>
    { tys := intTys, knds := kBC, b := true, c := true, sub := fun _ => true : PageA }.ok f
  | .shl _ f | .shr _ f => twoOk (vsKnds f) f
  | .sha _ f | .bfx _ f => twoOk kB f
  | .fshl _ f | .fshr _ f | .bfi _ f => { tys := intTys, knds := kBC, b := true, c := true : PageA }.ok f
  | .bsel _ f => { tys := [.i32, .n32], knds := kBC, b := true, c := true : PageA }.ok f
  | .mov _ f => { tys := intTys, knds := vsKnds f, a := false, b := true : PageA }.ok f
  | .movi _ f =>
    (f.ty.int || f.ty == .f32 || f.ty == .f16 || f.ty == .bf16) && f.sa == 0 && f.plain && !f.sat && !f.nega
  | .movw _ _ => true
  | .laneid _ f => { tys := [.i32], knds := kNone, a := false : PageA }.ok f
  | .xlane _ f =>
    { tys := intTys, knds := kB, b := true, pd := true, sub := fun n => n / 4 ≤ 5 : PageA }.ok f
  | .vote _ f =>
    let m := f.sub.toNat % 8
    { tys := if m ≤ 3 then [.i32] else intTys, knds := if m = 6 then [5] else [4], a := false,
      b := decide (4 ≤ m), c := m = 6, pd := m = 2 || m = 3 || m = 4,
      sub := fun n => n < 128 && n % 8 ≠ 7 && (n % 8 ≤ 3 || n / 8 == 0) : PageA }.ok f
  | .plop _ f =>
    { tys := [.i32], knds := kNone, b := true, c := true, d := false, pd := true,
      sub := fun _ => true : PageA }.ok f && f.pd != none &&
    f.sa.toNat ≤ 7 && f.sb.toNat ≤ 7 && f.sc.toNat ≤ 7
  | .pmov _ f =>
    { tys := [.i32], knds := kNone, a := f.sub == 1, d := f.sub == 0, sub := fun n => n ≤ 1 : PageA }.ok f
  | .lnset h f =>
    { s1 := true, s2 := true, s3 := true, vd := f.sub.toNat / 4 == 2, fs := true,
      sub := fun n => n / 4 ≤ 2 : PageY }.ok h f
  | .lnadv h f => { pd := true, fs := true, sub := fun n => n < 8 : PageY }.ok h f
  | .lnget h f =>
    let n := f.sub.toNat
    { sd := n ≥ 4, vd := n < 4, fs := true, tr := n < 4,
      sub := fun n => n < 4 || (0x10 ≤ n && n ≤ 0x24),
      imm := fun m => m == 0 || (n ≥ 0x20 && m < 16) : PageY }.ok h f
  | .coef h f =>
    { s1 := true, s2 := true, s3 := f.sub == 0, fs := true, sub := fun n => n ≤ 1,
      imm := fun m => m < 16 : PageY }.ok h f
  | .addr _ f =>
    f.sp != .ro && f.sc == .core && f.sz == .b8 && f.ch == 0 && f.aop == 0 && f.ty == .i8 && !f.ord
  | .rep h f =>
    { s1 := f.sub.toNat / 16 == 1, full := true, sub := fun n => n < 32,
      imm := fun m => m < 2 ^ 24 && (f.sub.toNat / 16 == 0 || m % 2 ^ 16 == 0) : PageY }.ok h f
  | _ => true

/-- The vector registers that a format-A instruction names: counts of registers for DST, SA, SB and SC,
0 where the field names none. -/
def vecA (f : FmtA) (d a b c : Nat) : List (Nat × Nat) :=
  (if f.knd.getLsbD 2 then [] else [(f.dst.toNat, d), (f.sa.toNat, a)]) ++
  (if f.knd.getLsbD 1 then [] else [(f.sb.toNat, b)]) ++
  (if f.knd.getLsbD 0 then [] else [(f.sc.toNat, c)])

/-- The vector registers of a format-I instruction: DST and SA, unless KNDD makes them scalar. -/
def vecI (f : FmtI) (d a : Nat) : List (Nat × Nat) :=
  if f.kndd then [] else [(f.dst.toNat, d), (f.sa.toNat, a)]

/-- The vector registers of a format-M instruction: `n` at DV, and AV where the address uses it. -/
def vecM (f : FmtM) (n : Nat) : List (Nat × Nat) :=
  [(f.dv.toNat, n), (f.av.toNat, if f.am == .base then 1 else 0)]

/-- The vector operands of class 0: (first register, how many). -/
def vops0 : Instr → List (Nat × Nat)
  | .iadd _ f | .isub _ f | .imul _ f | .imulhi _ f | .imin _ f | .imax _ f | .isel _ f
  | .andL _ (.a f) | .orL _ (.a f) | .xorL _ (.a f) => vecA f f.ty.regs f.ty.regs f.ty.regs 0
  | .imad _ (.a f) | .tern _ f => vecA f f.ty.regs f.ty.regs f.ty.regs f.ty.regs
  | .imad _ (.i f) | .andL _ (.i f) | .orL _ (.i f) | .xorL _ (.i f) => vecI f f.ty.regs f.ty.regs
  | .iabs _ f | .notL _ f | .brev _ f => vecA f f.ty.regs f.ty.regs 0 0
  | .icmp _ f => vecA f 0 f.ty.regs f.ty.regs 0
  | .shl _ f | .shr _ f | .sha _ f | .bfx _ f | .xlane _ f => vecA f f.ty.regs f.ty.regs 1 0
  | .fshl _ f | .fshr _ f => vecA f f.ty.regs f.ty.regs f.ty.regs 1
  | .popc _ f | .clz _ f => vecA f 1 f.ty.regs 0 0
  | .bfi _ f => vecA f f.ty.regs f.ty.regs 1 f.ty.regs
  | .bsel _ f => vecA f 1 1 1 1
  | .mov _ f => vecA f f.ty.regs 0 f.ty.regs 0
  | .movi _ f => vecI f f.ty.regs 0
  | .movw _ f => if f.scalar then [] else [(f.dst.toNat, 2)]
  | .laneid _ f => vecA f 1 0 0 0
  | .vote _ f => if f.sub.toNat % 8 ≥ 4 then [(f.sb.toNat, f.ty.regs)] else []
  | .pmov _ f => if f.sub == 0 then [(f.dst.toNat, 1)] else [(f.sa.toNat, 1)]
  | .lnset _ f => if f.sub.toNat / 4 == 2 then [(f.vd.toNat, 1)] else []
  | .lnget _ f => if f.sub.toNat < 4 then [(f.vd.toNat, 1)] else []
  | .addr _ f => vecM f 2
  | _ => []

def fTys : List Ty := [.f16, .bf16, .f32, .f64]
def fTys3 : List Ty := [.f16, .bf16, .f32]
def rmArith : List Rm := [.rn, .rz, .ru, .rd, .rna, .rfmt]
def anyIntTys : List Ty := [.i8, .n8, .i16, .n16, .i32, .n32, .i64, .n64]
def cvtTys : List Ty := [.f16, .bf16, .f32, .f64, .e4m3, .e5m2]
def blockTys : List Ty := [.e4m3, .e5m2, .e2m1, .o4]

/-- SUB[7] is .x2, which f64 does not have (R169, R170). -/
def subX2 (t : Ty) (n : Nat) : Bool := n == 0 || (n == 0x80 && t != .f64)

/-- The V form of FADD, FSUB, FMUL and FFMA (R170). -/
def fArithOk (c : Bool) (f : FmtA) : Bool :=
  { tys := fTys, knds := if c then kBC else kB, b := true, c, sat := true, signs := if c then 7 else 6,
    rms := rmArith, sub := subX2 f.ty : PageA }.ok f

/-- The I form of FADD, FSUB, FMUL and FFMA (R169, R170). -/
def fArithIOk (f : FmtI) : Bool :=
  fTys.contains f.ty && !f.kndd && rmArith.contains f.rm && !f.sat && f.pd == none && f.sub == 0

/-- FMIN and FMAX (R171). -/
def fMinOk : FmtAI → Bool
  | .a f => { tys := fTys, knds := kB, b := true, signs := 6, sub := subX2 f.ty : PageA }.ok f
  | .i f => fTys.contains f.ty && !f.kndd && f.plain && !f.sat

/-- The instructions of one source of R174. -/
def fOneOk (tys : List Ty) (rms : List Rm) (f : FmtA) : Bool :=
  { tys, knds := kNone, sat := true, signs := 4, rms : PageA }.ok f

/-- The packed instructions of R175. -/
def hOk (c sat num : Bool) (rms : List Rm) (f : FmtA) : Bool :=
  { tys := fTys3, knds := if c then kBC else kB, b := true, c, sat, signs := if c then 7 else 6, rms,
    sub := fun n => n % 64 < (if c then 64 else 16) && n < (if num then 128 else 64) : PageA }.ok f

/-- The source type of a conversion (R177). -/
def cvtSrc (f : FmtA) : Option Ty := if f.sub.toNat < 16 then Ty.ofCode f.sub.toNat else none

/-- A conversion (R177). -/
def cvtOk (tys src : List Ty) (rms : List Rm) (sat : Bool) (signs : Nat) (f : FmtA) : Bool :=
  { tys, knds := kNone, sat, signs, rms, sub := fun _ => (cvtSrc f).any fun t => src.contains t : PageA }.ok f

/-- The pages of class 1 (R169-R183). KND[32], a scalar SB, is refused on DOT16, DOT4 and DOT8, whose SB is a
quad or an even pair of vector registers (R180, R181), although R169 allows a scalar SB generally (log 63). -/
def page1 : Instr → Bool
  | .fadd _ (.a f) | .fsub _ (.a f) | .fmul _ (.a f) => fArithOk false f
  | .ffma _ (.a f) => fArithOk true f
  | .fadd _ (.i f) | .fsub _ (.i f) | .fmul _ (.i f) | .ffma _ (.i f) => fArithIOk f
  | .fmin _ _ f | .fmax _ _ f => fMinOk f
  | .fcmp _ (.a f) =>
    { tys := fTys, knds := kB, b := true, d := false, signs := 6, pd := true,
      sub := fun n => n < 8 : PageA }.ok f && f.pd != none
  | .fcmp _ (.i f) =>
    fTys.contains f.ty && !f.kndd && f.rm == .rn && !f.sat && f.dst == 0 && f.pd != none && f.sub.toNat < 8
  | .fclass _ f => { tys := fTys, knds := kNone : PageA }.ok f
  | .frcp _ f | .frsq _ f => fOneOk fTys [.rn] f
  | .fsqrt _ f | .frnd _ f => fOneOk fTys rmArith f
  | .fdiv _ f => { tys := fTys, knds := kB, b := true, sat := true, signs := 6, rms := rmArith : PageA }.ok f
  | .fexp2 _ f | .flog2 _ f | .fsin _ f | .fcos _ f | .ftanh _ f | .fsigm _ f | .ferf _ f =>
    fOneOk fTys3 [.rn] f
  | .fscale _ f => { tys := fTys, knds := kB, b := true, sat := true, signs := 4, rms := rmArith : PageA }.ok f
  | .hadd2 _ f | .hmul2 _ f => hOk false true false rmArith f
  | .hfma2 _ f => hOk true true false rmArith f
  | .hmin2 _ f | .hmax2 _ f => hOk false false true [.rn] f
  | .ffmaw _ f =>
    { tys := [.f16, .bf16], knds := kBC, b := true, c := true, sat := true, signs := 7, rms := rmArith,
      sub := fun n => n < 4 : PageA }.ok f
  | .cvtFf _ f => cvtOk cvtTys cvtTys (.rs :: rmArith) true 4 f
  | .cvtFi _ f => cvtOk anyIntTys fTys rmArith false 4 f
  | .cvtIf _ f => cvtOk fTys anyIntTys rmArith false 0 f
  | .cvtIi _ f => cvtOk anyIntTys anyIntTys [.rn] true 0 f
  | .cvtPack _ f =>
    { tys := [.f16, .bf16], knds := kB, b := true, sat := true, signs := 6, rms := .rs :: rmArith : PageA }.ok f
  | .cvtUnpack _ f => { tys := [.f16, .bf16], knds := kNone, signs := 4 : PageA }.ok f
  | .cvtb h f =>
    { tys := blockTys, knds := [2], b := true, rms := .rs :: rmArith : PageA }.ok f && h.pg == 7 && !h.pn
  | .unpk _ f => { tys := blockTys, knds := [2], b := true : PageA }.ok f
  | .dot16 _ f =>
    { tys := [.e4m3, .e5m2], knds := [0, 1], b := true, c := true, sat := true, signs := 1,
      rms := [.rn, .rfmt] : PageA }.ok f
  | .dot4 _ f =>
    { tys := [.bf16, .f16], knds := [0, 1], b := true, c := true, sat := true, signs := 7,
      rms := rmArith : PageA }.ok f
  | .dot8 _ f =>
    { tys := [.i8, .n8], knds := [0, 1], b := true, c := true, sat := true,
      sub := fun n => n ≤ 1 : PageA }.ok f
  | .fmtset h f =>
    { s1 := f.sub == 0, fs := true, sub := fun n => n ≤ 1,
      imm := fun n => n == 0 || f.sub == 1 : PageY }.ok h f
  | .fmtget h f => { sd := true, fs := true : PageY }.ok h f
  | .fmtmod h f => { s1 := true, fs := true, imm := fun _ => true : PageY }.ok h f
  | .dith _ f => { tys := [.n32], knds := kB, a := false, b := true : PageA }.ok f
  | _ => true

/-- Registers of one source under .x2: f32 takes a pair (R156). -/
def xRegs (f : FmtA) : Nat := if f.sub.getLsbD 7 && f.ty == .f32 then 2 else f.ty.regs

/-- Registers of a packed pair (R175). -/
def hRegs (t : Ty) : Nat := if t == .f32 then 2 else 1

/-- The vector operands of class 1. -/
def vops1 : Instr → List (Nat × Nat)
  | .fadd _ (.a f) | .fsub _ (.a f) | .fmul _ (.a f) | .fmin _ _ (.a f) | .fmax _ _ (.a f) =>
    vecA f (xRegs f) (xRegs f) (xRegs f) 0
  | .ffma _ (.a f) => vecA f (xRegs f) (xRegs f) (xRegs f) (xRegs f)
  | .fadd _ (.i f) | .fsub _ (.i f) | .fmul _ (.i f) | .ffma _ (.i f) | .fmin _ _ (.i f) | .fmax _ _ (.i f) =>
    vecI f f.ty.regs f.ty.regs
  | .fcmp _ (.a f) => vecA f 0 f.ty.regs f.ty.regs 0
  | .fcmp _ (.i f) => vecI f 0 f.ty.regs
  | .fclass _ f => vecA f 1 f.ty.regs 0 0
  | .frcp _ f | .frsq _ f | .fsqrt _ f | .fexp2 _ f | .flog2 _ f | .fsin _ f | .fcos _ f | .ftanh _ f
  | .fsigm _ f | .ferf _ f | .frnd _ f => vecA f f.ty.regs f.ty.regs 0 0
  | .fdiv _ f => vecA f f.ty.regs f.ty.regs f.ty.regs 0
  | .fscale _ f => vecA f f.ty.regs f.ty.regs 1 0
  | .hadd2 _ f | .hmul2 _ f | .hmin2 _ f | .hmax2 _ f => vecA f (hRegs f.ty) (hRegs f.ty) (hRegs f.ty) 0
  | .hfma2 _ f => vecA f (hRegs f.ty) (hRegs f.ty) (hRegs f.ty) (hRegs f.ty)
  | .ffmaw _ f => vecA f 1 1 1 1
  | .cvtFf _ f | .cvtFi _ f | .cvtIf _ f | .cvtIi _ f =>
    vecA f f.ty.regs (((cvtSrc f).map Ty.regs).getD 1) 0 0
  | .cvtPack _ f => vecA f 1 1 1 0
  | .cvtUnpack _ f => vecA f 2 1 0 0
  | .cvtb _ f | .unpk _ f => vecA f 1 1 0 0
  | .dot16 _ f => vecA f 1 4 4 1
  | .dot4 _ f | .dot8 _ f => vecA f 1 2 2 1
  | .dith _ f => vecA f 1 0 1 0
  | _ => []
/-- A format-J instruction (R132): FS is 00, and the target, the reconvergence point, BM and AS are zero
where the instruction does not use them. -/
def jOk (h : Hdr) (f : FmtJ) (tgt rc bm as_ : Bool) : Bool :=
  h.fs == .none && (tgt || (f.tgt == 0 && f.tsl == 0)) && (rc || (f.rcv == 0 && f.rsl == 0)) &&
  (bm || f.bm == .lane) && (as_ || f.as == 0)

/-- The pages of class 2 (R132, R137, R138, R140, R152). -/
def page2 : Instr → Bool
  | .bra h f => jOk h f true (f.bm == .lane) true false
  | .brc h f | .brx h f | .loop h f | .call h f => jOk h f true false false true
  | .jmpi h f | .callIndirect h f | .ret h f => jOk h f false false false true
  | .join h f => jOk h f false false false false
  | .mbr h _ => h.fs == .none
  | .exit h f | .rfexit h f | .rfskip h f => ({} : PageY).ok h f
  | .nop h f => { fs := true : PageY }.ok h f
  | .yield h f => { imm := fun n => n < 2 ^ 16 : PageY }.ok h f
  | .emrget h f => { sd := true : PageY }.ok h f
  | .emrset h f => { s1 := true : PageY }.ok h f
  | .rfenter h f => { full := true, imm := fun n => n < 16 : PageY }.ok h f
  | .refill h f | .refillLast h f => { full := true, sub := fun n => n < 16 : PageY }.ok h f
  | .rfinfo h f =>
    { sd := f.sub.toNat ≥ 3, vd := f.sub.toNat ≤ 2, tr := f.sub.toNat ≤ 2, sub := fun n => n ≤ 4 : PageY }.ok h f
  | .waitf h f => { imm := fun n => n < 2 ^ 12 : PageY }.ok h f
  | .splitq h f =>
    { sd := true, sub := fun n => n ≤ 4,
      imm := fun n => n == 0 || ((f.sub == 1 || f.sub == 2) && n < 1024) : PageY }.ok h f
  | .setpri h f => { imm := fun n => n < 4 : PageY }.ok h f
  | _ => true

/-- The vector operands of class 2. -/
def vops2 : Instr → List (Nat × Nat)
  | .rfinfo _ f => if f.sub.toNat ≤ 2 then [(f.vd.toNat, 1)] else []
  | _ => []
/-- CH of an access (R201): LD takes codes 0 to 3, ST 0, 2 and 3, a LOCAL access 0. -/
def chOk (f : FmtM) (store : Bool) : Bool :=
  if f.sp == .localSp then f.ch == 0 else f.ch.toNat ≤ 3 && !(store && f.ch == 1)

/-- SC of LD and ST: a scope where ORD is 1 on a GLOBAL access, else 000 (R201, R203). -/
def scOk (f : FmtM) : Bool := (f.ord && f.sp == .global) || f.sc == .core

/-- TY of a load (R201). -/
def loadTy (f : FmtM) : Bool := f.ty == .n32 || (f.ty == .i32 && f.sz.bytes < 4)

/-- A format-M instruction that names lines and moves no data (R205-R207). -/
def probeOk (f : FmtM) : Bool :=
  f.sp == .global && f.sz == .b8 && f.ty == .i8 && f.sc == .core && !f.ord

/-- What the page of a format-E instruction uses, beside TK and FP (R53, R218): fields it does not use are
zero, and `full` asks for PG = 7, PN = 0. -/
structure PageE where
  pa : Bool := false
  pb : Bool := false
  pc : Bool := false
  vx : Bool := false
  sla : Bool := false
  slb : Bool := false
  acc : Bool := false
  full : Bool := true
  sub : Nat → Bool := fun n => n == 0
  imm : Nat → Bool := fun n => n == 0

/-- A format-E instruction and its header hold what its page accepts. -/
def PageE.ok (p : PageE) (h : Hdr) (f : FmtE) : Bool :=
  (p.pa || f.pa == 0) && (p.pb || f.pb == 0) && (p.pc || f.pc == 0) && (p.vx || f.vx == 0) &&
  (p.sla || f.sla == 0) && (p.slb || f.slb == 0) && (p.acc || f.acc == 0) &&
  (!p.full || (h.pg == 7 && !h.pn)) && !h.tr && p.sub f.sub.toNat && p.imm f.imm.toNat

/-- SUB of ACOLL (R220): an operation, and a reduction where the operation reduces. -/
def collSubOk (n : Nat) : Bool :=
  n % 8 ≤ 4 && n / 8 ≤ 2 && (!(n % 8 == 2 || n % 8 == 3) || n / 8 == 0)

/-- The pages of class 3 (R191, R201-R208, R217, R218, R220). -/
def page3 : Instr → Bool
  | .ld _ f => loadTy f && scOk f && chOk f false && f.aop == 0 && f.pd == none
  | .st _ f => f.ty == .n32 && scOk f && chOk f true && f.aop == 0 && f.pd == none
  | .ldro _ f => loadTy f && f.sc == .core && f.ch == 0 && f.aop == 0 && f.pd == none && !f.ord
  | .prefL1 _ f | .prefDie _ f =>
    probeOk f && f.dv == 0 && f.aop == 0 && f.pd == none && f.ch.toNat ≤ 3
  | .zline _ f => probeOk f && f.dv == 0 && f.aop == 0 && f.pd == none && f.ch == 0
  | .xprobe _ f => probeOk f && f.aop.toNat ≤ 1 && f.ch == 0
  | .acopy _ _ h f => { pa := true, pb := true, pc := true : PageE }.ok h f
  | .agather h f => { pb := true, vx := true, imm := fun n => 1 ≤ n && n ≤ 4096 : PageE }.ok h f
  | .ascatter h f => { pa := true, vx := true, imm := fun n => 1 ≤ n && n ≤ 4096 : PageE }.ok h f
  | .afill h f => { pa := true, pb := true, pc := true, imm := fun n => n ≤ 1 : PageE }.ok h f
  | .acoll h f =>
    { pa := true, pb := true, pc := true, sub := collSubOk,
      imm := fun n => 4 ≤ n % 16 && n % 16 ≤ 11 && n < 2 ^ 16 : PageE }.ok h f
  | .bankrole h f =>
    { pd := true, fs := true, imm := fun n => n % 256 ≤ 47 && n < 1024 : PageY }.ok h f
  | .bankq h f =>
    { sd := true, fs := true, sub := fun n => n ≤ 2,
      imm := fun n => n == 0 || (f.sub == 0 && n ≤ 47) : PageY }.ok h f
  | .cinvSys h f | .cinvRo h f => ({} : PageY).ok h f
  | .toktest h f => { sd := true, s1 := true, pd := true, fs := true : PageY }.ok h f
  | _ => true

/-- The vector operands of class 3. -/
def vops3 : Instr → List (Nat × Nat)
  | .ld _ f | .st _ f | .ldro _ f => vecM f f.sz.regs
  | .prefL1 _ f | .prefDie _ f | .zline _ f => vecM f 0
  | .xprobe _ f => vecM f 1
  | .agather _ f | .ascatter _ f => [(f.vx.toNat, 2)]
  | _ => []
/-- TY and SZ of an operation of ATOM and RED (R266). -/
def atomTyOk (aop : Nat) (ty : Ty) (sz : Sz) : Bool :=
  let i32 := (ty == .i32 || ty == .n32) && sz == .b32
  let i64 := (ty == .i64 || ty == .n64) && sz == .b64
  match aop with
  | 0 | 2 | 3 => i32 || i64
  | 1 | 4 | 5 =>
    (ty == .bf16 && (sz == .b16 || sz == .b32)) || (ty == .f16 && sz == .b32) ||
    (ty == .f32 && (sz == .b32 || sz == .b64)) || (ty == .f64 && sz == .b64)
  | 6 | 7 | 8 | 9 => (ty == .n32 && sz == .b32) || (ty == .n64 && sz == .b64)
  | 10 | 11 => ty == .n32 && sz == .b32
  | _ => false

/-- The fields of a level-counter instruction (R279). -/
def lcOk (f : FmtM) : Bool :=
  f.sp == .global && f.am != .ln && f.sz == .b8 && f.ch == 0 && f.ty == .i8 && f.aop.toNat ≤ 1 &&
  (f.ord || f.sc == .core) && f.pd == none

/-- The pages of class 4 (R265, R266, R268, R272, R274, R279, R281). -/
def page4 : Instr → Bool
  | .atom _ f | .red _ f =>
    f.sp == .global && f.ch == 0 && f.pd == none && atomTyOk f.aop.toNat f.ty f.sz
  | .cas _ f =>
    f.sp == .global && f.ch == 0 && f.aop == 0 && f.ty == (if f.sz == .b32 then .n32 else .n64) &&
    f.dv.toNat % (2 * f.sz.regs) == 0
  | .lcadd _ f => lcOk f && f.dv == 0
  | .lcread _ f | .lcmerge _ f => lcOk f
  | .bar h f | .barArrive h f => { full := true, imm := fun n => n < 1024 : PageY }.ok h f
  | .barWait h f => { full := true, imm := fun n => n < 16 : PageY }.ok h f
  | .gbar h f => { sd := true, fs := true, full := true : PageY }.ok h f
  | .lcbase h f => { sd := true, fs := true, imm := fun n => n < 4 : PageY }.ok h f
  | .lcseed h f => { sd := true, s1 := true, fs := true : PageY }.ok h f
  | _ => true

/-- The vector operands of class 4. -/
def vops4 : Instr → List (Nat × Nat)
  | .atom _ f | .red _ f => vecM f f.sz.regs
  | .cas _ f => vecM f (2 * f.sz.regs)
  | .lcadd _ f => vecM f 0
  | .lcread _ f => vecM f 2
  | .lcmerge _ f => vecM f 1
  | _ => []
/-- The column groups of a format of ACCCVT (R303); 0 for a reserved code. -/
def cvtGroups (n : Nat) : Nat :=
  match n with
  | 0 | 1 => 2
  | 2 | 3 => 1
  | 5 | 6 => 4
  | _ => 0

/-- ACCCVT (R303): SUB, and the fields of the slot form or of the LOCAL form. -/
def acccvtOk (h : Hdr) (f : FmtE) : Bool :=
  let loc := f.sub.getLsbD 6
  let code := f.sub.toNat % 16
  { sla := !loc, pa := loc, pb := loc, pc := loc && code ≤ 3, acc := true,
    sub := fun n => n < 128 && n / 16 % 4 < cvtGroups (n % 16) : PageE }.ok h f

/-- ACCLD and ACCST (R300): registers or LOCAL space, first row and count. -/
def accMoveOk (loc : Bool) (h : Hdr) (f : FmtE) : Bool :=
  { pa := loc, pb := loc, vx := !loc, acc := true,
    imm := fun n => if loc then n < 2 ^ 14 && n % 128 + (n / 128 + 1) ≤ 128
                    else n < 2 ^ 10 && n % 128 + (n / 128 + 1) ≤ 128 : PageE }.ok h f &&
  f.vx.toNat % 4 == 0

/-- The pages of class 5 (R284, R288, R291, R294-R305, R312-R319, R323, R327). LAYOUT accepts `.scale` with every
element size, which R291 refuses of OPFILL and R294 does not (log 63). -/
def page5 : Instr → Bool
  | .opclaim h f =>
    { sd := true, pd := true, fs := true, sub := fun n => n ≤ 1,
      imm := fun m => if f.sub == 0 then 1 ≤ m && m < 2 ^ 16 else 1 ≤ m && m ≤ 16 : PageY }.ok h f
  | .oprel h f => { sd := true, fs := true, imm := fun m => m < 2 ^ 16 : PageY }.ok h f
  | .opfill _ h f =>
    { pa := true, pb := true, sla := true,
      imm := fun n => n < 1024 && (n / 512 == 0 || n / 128 % 4 == 0) : PageE }.ok h f
  | .layout h f =>
    { sd := true, s1 := true, s2 := true, pd := true, fs := true, imm := fun m => m < 8 : PageY }.ok h f
  | .bankcnt h f => { sd := true, fs := true, sub := fun n => n ≤ 1 : PageY }.ok h f
  | .mma _ h f => { sla := true, slb := true, acc := true : PageE }.ok h f
  | .mmas _ h f =>
    { sla := true, slb := true, acc := true : PageE }.ok h f && f.sla.toNat % 2 == 0 && f.slb.toNat % 2 == 0
  | .accld loc h f | .accst loc h f => accMoveOk loc h f
  | .acczero h f => { acc := true, sub := fun n => n ≤ 1 : PageE }.ok h f
  | .acccvt _ h f => acccvtOk h f
  | .accscale h f =>
    { pa := f.sub == 1, vx := f.sub == 0, acc := true, sub := fun n => n ≤ 1 : PageE }.ok h f
  | .attn m h f =>
    { pa := true, pb := true, pc := true, sla := true, acc := true, sub := fun n => n ≤ 3,
      imm := fun n => n < 128 : PageE }.ok h f && f.sla.toNat % 4 == 0 &&
    (match m with
     | some x => x.causal || x.win == 0
     | none => true)
  | .smerge h f =>
    { pa := true, pb := true, acc := true,
      sub := fun n => n == 0 || n == 1 || n == 4,
      imm := fun n => n < 16 && (f.sub != 1 || n == 0) : PageE }.ok h f
  | .kvgather h f =>
    { pa := true, pb := true, pc := true, vx := true,
      sub := fun n => n < 8 && n % 4 != 0 : PageE }.ok h f
  | .kvappend h f =>
    { pa := true, pb := true, pc := true, imm := fun n => n < 2 ^ 16 && n / 2 ^ 12 < 8 : PageE }.ok h f
  | .seqcommit h f =>
    { sd := true, s1 := true, s2 := true, pd := true, fs := true : PageY }.ok h f
  | .seqcommitFork h f =>
    { sd := true, s1 := true, s2 := true, pd := true, fs := true, sub := fun n => n == 1 : PageY }.ok h f
  | .seqcommitRel h f =>
    { sd := true, s1 := true, pd := true, fs := true, sub := fun n => n == 2 : PageY }.ok h f
  | .seqinfo h f =>
    { sd := true, s1 := true, s2 := 1 ≤ f.sub.toNat && f.sub.toNat ≤ 3, fs := true,
      sub := fun n => n ≤ 6, imm := fun m => f.sub == 2 || m == 0 : PageY }.ok h f
  | _ => true

/-- The vector operands of class 5. -/
def vops5 : Instr → List (Nat × Nat)
  | .accld false _ f | .accst false _ f => [(f.vx.toNat, 4 * (f.imm.toNat / 128 % 8 + 1))]
  | .accscale _ f => if f.sub == 0 then [(f.vx.toNat, 4)] else []
  | .kvgather _ f => [(f.vx.toNat, 1)]
  | _ => []
/-- The pages of class 6 (R331, R338, R340, R345, R351). -/
def page6 : Instr → Bool
  | .tspawn nb h f =>
    { s1 := true, vd := true, pd := true, fs := true : PageY }.ok h f && (!nb || f.pd != none)
  | .twait nb h f => { vd := true, pd := true, fs := true : PageY }.ok h f && (!nb || f.pd != none)
  | .tfillFut h f => { vd := true, pd := true, fs := true : PageY }.ok h f
  | .tfillSig h f =>
    { vd := true, pd := true, fs := true, sub := fun n => n == 1,
      imm := fun n => 1 ≤ n && n < 2 ^ 31 : PageY }.ok h f
  | .tinfo h f =>
    { sd := 4 ≤ f.sub.toNat, vd := f.sub.toNat ≤ 3, fs := true, tr := f.sub.toNat ≤ 3,
      sub := fun n => n ≤ 5 : PageY }.ok h f
  | .tyield h f => { fs := true : PageY }.ok h f
  | .tcancel h f => { vd := true, pd := true, fs := true : PageY }.ok h f
  | .enq nb h f =>
    { vd := true, pd := true, fs := true, imm := fun n => n < 16 : PageY }.ok h f && (!nb || f.pd != none)
  | .deq nb h f =>
    { vd := true, pd := true, fs := true, tr := true, imm := fun n => n < 16 : PageY }.ok h f &&
    (!nb || f.pd != none)
  | .qstat h f =>
    { sd := true, fs := true, sub := fun n => n ≤ 1,
      imm := fun n => n == 0 || (f.sub == 0 && n < 16) : PageY }.ok h f
  | .qcreate h f =>
    { pd := true, fs := true,
      imm := fun n => n < 2 ^ 14 && 1 ≤ n / 2 ^ 8 % 32 && n / 2 ^ 8 % 32 ≤ 16 : PageY }.ok h f
  | .qcreateFree h f =>
    { pd := true, fs := true, sub := fun n => n == 1, imm := fun n => n < 16 : PageY }.ok h f
  | .launch h f | .launchAgg h f => { s1 := true, vd := true, pd := true, fs := true : PageY }.ok h f
  | .sibjoin h f =>
    { sd := true, s1 := true, s2 := true, s3 := true, pd := true, fs := true,
      imm := fun n => n < 64 || (n == 64 && f.s2 == 63 && f.s3 == 63) : PageY }.ok h f
  | .sibleave h f => { sd := true, s1 := true, pd := true, fs := true : PageY }.ok h f
  | .ballot h f => { s1 := true, s2 := true, fs := true : PageY }.ok h f
  | .canchk h f => { sd := f.sub == 1, fs := true, sub := fun n => n ≤ 1 : PageY }.ok h f
  | .sibinfo h f => { sd := true, s1 := true, fs := true, imm := fun n => n < 256 : PageY }.ok h f
  | .nestset h f => { sd := true, fs := true, imm := fun n => 1 ≤ n && n ≤ 8 : PageY }.ok h f
  | _ => true

/-- The vector operands of class 6; an 8-byte element of ENQ or DEQ takes its pair at execution. -/
def vops6 : Instr → List (Nat × Nat)
  | .tspawn _ _ f | .twait _ _ f | .tfillSig _ f | .tcancel _ f | .launch _ f | .launchAgg _ f =>
    [(f.vd.toNat, 2)]
  | .tfillFut _ f => [(f.vd.toNat, 4)]
  | .tinfo _ f =>
    if f.sub == 0 || f.sub == 3 then [(f.vd.toNat, 2)] else if f.sub.toNat ≤ 2 then [(f.vd.toNat, 1)] else []
  | .enq _ _ f | .deq _ _ f => [(f.vd.toNat, 1)]
  | _ => []
/-- The system registers that SRGET and SRSET accept, by variant (R363). -/
def sysCodes (set sys : Bool) : List Nat :=
  match set, sys with
  | false, false => [0, 1, 2, 3, 4, 5, 0x10, 0x11, 0x12]
  | false, true =>
    [0, 1, 2, 3, 4, 5, 0x10, 0x11, 0x12, 0x13, 0x14, 0x15, 0x16, 0x20, 0x21, 0x22, 0x23, 0x24, 0x25]
  | true, false => [5]
  | true, true => [5, 0x10, 0x11, 0x12, 0x13, 0x14, 0x20, 0x21, 0x24, 0x25]

/-- The pages of class 7 (R229, R255, R256, R363, R364). -/
def page7 : Instr → Bool
  | .fenceAcq h f | .fenceRel h f | .fenceAcqrel h f => { sub := fun n => n ≤ 3 : PageY }.ok h f
  | .detphase h f => { sd := true, pd := true, fs := true, full := true : PageY }.ok h f
  | .detq h f =>
    { sd := true, fs := true, sub := fun n => n ≤ 3,
      imm := fun n => n == 0 || (f.sub.toNat ≥ 2 && n < 4096) : PageY }.ok h f
  | .srget sys h f =>
    { sd := true, fs := true, imm := fun n => (sysCodes false sys).contains n : PageY }.ok h f
  | .srset sys h f =>
    { s1 := true, fs := true, imm := fun n => (sysCodes true sys).contains n : PageY }.ok h f
  | .trap h f | .bkpt h f => { fs := true, imm := fun n => n < 2 ^ 16 : PageY }.ok h f
  | .timeget h f => { sd := true, fs := true : PageY }.ok h f
  | .tlbinv h f =>
    { s1 := f.sub == 0, s2 := f.sub == 0, fs := true, sub := fun n => n ≤ 1 : PageY }.ok h f
  | .halt h f => { fs := true, imm := fun n => n < 256 : PageY }.ok h f
  | .sleep h f =>
    { s1 := f.sub == 1, fs := true, sub := fun n => n ≤ 1, imm := fun n => f.sub == 0 || n == 0 : PageY }.ok h f
  | .ctxsave h f | .ctxrest h f => { s1 := true, fs := true : PageY }.ok h f
  | .eret h f => { fs := true : PageY }.ok h f
  | _ => true

/-- The vector operands of an instruction: (first register, how many). -/
def vops (i : Instr) : List (Nat × Nat) :=
  (vops0 i ++ vops1 i ++ vops2 i ++ vops3 i ++ vops4 i ++ vops5 i ++ vops6 i).filter fun x => x.2 ≠ 0

/-- A pair names an even register and a quad a multiple of 4 (R56). -/
def aligned (i : Instr) : Bool :=
  (vops i).all fun x => (x.2 ≠ 2 || x.1 % 2 == 0) && (x.2 ≠ 4 || x.1 % 4 == 0)

/-- The destination of an instruction is a vector register (R48): only then may TR be 1. -/
def vecDst : Instr → Bool
  | .iadd _ f | .isub _ f | .imul _ f | .shl _ f | .shr _ f | .mov _ f => f.knd != 7
  | .imad _ (.i f) | .andL _ (.i f) | .orL _ (.i f) | .xorL _ (.i f) => !f.kndd
  | .imulhi _ _ | .imad _ (.a _) | .imin _ _ | .imax _ _ | .iabs _ _ | .isel _ _ | .andL _ (.a _)
  | .orL _ (.a _) | .xorL _ (.a _) | .notL _ _ | .tern _ _ | .sha _ _ | .fshl _ _ | .fshr _ _
  | .popc _ _ | .clz _ _ | .brev _ _ | .bfx _ _ | .bfi _ _ | .bsel _ _ | .laneid _ _ | .xlane _ _
  | .addr _ _ => true
  | .movi _ f => !f.kndd
  | .movw _ f => !f.scalar
  | .pmov _ f => f.sub == 0
  | .lnget _ f => f.sub.toNat < 4
  | .fadd _ _ | .fsub _ _ | .fmul _ _ | .ffma _ _ | .fmin _ _ _ | .fmax _ _ _ | .fclass _ _ | .frcp _ _
  | .frsq _ _ | .fsqrt _ _ | .fdiv _ _ | .fexp2 _ _ | .flog2 _ _ | .fsin _ _ | .fcos _ _ | .ftanh _ _
  | .fsigm _ _ | .ferf _ _ | .frnd _ _ | .fscale _ _ | .hadd2 _ _ | .hmul2 _ _ | .hfma2 _ _
  | .hmin2 _ _ | .hmax2 _ _ | .ffmaw _ _ | .cvtFf _ _ | .cvtFi _ _ | .cvtIf _ _ | .cvtIi _ _
  | .cvtPack _ _ | .cvtUnpack _ _ | .cvtb _ _ | .unpk _ _ | .dot16 _ _ | .dot4 _ _ | .dot8 _ _
  | .dith _ _ => true
  | .rfinfo _ f => f.sub.toNat ≤ 2
  | .ld _ _ | .ldro _ _ | .xprobe _ _ | .atom _ _ | .cas _ _ | .lcread _ _ | .deq _ _ _ => true
  | .tinfo _ f => f.sub.toNat ≤ 3
  | _ => false

/-- TR is 1 only where the destination is a vector register (R48). -/
def trOk (i : Instr) : Bool :=
  match i.view with
  | some (h, _) => !h.tr || vecDst i
  | none => true

/-- The fields of an instruction hold what its own page allows (R63). -/
def pageOk (i : Instr) : Bool :=
  page0 i && page1 i && page2 i && page3 i && page4 i && page5 i && page6 i && page7 i && trOk i && aligned i

/-! ## Decoding and encoding -/

/-- A legal instruction term: well formed, and as its page allows (R63). -/
def Instr.legal (i : Instr) : Bool := i.wf && pageOk i

/-- The instruction of a 96-bit slot word, with the second word when the slot is the first of a pair. -/
def decodeWords (w : Nat) (w2 : Option Nat) : Except DecodeErr Instr := do
  let (op, h) ← parseHdr (w / 2 ^ 80)
  let p ← parsePayload op (w % 2 ^ 80) w2
  match mkInstr op h p with
  | none => .error (.reservedOpcode op)
  | some i =>
    if opcode i = op then
      if i.wf then
        if pageOk i then .ok i else .error .page
      else .error .illFormed
    else .error .fixedField

/-- The number whose bytes, lowest first, are given. -/
def leNat : List Byte → Nat
  | [] => 0
  | b :: bs => b.toNat + 256 * leNat bs

/-- The bytes, lowest first, of a number. -/
def leBytes : Nat → Nat → List Byte
  | 0, _ => []
  | k + 1, n => BitVec.ofNat 8 n :: leBytes k (n / 256)

/-- The instruction in 12 bytes (one slot) or 24 bytes (a pair), as they stand in memory (R34). -/
def decode (bs : List Byte) : Except DecodeErr Instr :=
  if bs.length = 12 then decodeWords (leNat bs) none
  else if bs.length = 24 then decodeWords (leNat (bs.take 12)) (some (leNat (bs.drop 12)))
  else .error .length

/-- The fields of the first word's payload. -/
def payloadFields : Payload → List (Nat × Nat)
  | .a f => fieldsA f
  | .i f => fieldsI f
  | .m f => fieldsM f
  | .j f => fieldsJ f
  | .e f => fieldsE f
  | .y f => fieldsY f
  | .mbr f => fieldsMbr f
  | .movw f => fieldsMovw f
  | .attn f _ => fieldsE f

/-- The second word of a pair. -/
def payloadSecond : Payload → Option Nat
  | .mbr f => some (joinBits (fieldsMbr2 f))
  | .movw f => some (joinBits (fieldsMovw2 f))
  | .attn _ w => some (joinBits (fieldsAttn2 w))
  | _ => none

/-- The words of an instruction; none for a step of the device or of the host. -/
def encode (i : Instr) : Option (Nat × Option Nat) :=
  i.view.map fun (h, p) => (joinBits (payloadFields p ++ hdrFields (opcode i) h), payloadSecond p)

/-- The words that `decodeTableWord` and `withFetchWord` mean: the first slot, and the second slot for
a word of more than 96 bits and for MBR and MOVW, which stand only in pairs (R37). -/
def tableWords (nbits w : Nat) : Nat × Option Nat :=
  let lo := w % 2 ^ 96
  let op := lo / 2 ^ 87
  if nbits > 96 || op = 0x82 || op = 0x28 then (lo, some (w / 2 ^ 96 % 2 ^ 96)) else (lo, none)

/-- What the decoder reads from an instruction whose bits are `w`, laid out as the hardware stores it. -/
def decodeTableWord (nbits w : Nat) : Option Instr :=
  match tableWords nbits w with
  | (lo, none) => (decode (leBytes 12 lo)).toOption
  | (lo, some hi) => (decode (leBytes 12 lo ++ leBytes 12 hi)).toOption

end Sys2Proof
end

