-- ==== Sys2Proof/Machine/Sparse.lean ====
section
/-! DEFINITION. Sparse maps: reading and writing a key, keeping the one canonical form (keys rising, no
entry zero), and lists of records found by a key. -/

namespace Sys2Proof

/-- The value at a key; zero where nothing is listed. -/
def Sparse.get {w : Nat} : Sparse w → Nat → BitVec w
  | [], _ => 0
  | (a, v) :: m, k => if a = k then v else Sparse.get m k

/-- The entries of every other key. -/
def Sparse.erase {w : Nat} (m : Sparse w) (k : Nat) : Sparse w := m.filter fun e => e.1 != k

/-- Puts a value in its place among rising keys; zero removes the entry. -/
def Sparse.set {w : Nat} : Sparse w → Nat → BitVec w → Sparse w
  | [], k, x => if x = 0 then [] else [(k, x)]
  | (a, v) :: m, k, x =>
    if a < k then (a, v) :: Sparse.set m k x
    else if x = 0 then Sparse.erase ((a, v) :: m) k
    else (k, x) :: Sparse.erase ((a, v) :: m) k

/-- Every key is above a bound, keys rise, and no value is zero. -/
def Sparse.wfFrom {w : Nat} : Option Nat → Sparse w → Bool
  | _, [] => true
  | lo, (a, v) :: m =>
    (match lo with
     | none => true
     | some b => decide (b < a)) && decide (v ≠ 0) && Sparse.wfFrom (some a) m

/-- The canonical form. -/
def Sparse.wf {w : Nat} (m : Sparse w) : Bool := Sparse.wfFrom none m

/-- The little-endian number of `n` consecutive keys. -/
def Sparse.getLE {w : Nat} (m : Sparse w) (k : Nat) : Nat → Nat
  | 0 => 0
  | n + 1 => (Sparse.get m k).toNat + 2 ^ w * Sparse.getLE m (k + 1) n

/-- Writes the `n` low digits of a number at consecutive keys, lowest first. -/
def Sparse.setLE {w : Nat} (m : Sparse w) (k : Nat) : Nat → Nat → Sparse w
  | 0, _ => m
  | n + 1, x => Sparse.setLE (Sparse.set m k (BitVec.ofNat w x)) (k + 1) n (x / 2 ^ w)

/-- Drops the keys from `k` on, `n` of them. -/
def Sparse.drop {w : Nat} (m : Sparse w) (k n : Nat) : Sparse w :=
  m.filter fun e => e.1 < k || k + n ≤ e.1

/-- The entries of keys `k` to `k + n - 1`, with the keys counted from `k`. -/
def Sparse.slice {w : Nat} (m : Sparse w) (k n : Nat) : Sparse w :=
  (m.filter fun e => k ≤ e.1 && e.1 < k + n).map fun e => (e.1 - k, e.2)

/-- Puts the entries of a slice at keys from `k` on. -/
def Sparse.paste {w : Nat} (m : Sparse w) (k : Nat) (p : Sparse w) : Sparse w :=
  p.foldl (fun m e => Sparse.set m (k + e.1) e.2) m

/-- The values at keys `i` to `i + n - 1` of a map whose keys are not below `i`. -/
def Sparse.listFrom {w : Nat} : Nat → Nat → Sparse w → List (BitVec w)
  | 0, _, _ => []
  | n + 1, i, [] => 0 :: Sparse.listFrom n (i + 1) []
  | n + 1, i, (a, v) :: m =>
    if a = i then v :: Sparse.listFrom n (i + 1) m else 0 :: Sparse.listFrom n (i + 1) ((a, v) :: m)

/-- The values at keys `k` to `k + n - 1`. -/
def Sparse.list {w : Nat} (m : Sparse w) (k n : Nat) : List (BitVec w) :=
  Sparse.listFrom n k (m.filter fun e => k ≤ e.1)

/-- A list of values at consecutive keys from `k`. -/
def Sparse.ofList {w : Nat} : Nat → List (BitVec w) → Sparse w
  | _, [] => []
  | k, x :: l => if x = 0 then Sparse.ofList (k + 1) l else (k, x) :: Sparse.ofList (k + 1) l

/-- Writes a list of values at consecutive keys from `k`. -/
def Sparse.putList {w : Nat} (m : Sparse w) (k : Nat) (l : List (BitVec w)) : Sparse w :=
  (m.filter fun e => e.1 < k) ++ Sparse.ofList k l ++ m.filter fun e => k + l.length ≤ e.1

/-- The lanes of a mask, in increasing order. -/
def Mask.list (m : Mask) : List Nat := lanes.filter fun l => m.getLsbD l

/-- The mask of a test over lanes. -/
def Mask.ofPred (p : Nat → Bool) : Mask :=
  lanes.foldl (fun m l => if p l then m ||| (1#32 <<< l) else m) 0#32

/-- The lowest lane of a mask; 0 for an empty one. -/
def Mask.lowest (m : Mask) : Nat := (lanes.find? fun l => m.getLsbD l).getD 0

/-- A number from its bits, the low `w` of them. -/
def ofBits (w : Nat) (g : Nat → Bool) : Nat :=
  (List.range w).foldl (fun n i => if g i then n + 2 ^ i else n) 0

/-- Replaces the first element that passes a test, or adds one at the end. -/
def upsert {α : Type} (p : α → Bool) (x : α) : List α → List α
  | [] => [x]
  | a :: r => if p a then x :: r else a :: upsert p x r

/-- Applies a function to the first element that passes a test. -/
def modifyFirst {α : Type} (p : α → Bool) (f : α → α) : List α → List α
  | [] => []
  | a :: r => if p a then f a :: r else a :: modifyFirst p f r

/-- Drops the first element that passes a test. -/
def removeFirst {α : Type} (p : α → Bool) : List α → List α
  | [] => []
  | a :: r => if p a then r else a :: removeFirst p r

end Sys2Proof
end

