-- ==== Sys2Proof/Machine/State.lean ====
section
/-! DEFINITION. The state of the device as plain data, and the state after device reset
(R4, R10-R31, R88, R124, R363, R373, R382 and the rules each field cites). -/

namespace Sys2Proof.Machine

/-- Why a step stops with a fault. -/
inductive Fault where
  /-- A peer's request names a physical address outside the HBM, which is all that R381 lets a peer reach.
  Raised by the step `peerRequest`. Safe: the manual gives such an access no effect. -/
  | reservedAddress (pa : Nat)
  deriving DecidableEq, Repr

/-- Why a step has no meaning. -/
inductive Refusal where
  /-- The arm of an instruction whose meaning is not written. Safe: nothing is claimed of it. -/
  | notModelled (mnemonic : String)
  deriving DecidableEq, Repr

/-! ## A bough -/

/-- The kinds of stack entries (R125). -/
inductive Kind where
  | branch | fault | refill
  deriving DecidableEq, Repr

/-- A repeat in progress (R121-R123, R373). -/
structure Rep where
  fields : BitVec 4
  stride : BitVec 8
  done : Nat
  left : Nat
  deriving DecidableEq, Repr

/-- One entry of the reconvergence stack (R125). `seq` is the SEQ of the fault record that a fault
pending entry waits on; `tok` is the completion flag that its replay still owes (R41), as a token;
`rep` the repetition that it replays (R123); `replay` says that its first issue is a replay (R131), and
`check` that its address is checked against TM when its line is entered (R43, R45). -/
structure StackEnt where
  mask : Mask
  kind : Kind
  join : Bool
  svc : Bool
  check : Bool
  addr : W64
  fmt : W32
  seq : Nat
  tok : Nat
  rep : Option Rep
  replay : Bool
  deriving DecidableEq, Repr

/-- One transient result of a lane, `dist` positions back on the lane's path (R92, R94). -/
structure FwEnt where
  lane : Nat
  reg : Nat
  val : W32
  dist : Nat
  deriving DecidableEq, Repr

/-- A fetched line (R34, R35): its address and its 512 bits. -/
structure Line where
  addr : W64
  bits : BitVec 512
  deriving DecidableEq, Repr

/-- What a bough, or its running split, waits on (R28, R366, R373): `inst` an instance of a region that
closes (R143), `tasks` room in the task queue of one of some kernels, by ENTRY (R337), `trap` the trap that its next turn takes,
decided where no instruction was (R125, R147). -/
inductive Wait where
  | none
  | flags
  | scoreboard
  | fence
  | walk
  | drain
  | barrier (id : Nat)
  | gbar
  | phase
  | future
  | queue (q : Nat)
  | cursor
  | inst (region : Nat)
  | tasks (entries : List Nat)
  | trap (cause : Nat)
  | fault
  | opclaim
  | launch
  | sleep (until_ : Nat)
  | yield (until_ : Nat)
  | reply (seq : Nat)
  deriving DecidableEq, Repr

/-- What an FP lane resumes with (R144): its address, FMT and repetition, the SEQ of its fault record, the
completion flag that its replay owes (R41), and whether its instruction had issued. -/
structure Park where
  lane : Nat
  addr : W64
  fmt : W32
  seq : Nat
  tok : Nat
  rep : Option Rep
  replay : Bool
  deriving DecidableEq, Repr

/-- The refill state of a bough (R142): masks of lanes by phase; ordinals and fault parks by lane. `nf`
counts the fault entries that the split had pushed before it entered (R131). -/
structure Refill where
  region : Nat
  inst : Nat
  body : Mask
  prologue : Mask
  retire : Mask
  rp : Mask
  fp : Mask
  fpReady : Mask
  drained : Mask
  pset : Mask
  drainAfter : Mask
  ord : Sparse 64
  hasOrd : Mask
  parks : List Park
  nf : Nat
  deriving DecidableEq, Repr

/-- One frame of a lane's task stack (R340): what the suspended task of the lane resumes with; `grp` says that
a TSPAWN or TWAIT of this bough waits for its lane, and is false in a stack that came back from the overflow
area (R334, R342). -/
structure Frame where
  lane : Nat
  regs : List W32
  preds : BitVec 7
  ret : W64
  fmt : W32
  task : W64
  byWait : Bool
  grp : Bool
  deriving DecidableEq, Repr

/-- A TSPAWN or TWAIT that waits while some of its lanes run adopted or inline tasks (R337, R339): its
address, the split that issued it, its lanes that run a task and those that are done, its FMT, the
stack's depth below, and the fault entries that the split had pushed. -/
structure TGroup where
  pc : W64
  mask : Mask
  run : Mask
  done : Mask
  fmt : W32
  depth : Nat
  nf : Nat
  deriving DecidableEq, Repr

/-- A bough's membership of a sibling group (R351-R354). -/
structure Sib where
  handle : Nat
  member : Option Nat
  gen : BitVec 16
  since : Nat
  cancelled : Bool
  seqVa : Nat
  deriving DecidableEq, Repr

/-- How a walk ended for a waiting bough (R188): the leaf entry and page size, or the fault's cause. -/
structure WalkRes where
  va : Nat
  cause : Nat
  pte : W64
  size : Nat
  deriving DecidableEq, Repr

/-- Whether a bough exists and where its copse is. -/
inductive BStatus where
  | absent | running | ended | saved
  deriving DecidableEq, Repr

/-- A bough (R22, R372, R373) and its place (R25); `recorded` are the faults that a reply has reached while
its copse was out (R360); `idle` the lanes of the running split that EMRSET has cleared (R129); `ready` the
cycles for which it has been ready without issuing (R26); `trapAt` the TIME at which the trap that waits for a
free slot of the ring was decided, 0 where none does (R358, R359); `seen` the latest write completion time that its
core had acknowledged when its copse left it (R198, R227); `tmDue` the targets that an instruction has named while
their lines could not be read, whose check against TM is still to come (R45, R133, log 62). Registers, predicates, scalars, flags and the loop
nest are sparse maps: `vregs` by 32·N + lane, `preds` by predicate, `sregs` by register, `flags` by
flag, `nest` and `coef` by the layout of R372. -/
structure Bough where
  uid : Nat
  status : BStatus
  launch : Nat
  cid : Nat
  idx : Nat
  part : Nat
  core : Nat
  slot : Nat
  nregs : Nat
  regbase : Nat
  pc : W64
  emr : Mask
  idle : Mask
  live : Mask
  ready : Nat
  seen : Nat
  stack : List StackEnt
  nf : Nat
  fmt : W32
  vregs : Sparse 32
  preds : Sparse 32
  sregs : Sparse 64
  flags : Sparse 4
  wh : Nat
  fw : List FwEnt
  nest : Sparse 32
  coef : Sparse 64
  rep : Option Rep
  replaying : Bool
  rtok : Nat
  itok : Nat
  tgroups : List TGroup
  setpri : BitVec 2
  line : Option Line
  entered : Bool
  checkTM : Bool
  tmDue : List W64
  wait : Wait
  waitSince : Nat
  trapAt : Nat
  refill : Option Refill
  rjoined : Sparse 32
  frames : List Frame
  taskOf : Sparse 64
  tstat : Sparse 8
  nestmax : Nat
  lcb : W64
  lcseed : W64
  bankcnt : W64
  utag : W64
  epc : W64
  emask : Mask
  ecause : W64
  eaddr : W64
  esavea : W64
  esaveb : W64
  sysmode : Bool
  arrived : Bool
  arrGen : Nat
  lastArr : Sparse 32
  stepdone : Mask
  sib : Option Sib
  walkRes : List WalkRes
  recorded : List Nat
  deriving DecidableEq, Repr

/-! ## A copse, a launch -/

/-- One copse barrier (R273): its generation, the target that the first arrival fixed (63 is every
bough), and the boughs that have arrived in the generation. -/
structure Bar where
  gen : Nat
  target : Nat
  arr : List Nat
  deriving DecidableEq, Repr

/-- One hardware queue (R345, R370). -/
structure HQueue where
  bound : Bool
  first : Nat
  banks : Nat
  size : Nat
  head : Nat
  count : Nat
  deriving DecidableEq, Repr

/-- One region of a footprint record (R210). -/
structure FpRegion where
  write : Bool
  localSp : Bool
  base : Nat
  len : Nat
  deriving DecidableEq, Repr

/-- An operation of an engine (R209-R216): its instruction, the scalars and lane values it captured, its
footprint record once it is read, its progress of `units` units, the latest completion time of its
writes, and the token it owes. `status` is 0xFF in flight, or the status that its token will have; `seq`
the fault record whose reply it waits for; `keep` source bytes of an overlapping copy that its own writes
have replaced. -/
structure EngOp where
  id : Nat
  uid : Nat
  launch : Nat
  cid : Nat
  part : Nat
  pc : W64
  instr : Instr
  pa : W64
  pb : W64
  pc_ : W64
  vx : List W64
  vmask : Mask
  aux : List Nat
  fpAddr : W64
  haveRec : Bool
  rec_ : List FpRegion
  tok : Nat
  units : Nat
  done : Nat
  started : Bool
  seq : Nat
  status : Nat
  wend : Nat
  words : List Nat
  keep : List (Nat × Nat)
  pins : List Nat
  deriving DecidableEq, Repr

/-- A matrix instruction in the queue (R287): its instruction, its bough, and the scalars and lane
values it captured at issue. -/
structure MatOp where
  id : Nat
  uid : Nat
  part : Nat
  launch : Nat
  cid : Nat
  instr : Instr
  fmt : W32
  vals : List W64
  lanesIn : List W32
  slots : List Nat
  tok : Nat
  deriving DecidableEq, Repr

/-- An instance of a refill region (R143). `members` are the boughs inside; `taken` what each task
ordinal carries. -/
structure RInst where
  region : Nat
  inst : Nat
  next : Nat
  cursor : Nat
  skipped : List Nat
  closed : Bool
  start : W32
  bound : W32
  step : W32
  members : List Nat
  deriving DecidableEq, Repr

/-- Where a copse is (R23, R28, R367). -/
inductive Where where
  | resident
  | saved (area : Nat)
  | ended
  deriving DecidableEq, Repr

/-- A copse that has started (R22, R23, R190, R370); `adm` is the cycle of its most recent admission (R26).
`ctxbase` to `tileImage` hold its saved context:
the reason of the save (R371), when the event that it waits on arrived (0: not yet), as a rising number,
the TIME of the save, the roles and bytes of its banks by their numbers at the save, its slots and tiles,
and its engine operations and matrix instructions that have not ended. -/
structure Copse where
  launch : Nat
  cid : Nat
  part : Nat
  core : Nat
  at_ : Where
  adm : Nat
  scr : Nat
  scrn : Nat
  fif : Nat
  fifn : Nat
  bars : List (Nat × Bar)
  queues : List (Nat × HQueue)
  written : BitVec 4
  insts : List RInst
  ctxbase : W64
  reason : Nat
  event : Nat
  tsave : Nat
  bankImage : List (Nat × BitVec 2)
  bankBytes : Sparse 8
  slotImage : List (Nat × Sparse 8)
  tileImage : List (Nat × Sparse 8)
  ops : List EngOp
  mq : List MatOp
  deriving DecidableEq, Repr

/-- One refill region of a kernel (R83), its addresses formed. -/
structure Region where
  prologue : W64
  body : W64
  retire : W64
  stop : W64
  level : Nat
  task : Bool
  ordered : Bool
  perLaunch : Bool
  deriving DecidableEq, Repr

/-- A kernel descriptor as the Canopy reads it at launch (R82). -/
structure Desc where
  entry : W64
  regs : Nat
  copse : Nat
  scrb : Nat
  fifb : Nat
  det : Bool
  racechk : Bool
  cosched : Bool
  task : Bool
  fmt0 : W32
  lease : Nat
  nlive : Nat
  live : List Nat
  regions : List Region
  deriving DecidableEq, Repr

/-- Who launched (R349, R350, R384). -/
inductive Origin where
  | host (q subseq : Nat)
  | device (fut : W64)
  | grid (children : List (W64 × Nat × W64))
  deriving DecidableEq, Repr

/-- One entry of a race log (R252). -/
structure RaceEnt where
  va : Nat
  phase : Nat
  owner : Nat
  second : Nat
  deriving DecidableEq, Repr

/-- A launch (R22, R82, R377, R384). `evAll`, `evNow` and `lastev` hold the events of R256 (0 NONDET,
1 FOREIGN, 2 OVERFLOW, 3 RLOST) over the launch, in this phase and in the phase that ended last; `caught` holds the lines on which an
atomic of this phase executed and wrote nothing (R247); `tasks` its tasks that have not ended, and `cancelled`
those that TCANCEL ended (R344, R361). -/
structure Launch where
  id : Nat
  part : Nat
  desc : Desc
  param : W64
  ncopses : Nat
  prog : W64
  origin : Origin
  started : List Nat
  killed : Bool
  endst : Nat
  faultseq : Nat
  haltcode : Nat
  phases : Nat
  tokens : Nat
  bytes : Nat
  iters : Nat
  ckilled : Nat
  cdone : Nat
  garr : List Nat
  ggen : Nat
  phaseWait : Option Nat
  evAll : BitVec 4
  evNow : BitVec 4
  lastev : BitVec 4
  caught : List Nat
  races : List RaceEnt
  entryq : List W64
  tasks : List W64
  cancelled : List W64
  insts : List RInst
  wlast : Nat
  onCores : List Nat
  order : Nat
  deriving DecidableEq, Repr

/-! ## A core -/

/-- The roles of a bank (R13). -/
inductive Role where
  | cac | reg | scr | fif
  deriving DecidableEq, Repr

/-- One 32-byte sector of the L1 (R194, R195, R197), by physical address. -/
structure Sector where
  pa : Nat
  bytes : BitVec 256
  until_ : Nat
  sysCoh : Bool
  deriving DecidableEq, Repr

/-- One 128-byte line of the read-only-path cache (R200), by physical address. -/
structure RoLine where
  pa : Nat
  bytes : BitVec 1024
  deriving DecidableEq, Repr

/-- One entry of a TLB (R19, R188): a page of a partition, and its leaf entry. -/
structure TlbEnt where
  part : Nat
  va : Nat
  size : Nat
  pte : W64
  deriving DecidableEq, Repr

/-- A core (R12). `owners` is the copse (launch key, copse id) of each bank that is not CAC; `slotOwn`
of each claimed operand slot; a launch key is 2^32 · partition + launch id. Slots and tiles are sparse
bytes. `tenant` is the partition that the core was last given to (R286), `wh` the latest write completion time acknowledged to the
core (R198, R227). -/
structure Core where
  tenant : Option Nat
  wh : Nat
  roles : List (Nat × Role)
  owners : List (Nat × Nat × Nat)
  store : Sparse 8
  l1 : List Sector
  roc : List RoLine
  tlb : List TlbEnt
  slotOwn : List (Nat × Nat × Nat)
  slots : Sparse 8
  tiles : Sparse 8
  mq : List MatOp
  ops : List EngOp
  deriving DecidableEq, Repr

/-! ## What is in flight

A token `tok` names one count that an instruction added to a completion flag (R38): 0 is none, and
12·k + n + 1 is a count of flag n. The flag falls when nothing in flight holds the token any more. -/

/-- One access of a load (R202): its lane (32: every executing lane, AM = 01), its bytes, where they go,
whether it bypasses the L1 (R246, R276, R381), and its bytes once they are known. -/
structure LoadAcc where
  lane : Nat
  pa : Nat
  n : Nat
  off : Nat
  raw : Bool
  sysCoh : Bool
  va : Nat
  got : Option Nat
  deriving DecidableEq, Repr

/-- A load in flight (R202, R39): the registers that it writes in its lanes when every access has been
answered; `n` = 0 is PREF.l1. `acq` is 1 for an acquire, 2 for one at system scope (R203). `repdone` and
`ords`, the ordinals by lane, are what a machine check on its data reports (R358, R359). -/
structure Load where
  id : Nat
  uid : Nat
  core : Nat
  part : Nat
  launch : Nat
  cid : Nat
  tok : Nat
  pc : W64
  dv : Nat
  n : Nat
  ty : Ty
  tr : Bool
  mask : Mask
  ro : Bool
  acq : Nat
  fill : Bool
  repdone : Nat
  ords : List (Nat × Nat)
  acc : List LoadAcc
  deriving DecidableEq, Repr

/-- Who writes, and the place of the write in the writer's program order; `lane` is the lowest lane of the
write's group (R245, R247, R249). -/
structure Writer where
  part : Nat
  launch : Nat
  copse : Nat
  idx : Nat
  det : Bool
  seq : Nat
  lane : Nat
  deriving DecidableEq, Repr

/-- What a write does to its line: bytes; the zeroing of the line; the steps of a batch of an atomic
operation (R267), its operands in lane order; the steps of a batch on a level counter (R280): `w` its
width code, `ctr` its counter address, `k` the base code and `seed` the bough's LCSEED. -/
inductive WriteKind where
  | bytes (n v : Nat)
  | zero
  | atom (aop : Nat) (ty : Ty) (n : Nat) (vs : List Nat)
  | lcadd (w ctr k seed count : Nat)
  | lcmerge (w ctr k seed : Nat) (vs : List Nat)
  deriving DecidableEq, Repr

/-- A write in flight to its home (R196); `thru` names the core or die place that writes it through, 0 for
none (R260). -/
structure Store where
  id : Nat
  uid : Nat
  core : Nat
  by_ : Writer
  tok : Nat
  va : Nat
  pa : Nat
  sysCoh : Bool
  kind : WriteKind
  thru : Nat
  deriving DecidableEq, Repr

/-- An acknowledgement on its way back, with its write completion time and the bytes that were written (R196). -/
structure Ack where
  id : Nat
  uid : Nat
  tok : Nat
  pa : Nat
  n : Nat
  core : Nat
  done : Nat
  launch : Nat
  deriving DecidableEq, Repr

/-- One lane's part of an atomic (R263): its operand, its compare value, and the old value. -/
structure AtomLane where
  lane : Nat
  v : Nat
  cmp : Nat
  old : Nat
  deriving DecidableEq, Repr

/-- A group of an atomic (R263): its location, its place (0 core, 1 die, 2 home), its lanes in order,
and whether its batch has been applied. -/
structure AtomGrp where
  pa : Nat
  va : Nat
  sysCoh : Bool
  place : Nat
  ctr : Nat
  lanes : List AtomLane
  done : Bool
  deriving DecidableEq, Repr

/-- An atomic, a compare-and-swap or a level-counter instruction in flight (R257-R280). `aop` is the AOP
code, or 12 CAS, 13 LCADD, 14 LCREAD, 15 LCMERGE; `ret` says that it returns values to its lanes; `size`
is the width of its access, `lcw`, `lck` and `seed` what a level-counter instruction captured, `repdone` and
`ords` what a machine check on its data reports. -/
structure Atom where
  id : Nat
  uid : Nat
  core : Nat
  by_ : Writer
  tok : Nat
  pc : W64
  dv : Nat
  n : Nat
  tr : Bool
  pd : Pd
  acq : Nat
  ret : Bool
  aop : Nat
  ty : Ty
  size : Nat
  lcw : Nat
  lck : Nat
  seed : Nat
  repdone : Nat
  ords : List (Nat × Nat)
  groups : List AtomGrp
  deriving DecidableEq, Repr

/-- A page-table walk in flight on a die (R188), and the boughs that joined it. -/
structure Walk where
  id : Nat
  part : Nat
  die : Nat
  va : Nat
  joined : List Nat
  deriving DecidableEq, Repr

/-- An instruction that holds its flag until it completes (R39). -/
structure Infl where
  id : Nat
  uid : Nat
  tok : Nat
  deriving DecidableEq, Repr

/-- A future watched by a parked lane of a bough, or by a suspended task, whose record's address is then
`task` (R342): `fut` is the address that names it, `home` the one at which it stands; `again` where the lane has to
repeat its TWAIT step, its copse having been restored (R368). -/
structure Watch where
  id : Nat
  uid : Nat
  lane : Nat
  core : Nat
  part : Nat
  fut : Nat
  home : Nat
  task : W64
  ready : Bool
  again : Bool
  overflow : Bool
  deriving DecidableEq, Repr

/-- A suspended task (R342): its record's address and the task stack that its lane had, innermost
frame first; `top` is what the lane itself held. -/
structure Susp where
  part : Nat
  task : W64
  top : Frame
  frames : List Frame
  deriving DecidableEq, Repr

/-- A sibling-group record (R351, R352): its words by number, the boughs that are members (member,
bough) and observers, and the ballot slots in the order of their last increments (R353). -/
structure Group where
  part : Nat
  handle : Nat
  words : Sparse 64
  joined : List (Nat × Nat)
  obs : List Nat
  lastInc : List Nat
  deriving DecidableEq, Repr

/-- A cancellation on its way to a bough (R354). -/
structure Cancel where
  id : Nat
  uid : Nat
  handle : Nat
  gen : BitVec 16
  deriving DecidableEq, Repr

/-- An aggregation window (R350): its descriptor, and its children (PARAM, NCOPSE, FUT) in order. -/
structure Win where
  id : Nat
  part : Nat
  desc : W64
  kernel : Desc
  opened : Nat
  children : List (W64 × Nat × W64)
  deriving DecidableEq, Repr

/-- A line that a die place holds for atomics, with its lease end (R257, R260). -/
structure DieCopy where
  die : Nat
  pa : Nat
  bytes : BitVec 1024
  until_ : Nat
  deriving DecidableEq, Repr

/-- One logged write of a Heartwood entry (R247, R249). -/
structure HwWrite where
  by_ : Writer
  pa : Nat
  kind : WriteKind
  deriving DecidableEq, Repr

/-- A Heartwood entry (R247): a line of a deterministic launch, its state, its phase copy, its log,
the distinct copses that wrote it, and whether a value-returning atomic met it. -/
structure Heart where
  part : Nat
  launch : Nat
  line : Nat
  shared : Bool
  owner : Nat
  copy : BitVec 1024
  log : List HwWrite
  writers : List Nat
  atom : Bool
  deriving DecidableEq, Repr

/-- A communicator's rank table (R384). -/
structure Comm where
  part : Nat
  id : Nat
  ranks : List (Nat × Nat)
  deriving DecidableEq, Repr

/-- A participant's contribution to the k-th collective of a communicator (R220-R222), kept until the
participants of this package have used it: its rank, what it asked for, its elements, and the partitions
that have finished. -/
structure Coll where
  comm : Nat
  k : Nat
  part : Nat
  rank : Nat
  size : Nat
  sub : Nat
  ty : Nat
  count : Nat
  words : List Nat
  doneBy : List Nat
  deriving DecidableEq, Repr

/-! ## A partition and its queues -/

/-- A fault that waits for the host's reply (R360). -/
structure Pending where
  seq : Nat
  launch : Nat
  uid : Nat
  eng : Nat
  deriving DecidableEq, Repr

/-- A machine check whose record `k` waits for its slot: the bough that is parked, and the launch that ends
with the status when the record is written (R357, R358). -/
structure Doom where
  k : Nat
  uid : Nat
  launch : Nat
  endst : Nat
  deriving DecidableEq, Repr

/-- A submission queue and its completion queue (R383). `announced` is the value of the last doorbell;
`ready` the completion records that wait for room (R386). -/
structure SQueue where
  sqbase : W64
  sqsize : W64
  doorbell : W64
  cqbase : W64
  cqsize : W64
  cqhead : W64
  lastacc : W32
  lastdone : W32
  ready : List (BitVec 256)
  deriving DecidableEq, Repr

/-- A command that was accepted and is not performed (R385). -/
structure Cmd where
  q : Nat
  subseq : Nat
  op : Nat
  flags : Nat
  a1 : W64
  a2 : W64
  a3 : W64
  a4 : W64
  ext : Option W64
  begun : Bool
  order : Nat
  deriving DecidableEq, Repr

/-- A partition (R382, R363, R358). `recs` counts the fault records since FQBASE and FQSIZE were set;
`fqwait` holds the records that wait for a free slot; `turn` is the queue whose command was performed
last (R385). -/
structure Part where
  ptroot : W64
  atomplace : W64
  leaseLen : W64
  lwt : W64
  fqbase : W64
  fqsize : W64
  fqhead : W64
  ctxarea : W64
  ctxcount : W64
  ovfbase : W64
  ovfsize : W64
  dspbase : W64
  dspsize : W64
  poolbase : W64
  poolsize : W64
  quota : W64
  signreq : W64
  trapvec : W64
  dbgctl : W64
  errstat : W64
  peermap : Sparse 32
  recs : Nat
  fqwait : List (Nat × BitVec 512)
  pending : List Pending
  dooms : List Doom
  queues : List (Nat × SQueue)
  cmds : List Cmd
  halted : Bool
  noAdmit : Bool
  areas : List Nat
  turn : Nat
  poolRefs : Sparse 32
  inuse : Nat
  deriving DecidableEq, Repr

/-! ## Links and Sirxo -/

/-- An Olusk link (R390): whether it is up, whether the last flit that came was bad and a replay of it has
been asked for, and the replays of a flit without success. -/
structure Link where
  up : Bool
  asked : Bool
  replays : Nat
  deriving DecidableEq, Repr

/-- The algorithms of a mailbox (R392). -/
inductive SpdmAlg where
  | sm2P256 | sm3_256
  deriving DecidableEq, Repr

/-- A measurement block (R392): its index, the data that it measures, and its value. -/
structure Measurement where
  index : Nat
  covers : Nat
  value : Nat
  deriving DecidableEq, Repr

/-- An answer of a mailbox, by its request (R392). -/
inductive SpdmAnswer where
  | version (versions : List Nat)
  | capabilities (bits : Nat)
  | algorithms (signing hashing : SpdmAlg)
  | digests (chain : BitVec 256)
  | certificate (chain : Nat)
  | challengeAuth (nonce : Nat) (signature : BitVec 512)
  | measurements (blocks : List Measurement)
  deriving DecidableEq, Repr

/-- Sirxo (R391-R394): boot state, firmware verdict, operating point and measurements, mailboxes; `throttle` is
the arithmetic clock that the power measurement allows, `clknow` the register that shows the clock. -/
structure Sirxo where
  booted : Bool
  imageOk : Bool
  recovery : Bool
  plimit : Nat
  pnow : Nat
  throttle : Nat
  clknow : Nat
  icore : List Nat
  tjmax : Nat
  hbmw : Nat
  shutdown : Bool
  doe : List (Nat × SpdmAnswer)
  deriving DecidableEq, Repr

/-! ## The device -/

/-- What the next turn of the device does (the model's own, log 2). -/
inductive Act where
  /-- The quadrant of the bough with this uid issues (R26). -/
  | issue (uid : Nat)
  /-- A step of the device or of the host. -/
  | ev (i : Instr)
  /-- The host writes bytes of its own memory. -/
  | hostWrite (addr : Nat) (bytes : List Byte)
  /-- The stored data of a line of HBM take an error that cannot be corrected (R356). -/
  | eccError (line : Nat)
  deriving DecidableEq, Repr

/-- One turn of the agenda: the cycles that pass before it, less one, and the act. -/
structure Turn where
  dt : Nat
  act : Act
  deriving DecidableEq, Repr

/-- The device. `b` is the bough whose turn it is; the others are in `boughs`. `dcache` lists the lines
that the die caches hold, the most recently used first (R17). -/
structure State where
  time : Nat
  b : Bough
  boughs : List Bough
  copses : List Copse
  launches : List Launch
  cores : List (Nat × Core)
  parts : List (Nat × Part)
  mem : Sparse 8
  zflag : List Nat
  ecc : List Nat
  dcache : List Nat
  leases : List (Nat × Nat)
  dcopies : List DieCopy
  draws : List (Nat × Nat)
  gens : List (Nat × Nat)
  heart : List Heart
  dtlb : List (Nat × TlbEnt)
  loads : List Load
  stores : List Store
  acks : List Ack
  atoms : List Atom
  walks : List Walk
  infl : List Infl
  watches : List Watch
  susp : List Susp
  groups : List Group
  cancels : List Cancel
  wins : List Win
  comms : List Comm
  colls : List Coll
  collK : List ((Nat × Nat) × Nat)
  links : List Link
  sirxo : Sirxo
  calnet : Sparse 8
  calmem : Sparse 8
  agenda : List Turn
  free : Nat
  nuid : Nat
  deriving DecidableEq, Repr

/-! ## Reset -/

/-- The bough register that holds no bough (log 3); also the fields a bough starts with (R88, R114,
R373). -/
def Bough.blank : Bough where
  uid := 0
  status := .absent
  launch := 0
  cid := 0
  idx := 0
  part := 0
  core := 0
  slot := 0
  nregs := 0
  regbase := 0
  pc := 0
  emr := 0
  idle := 0
  live := 0
  ready := 0
  seen := 0
  stack := []
  nf := 0
  fmt := 0
  vregs := []
  preds := []
  sregs := []
  flags := []
  wh := 0
  fw := []
  nest := []
  coef := []
  rep := .none
  replaying := false
  rtok := 0
  itok := 0
  tgroups := []
  setpri := 0
  line := .none
  entered := false
  checkTM := false
  tmDue := []
  wait := .none
  waitSince := 0
  trapAt := 0
  refill := .none
  rjoined := []
  frames := []
  taskOf := []
  tstat := []
  nestmax := 4
  lcb := 0
  lcseed := 0
  bankcnt := 0
  utag := 0
  epc := 0
  emask := 0
  ecause := 0
  eaddr := 0
  esavea := 0
  esaveb := 0
  sysmode := false
  arrived := false
  arrGen := 0
  lastArr := []
  stepdone := 0
  sib := .none
  walkRes := []
  recorded := []

/-- A core after reset: every bank CAC (R13), everything else empty (log 6). -/
def Core.reset : Core where
  tenant := none
  wh := 0
  roles := []
  owners := []
  store := []
  l1 := []
  roc := []
  tlb := []
  slotOwn := []
  slots := []
  tiles := []
  mq := []
  ops := []

/-- A queue after reset (R383). -/
def SQueue.reset : SQueue where
  sqbase := 0
  sqsize := 0
  doorbell := 0
  cqbase := 0
  cqsize := 0
  cqhead := 0
  lastacc := 0
  lastdone := 0
  ready := []

/-- A partition after reset (R382). -/
def Part.reset : Part where
  ptroot := 0
  atomplace := 0
  leaseLen := 1024
  lwt := 125000
  fqbase := 0
  fqsize := 6
  fqhead := 0
  ctxarea := 0
  ctxcount := 0
  ovfbase := 0
  ovfsize := 0
  dspbase := 0
  dspsize := 0
  poolbase := 0
  poolsize := 0
  quota := 0
  signreq := 0
  trapvec := 0
  dbgctl := 0
  errstat := 0
  peermap := []
  recs := 0
  fqwait := []
  pending := []
  dooms := []
  queues := []
  cmds := []
  halted := false
  noAdmit := false
  areas := []
  turn := 7
  poolRefs := []
  inuse := 0

/-- Sirxo after reset, before it boots the device (R391, R394). -/
def Sirxo.reset : Sirxo where
  booted := false
  imageOk := true
  recovery := false
  plimit := 8000
  pnow := 0
  throttle := 1250
  clknow := 1250
  icore := []
  tjmax := 0
  hbmw := 0
  shutdown := false
  doe := []

/-- A link before Sirxo brings it up (log 6). -/
def Link.reset : Link where
  up := false
  asked := false
  replays := 0

/-- The device right after reset: nothing launched, nothing in flight, memory with nothing listed. -/
def State.reset : State where
  time := 0
  b := Bough.blank
  boughs := []
  copses := []
  launches := []
  cores := []
  parts := []
  mem := []
  zflag := []
  ecc := []
  dcache := []
  leases := []
  dcopies := []
  draws := []
  gens := []
  heart := []
  dtlb := []
  loads := []
  stores := []
  acks := []
  atoms := []
  walks := []
  infl := []
  watches := []
  susp := []
  groups := []
  cancels := []
  wins := []
  comms := []
  colls := []
  collK := []
  links := []
  sirxo := Sirxo.reset
  calnet := []
  calmem := []
  agenda := []
  free := 0
  nuid := 1

end Sys2Proof.Machine
end

