-- ==== Sys2Proof/Machine/Access.lean ====
section
/-! DEFINITION. The named reads and writes of the state's parts: boughs, copses, launches, cores,
partitions, and the registers of a bough (R56, R88, R89, R91, R92). -/

namespace Sys2Proof.Machine

/-! ## Parts of the device -/

/-- A change of the focus bough. -/
def State.modB (s : State) (f : Bough → Bough) : State := { s with b := f s.b }

/-- The bough with an id, wherever it is held. -/
def State.bough (s : State) (uid : Nat) : Option Bough :=
  if s.b.uid = uid && uid ≠ 0 then some s.b else s.boughs.find? fun x => x.uid == uid && uid != 0

/-- Every bough that exists. -/
def State.allBoughs (s : State) : List Bough :=
  (if s.b.uid = 0 then [] else [s.b]) ++ s.boughs

/-- A change of the bough with an id. -/
def State.modBough (s : State) (uid : Nat) (f : Bough → Bough) : State :=
  if uid = 0 then s
  else if s.b.uid = uid then { s with b := f s.b }
  else { s with boughs := modifyFirst (fun x => x.uid == uid) f s.boughs }

/-- A change of every bough that passes a test. -/
def State.modBoughs (s : State) (p : Bough → Bool) (f : Bough → Bough) : State :=
  { s with b := if s.b.uid ≠ 0 && p s.b then f s.b else s.b,
           boughs := s.boughs.map fun x => if p x then f x else x }

/-- Makes the bough with an id the focus. -/
def State.focus (s : State) (uid : Nat) : State :=
  if s.b.uid = uid then s
  else
    match s.boughs.find? fun x => x.uid == uid with
    | none => s
    | some x =>
      { s with b := x, boughs := (if s.b.uid = 0 then [] else [s.b]) ++
                                   removeFirst (fun y => y.uid == uid) s.boughs }

/-- A core; one that nothing has changed is as after reset. -/
def State.core (s : State) (k : Nat) : Core :=
  match s.cores.find? fun e => e.1 == k with
  | some e => e.2
  | none => Core.reset

def State.setCore (s : State) (k : Nat) (c : Core) : State :=
  { s with cores := upsert (fun e => e.1 == k) (k, c) s.cores }

def State.modCore (s : State) (k : Nat) (f : Core → Core) : State := s.setCore k (f (s.core k))

/-- A partition; one that nothing has changed is as after reset. -/
def State.part (s : State) (p : Nat) : Part :=
  match s.parts.find? fun e => e.1 == p with
  | some e => e.2
  | none => Part.reset

def State.modPart (s : State) (p : Nat) (f : Part → Part) : State :=
  { s with parts := upsert (fun e => e.1 == p) (p, f (s.part p)) s.parts }

/-- A launch of a partition by its launch id. -/
def State.launch (s : State) (p id : Nat) : Option Launch :=
  s.launches.find? fun l => l.part == p && l.id == id

def State.modLaunch (s : State) (p id : Nat) (f : Launch → Launch) : State :=
  { s with launches := modifyFirst (fun l => l.part == p && l.id == id) f s.launches }

/-- A copse by partition, launch and copse id. -/
def State.copse (s : State) (p l c : Nat) : Option Copse :=
  s.copses.find? fun x => x.part == p && x.launch == l && x.cid == c

def State.modCopse (s : State) (p l c : Nat) (f : Copse → Copse) : State :=
  { s with copses := modifyFirst (fun x => x.part == p && x.launch == l && x.cid == c) f s.copses }

/-- The launch and the copse of a bough. -/
def State.launchOf (s : State) (b : Bough) : Option Launch := s.launch b.part b.launch

def State.copseOf (s : State) (b : Bough) : Option Copse := s.copse b.part b.launch b.cid

/-- A launch named over all partitions. -/
def lkey (p l : Nat) : Nat := 2 ^ 32 * p + l

/-- The launch of a bough, named so. -/
def Bough.lk (b : Bough) : Nat := lkey b.part b.launch

/-- The boughs of a copse. -/
def State.boughsOf (s : State) (p l c : Nat) : List Bough :=
  s.allBoughs.filter fun x => x.part == p && x.launch == l && x.cid == c

/-- The repetitions completed under REP (R123, R359); 0 outside of one. -/
def Bough.repdone (b : Bough) : Nat := (b.rep.map fun r => r.done).getD 0

/-- A fresh internal id. -/
def State.fresh (s : State) : Nat × State := (s.nuid, { s with nuid := s.nuid + 1 })

/-- A free value (log 4), and the state whose counter has moved past it. -/
def State.freeValue (s : State) : State := { s with free := s.free + 1 }

/-! ## Registers of a bough -/

/-- A scalar register; s63 reads as zero (R56, R89). -/
def Bough.sreg (b : Bough) (k : Nat) : W64 := if k = 63 then 0 else Sparse.get b.sregs k

/-- Writes a scalar register; a write to s63 is discarded (R89). -/
def Bough.setSreg (b : Bough) (k : Nat) (v : W64) : Bough :=
  if k = 63 then b else { b with sregs := Sparse.set b.sregs k v }

/-- A predicate over the lanes; p7 is true in every lane (R89). -/
def Bough.pred (b : Bough) (k : Nat) : Mask := if k = 7 then 0xFFFFFFFF#32 else Sparse.get b.preds k

/-- Writes a predicate in the lanes of a mask. -/
def Bough.setPred (b : Bough) (k : Nat) (m v : Mask) : Bough :=
  if k = 7 then b
  else { b with preds := Sparse.set b.preds k ((Sparse.get b.preds k &&& ~~~m) ||| (v &&& m)) }

/-- Writes the predicate destination, if there is one (R49, R54). -/
def Bough.setPd (b : Bough) (pd : Pd) (m v : Mask) : Bough :=
  match pd with
  | none => b
  | some k => b.setPred k.val m v

/-- The banked value of vN in a lane (R91). -/
def Bough.banked (b : Bough) (r l : Nat) : W32 := Sparse.get b.vregs (32 * r + l)

/-- What a read of vN in a lane returns: a transient result at most eight positions back, else the
banked value (R92). -/
def Bough.vreg (b : Bough) (r l : Nat) : W32 :=
  match b.fw.find? fun e => e.lane == l && e.reg == r && e.dist ≤ 8 with
  | some e => e.val
  | none => b.banked r l

/-- A pair of vector registers, the low half in the lower one (R88). -/
def Bough.vreg64 (b : Bough) (r l : Nat) : W64 := b.vreg (r + 1) l ++ b.vreg r l

/-- Drops the window's entry of a register in a lane: a write replaces it (R92). -/
def dropFw (fw : List FwEnt) (r l : Nat) : List FwEnt := fw.filter fun e => !(e.lane == l && e.reg == r)

/-- Writes vN in a lane. A transient result goes to the window and to no bank (R48, R91, R92). -/
def Bough.setVreg (b : Bough) (tr : Bool) (r l : Nat) (v : W32) : Bough :=
  if tr then { b with fw := { lane := l, reg := r, val := v, dist := 0 } :: dropFw b.fw r l }
  else { b with fw := dropFw b.fw r l, vregs := Sparse.set b.vregs (32 * r + l) v }

/-- Writes the low `n` words of a number to consecutive registers of a lane. -/
def Bough.setVregs (b : Bough) (tr : Bool) (r l : Nat) : Nat → Nat → Bough
  | 0, _ => b
  | n + 1, v => Bough.setVregs (b.setVreg tr r l (BitVec.ofNat 32 v)) tr (r + 1) l n (v / 2 ^ 32)

/-- Writes a register, or a pair when `wide`, in each lane of a mask. -/
def Bough.setLanes (b : Bough) (tr : Bool) (r : Nat) (n : Nat) (m : Mask) (f : Nat → Nat) : Bough :=
  m.list.foldl (fun b l => b.setVregs tr r l n (f l)) b

/-- Closes the forwarding window of lanes (R93). -/
def Bough.closeLanes (b : Bough) (m : Mask) : Bough :=
  { b with fw := b.fw.filter fun e => !m.getLsbD e.lane }

/-- The path position moves by one for each lane of a mask (R91). -/
def Bough.advancePath (b : Bough) (m : Mask) : Bough :=
  { b with fw := (b.fw.map fun e => if m.getLsbD e.lane then { e with dist := e.dist + 1 } else e).filter
                   fun e => e.dist ≤ 8 }

/-- A completion flag's count (R38). -/
def Bough.flag (b : Bough) (n : Nat) : BitVec 4 := Sparse.get b.flags n

/-- The active lanes whose guard holds (R47). -/
def Bough.guard (b : Bough) (h : Hdr) : Mask :=
  b.emr &&& (if h.pn then ~~~(b.pred h.pg.toNat) else b.pred h.pg.toNat)

/-- The running split holds every lane that has not exited (R130). -/
def Bough.fullMask (b : Bough) : Bool := b.emr == b.live

/-! ## The loop nest (R114), laid out by index -/

def Bough.lnStart (b : Bough) (k : Nat) : W32 := Sparse.get b.nest (4 * k)

def Bough.lnBound (b : Bough) (k : Nat) : W32 := Sparse.get b.nest (4 * k + 1)

def Bough.lnStep (b : Bough) (k : Nat) : W32 := Sparse.get b.nest (4 * k + 2)

def Bough.lnMode (b : Bough) (k : Nat) : W32 := Sparse.get b.nest (4 * k + 3)

/-- IND[k][l] (R114). -/
def Bough.ind (b : Bough) (k l : Nat) : W32 := Sparse.get b.nest (24 + 32 * k + l)

def Bough.setNest (b : Bough) (i : Nat) (v : W32) : Bough := { b with nest := Sparse.set b.nest i v }

def Bough.setInd (b : Bough) (k l : Nat) (v : W32) : Bough := b.setNest (24 + 32 * k + l) v

/-- BASE (j = 0) and STRIDE[j - 1] of coefficient set cK (R114). -/
def Bough.coefAt (b : Bough) (c j : Nat) : W64 := Sparse.get b.coef (5 * c + j)

def Bough.setCoef (b : Bough) (c j : Nat) (v : W64) : Bough :=
  { b with coef := Sparse.set b.coef (5 * c + j) v }

end Sys2Proof.Machine
end

