-- ==== Sys2Proof/Machine/Mem.lean ====
section
/-! DEFINITION. Memory below the instructions: physical bytes and zero flags (R17, R18, R199), page
tables and TLBs (R19, R188, R374, R375, R381), the L1 and the read-only-path cache (R194-R197, R200),
LOCAL space (R13, R15, R90, R189), and fetch lines (R34-R37, R44-R46). -/

namespace Sys2Proof.Machine

/-! ## Physical memory -/

/-- Memory is in its one canonical form: addresses rising, no byte listed as the zero that an unlisted
address reads as. -/
def Memory.wf (m : List Host.Cell) : Bool := Sparse.wf m

/-- `n` bytes at a physical address, little-endian. -/
def State.rd (s : State) (pa n : Nat) : Nat := Sparse.getLE s.mem pa n

/-- Physical addresses of HBM (R18, R381). -/
def isHbm (pa : Nat) : Bool := pa < 2 ^ 40

/-- The die that owns an HBM address (R18). -/
def dieOf (pa : Nat) : Nat := pa / 2 ^ 37 % 8

/-- The home slice of a line, numbered over the package (R11). -/
def homeOf (pa : Nat) : Nat := 64 * dieOf pa + Config.sliceOf (pa / 128) % 64

/-- Keeps the first `n` lines of a slice, and every line of the others. -/
def keepSlice (slice : Nat) : Nat → List Nat → List Nat
  | _, [] => []
  | n, z :: r =>
    if homeOf (128 * z) ≠ slice then z :: keepSlice slice n r
    else
      match n with
      | 0 => keepSlice slice 0 r
      | k + 1 => z :: keepSlice slice k r

/-- The data storage of a slice takes a line, as its most recently used: a slice of 2 MiB has storage for
16,384 lines, and drops the least recently used (R17, log 64). -/
def takeLine (d : List Nat) (line : Nat) : List Nat :=
  let d := line :: d.filter fun z => z != line
  if d.length ≤ 16384 then d else keepSlice (homeOf (128 * line)) 16384 d

/-- Writes the low `n` bytes of `v`: the lines written whose zero flag was set get data storage, and their
flags are cleared (R199). -/
def State.wr (s : State) (pa n v : Nat) : State :=
  if n = 0 then s
  else
    let apart (z : Nat) : Bool := z < pa / 128 || (pa + n - 1) / 128 < z
    { s with mem := Sparse.setLE s.mem pa n v, zflag := s.zflag.filter apart,
             dcache := (s.zflag.filter fun z => !apart z && isHbm (128 * z)).foldl takeLine s.dcache }

/-- Sets the zero flag of a line and frees its storage, with any error in it (R17, R199). -/
def State.zeroLine (s : State) (line : Nat) : State :=
  { s with mem := Sparse.drop s.mem (128 * line) 128, ecc := s.ecc.filter fun z => z != line,
           dcache := s.dcache.filter fun z => z != line,
           zflag := if s.zflag.contains line then s.zflag else s.zflag ++ [line] }

/-- The windows onto a peer's memory (R381). -/
def isPeer (pa : Nat) : Bool := 0x100000000000 ≤ pa && pa < 0x2F0000000000

/-- The host window (R381). -/
def isHost (pa : Nat) : Bool := 0x8000000000000 ≤ pa && pa < 0x10000000000000

/-- The first of `n` bytes at an address that lies in a line whose data in the HBM have an uncorrectable
error, and of which no slice holds a copy (R17, R356). -/
def State.badAt (s : State) (pa n : Nat) : Option Nat :=
  (s.ecc.find? fun z => pa / 128 ≤ z && 128 * z < pa + n && !s.dcache.contains z).map fun z => max pa (128 * z)

/-- A read by way of its home brings the line of an HBM address into the slice's storage; the tag of a
zero-flag line answers without any, and a line that cannot be read leaves none (R17, R205, log 64). -/
def State.fillLine (s : State) (pa : Nat) : State :=
  if isHbm pa && !s.zflag.contains (pa / 128) && (s.badAt pa 1).isNone then
    { s with dcache := takeLine s.dcache (pa / 128) }
  else s

/-- The stored data of a line take an uncorrectable error; a line that its zero flag stands for stores none
(R17, R199, log 61). -/
def State.spoil (s : State) (line : Nat) : State :=
  if isHbm (128 * line) && !s.zflag.contains line && !s.ecc.contains line then { s with ecc := line :: s.ecc } else s

/-- An address that a page may map: neither a reserved range nor the register range (R381). -/
def mappable (pa : Nat) : Bool := isHbm pa || isPeer pa || isHost pa

/-! ## Writes that belong to no log -/

/-- Replaces bytes of a number seen as bytes. -/
def spliceBytes (whole off n v : Nat) : Nat :=
  whole - (whole / 2 ^ (8 * off) % 2 ^ (8 * n)) * 2 ^ (8 * off) + v % 2 ^ (8 * n) * 2 ^ (8 * off)

/-- An event of R256 happens in a launch. -/
def Launch.event (l : Launch) (k : Nat) : Launch :=
  { l with evAll := l.evAll ||| (1#4 <<< k), evNow := l.evNow ||| (1#4 <<< k) }

/-- A write met an entry of a launch that is not its own (R250). -/
def State.foreign (s : State) (part launch : Nat) : State :=
  s.modLaunch part launch fun l => l.event 1

/-- Bytes that are written at once, by no instruction of R245: a line that holds an entry takes them in its
phase copy too, and the entry's launch sees FOREIGN unless the write is its own (R250). `own` names the
launch that acts, 0 the host or the device. -/
def State.poke (s : State) (own pa n v : Nat) : State :=
  let meets (h : Heart) : Bool := 128 * h.line < pa + n && pa < 128 * h.line + 128
  let t := s.wr pa n v
  let put (h : Heart) : Heart :=
    let lo := max pa (128 * h.line)
    let hi := min (pa + n) (128 * h.line + 128)
    let y := spliceBytes h.copy.toNat (lo - 128 * h.line) (hi - lo) (v / 2 ^ (8 * (lo - pa)))
    { h with copy := BitVec.ofNat 1024 y }
  let t := { t with heart := t.heart.map fun h => if meets h then put h else h }
  (s.heart.filter fun h => meets h && lkey h.part h.launch != own).foldl (fun t h => t.foreign h.part h.launch) t

/-! ## Errors -/

/-- A machine check as a fault carries it: its cause, and over that DETAIL, the die and the slice (R359). -/
def checkOf (cause pa : Nat) : Nat :=
  cause + 2 ^ 8 * (2 ^ 20 * dieOf pa + 2 ^ 12 * (Config.sliceOf (pa / 128) % 64))

/-- The peer that an address reaches (R381). -/
def peerOf (pa : Nat) : Nat := (pa - 0x100000000000) / 2 ^ 40

/-- A link is up (R390). -/
def State.linkUp (s : State) (k : Nat) : Bool := (s.links[k]?).any fun l => l.up

/-- An address lies in a peer window whose peer has no live link (R390). -/
def State.unreachable (s : State) (part pa : Nat) : Bool :=
  isPeer pa && !(List.range 18).any fun k =>
    (Sparse.get (s.part part).peermap (peerOf pa)).getLsbD k && s.linkUp k

/-- DETAIL of the machine check of an unreachable peer (R390). -/
def peerDetail (pa : Nat) : Nat := 0xF * 2 ^ 20 + peerOf pa * 2 ^ 12

/-- The machine check of an unreachable peer as a fault carries it (R390). -/
def peerCause (pa : Nat) : Nat := 0x43 + 2 ^ 8 * peerDetail pa

/-- A fault is a machine check (R356). -/
def isCheck (cause : Nat) : Bool := 0x40 ≤ cause % 2 ^ 8

/-! ## Page tables -/

/-- A field of a page-table entry. -/
def pteBits (pte : W64) (lo n : Nat) : Nat := pte.toNat / 2 ^ lo % 2 ^ n

def pteWritable (pte : W64) : Bool := pte.getLsbD 1
def pteSysCoh (pte : W64) : Bool := pte.getLsbD 54
def pteSysAtom (pte : W64) : Bool := pte.getLsbD 55
def pteLC (pte : W64) : Bool := pte.getLsbD 56
def pteLCW (pte : W64) : Bool := pte.getLsbD 57
def pteApl (pte : W64) : Nat := pteBits pte 58 2

/-- The address that an entry names. -/
def pteAddr (pte : W64) : Nat := 4096 * pteBits pte 12 40

/-- log2 of a page's size, by its SIZE code (R374). -/
def pageShift (size : Nat) : Nat :=
  match size with
  | 0 => 16
  | 1 => 21
  | _ => 30

/-- The levels of a walk: the lowest address bit of the index, its width, and the SIZE code of a leaf
there; 4 where none is allowed (R375). -/
def walkLevels : List (Nat × Nat × Nat) := [(48, 8, 4), (39, 9, 4), (30, 9, 2), (21, 9, 1), (16, 5, 0)]

/-- How a walk ends: the leaf entry with its size, or a cause of R356 (a machine check as `checkOf` has it). -/
inductive WalkEnd where
  | leaf (pte : W64) (size : Nat)
  | fail (cause : Nat)
  deriving DecidableEq, Repr

/-- One entry of a walk decides it, or names the next table (R375). -/
def State.walkAt (s : State) (part va : Nat) : List (Nat × Nat × Nat) → Nat → WalkEnd
  | [], _ => .fail 0x06
  | (lo, n, leaf) :: rest, table =>
    let at_ := table + 8 * (va / 2 ^ lo % 2 ^ n)
    let pte := BitVec.ofNat 64 (s.rd at_ 8)
    let size := pteBits pte 52 2
    if s.unreachable part at_ then .fail (peerCause at_)
    else if (s.badAt at_ 8).isSome then .fail (checkOf 0x42 at_)
    else if !pte.getLsbD 0 then .fail 0x01
    else if pteBits pte 60 4 ≠ 0 || pteBits pte 2 10 ≠ 0 || !mappable (pteAddr pte) then .fail 0x06
    else if size = 3 then s.walkAt part va rest (pteAddr pte)
    else if size ≠ leaf || pteAddr pte % 2 ^ pageShift size ≠ 0 then .fail 0x06
    else .leaf pte size

/-- A walk of a partition's page table. -/
def State.walk (s : State) (part va : Nat) : WalkEnd :=
  s.walkAt part va walkLevels (s.part part).ptroot.toNat

/-- A TLB entry covers an address. -/
def TlbEnt.covers (e : TlbEnt) (part va : Nat) : Bool :=
  e.part == part && e.va / 2 ^ pageShift e.size == va / 2 ^ pageShift e.size

/-- The translation that the core's TLB, or its die's, holds (R188). -/
def State.tlbFind (s : State) (core part va : Nat) : Option TlbEnt :=
  match (s.core core).tlb.find? fun e => e.covers part va with
  | some e => some e
  | none => (s.dtlb.find? fun e => e.1 == core / 256 && e.2.covers part va).map fun e => e.2

/-- Installs a translation in the core's TLB (64 entries) and the die's (8,192) (R19). -/
def State.tlbFill (s : State) (core : Nat) (e : TlbEnt) : State :=
  let s := s.modCore core fun c =>
    { c with tlb := e :: (c.tlb.filter fun x => !x.covers e.part e.va).take 63 }
  let die := core / 256
  let other := s.dtlb.filter fun x => x.1 != die
  let mine := s.dtlb.filter fun x => x.1 == die && !x.2.covers e.part e.va
  { s with dtlb := (die, e) :: mine.take 8191 ++ other }

/-- What translating one address gives (R188). -/
inductive Xlate where
  | ok (pa : Nat) (pte : W64) (size : Nat)
  | fault (cause : Nat)
  | miss
  deriving DecidableEq, Repr

/-- The physical address of a virtual one under a leaf entry. -/
def leafPa (pte : W64) (size va : Nat) : Nat := pteAddr pte + va % 2 ^ pageShift size

/-- The walk that ended so decides an address: its page, or the same 64 KiB where it found none. -/
def WalkRes.decides (r : WalkRes) (va : Nat) : Bool :=
  r.va == va / 2 ^ 16 || (r.cause == 0 && 2 ^ 16 * r.va / 2 ^ pageShift r.size == va / 2 ^ pageShift r.size)

/-- Translates with the TLBs and with the walks that ended for this bough; a store also needs a
writable page (R188). -/
def State.xlate (s : State) (b : Bough) (va : Nat) (write : Bool) : Xlate :=
  let check (pte : W64) (size : Nat) : Xlate :=
    if write && !pteWritable pte then .fault 0x02 else .ok (leafPa pte size va) pte size
  if va ≥ 2 ^ 56 then .fault 0x03
  else
    match s.tlbFind b.core b.part va with
    | some e => check e.pte e.size
    | none =>
      match b.walkRes.find? fun r => r.decides va with
      | some r => if r.cause = 0 then check r.pte r.size else .fault r.cause
      | none => .miss

/-- Translates at once, walking where no TLB holds the page: fetch and the engines (R45, R215). -/
def State.xlateNow (s : State) (core part va : Nat) (write : Bool) : Xlate × State :=
  let check (pte : W64) (size : Nat) : Xlate :=
    if write && !pteWritable pte then .fault 0x02 else .ok (leafPa pte size va) pte size
  if va ≥ 2 ^ 56 then (.fault 0x03, s)
  else
    match s.tlbFind core part va with
    | some e => (check e.pte e.size, s)
    | none =>
      match s.walk part va with
      | .fail c => (.fault c, s)
      | .leaf pte size =>
        (check pte size,
         s.tlbFill core { part, va := va / 2 ^ pageShift size * 2 ^ pageShift size, size, pte })

/-- Two 64 KiB page numbers lie in one page, which the table maps with its own size (R19). -/
def State.samePage (s : State) (part a b : Nat) : Bool :=
  a == b ||
  match s.walk part (2 ^ 16 * a) with
  | .leaf _ size => 2 ^ 16 * a / 2 ^ pageShift size == 2 ^ 16 * b / 2 ^ pageShift size
  | .fail _ => false

/-- Requests walks for pages (by 64 KiB page numbers) on behalf of a bough: a walk in flight on the die for
the same page is joined; the others line up in order of arrival (R19, R188). -/
def State.requestWalks (s : State) (uid part core : Nat) (pages : List Nat) : State :=
  pages.foldl (fun s va =>
    let die := core / 256
    let same (w : Walk) : Bool := w.part == part && w.die == die && s.samePage part w.va va
    if s.walks.any same then
      { s with walks := s.walks.map fun w =>
          if same w && !w.joined.contains uid then { w with joined := w.joined ++ [uid] } else w }
    else
      let (id, s) := s.fresh
      { s with walks := s.walks ++ [{ id, part, die, va, joined := [uid] }] }) s

/-- A walk runs: it is one of the first 64 of its die (R188). -/
def State.walkRuns (s : State) (w : Walk) : Bool :=
  ((s.walks.filter fun x => x.die == w.die).take 64).any fun x => x.id == w.id

/-! ## The L1 -/

/-- Bank roles of a core; a bank that is not listed is CAC (R13). -/
def Core.role (c : Core) (bank : Nat) : Role :=
  match c.roles.find? fun e => e.1 == bank with
  | some e => e.2
  | none => .cac

/-- The copse that owns a bank: (launch key, copse id). -/
def Core.owner (c : Core) (bank : Nat) : Option (Nat × Nat) :=
  (c.owners.find? fun e => e.1 == bank).map fun e => e.2

def Core.setRole (c : Core) (bank : Nat) (r : Role) (own : Option (Nat × Nat)) : Core :=
  let rs := c.roles.filter fun e => e.1 != bank
  let os := c.owners.filter fun e => e.1 != bank
  { c with roles := if r = .cac then rs else (bank, r) :: rs,
           owners := match own with
             | some o => (bank, o) :: os
             | none => os }

/-- The CAC banks of a core. -/
def Core.cacBanks (c : Core) : List Nat := (List.range 48).filter fun k => c.role k == .cac

/-- A sector can be read: within its lease, or of a system-coherent page (R195, R197). -/
def Sector.live (x : Sector) (time : Nat) : Bool := x.sysCoh || time < x.until_

/-- The sector of an address that the L1 holds and may answer with. -/
def Core.l1Hit (c : Core) (time pa : Nat) : Option Sector :=
  c.l1.find? fun x => x.pa == pa / 32 && x.live time

/-- Installs a sector, as the most recently used; the set of a line holds one line for each CAC bank
and drops the least recently used (R194). -/
def Core.l1Fill (c : Core) (x : Sector) : Core :=
  let set (p : Nat) : Nat := p / 4 % 128
  let l := x :: c.l1.filter fun y => y.pa != x.pa
  let linesOf := ((l.filter fun y => set y.pa == set x.pa).map fun y => y.pa / 4).eraseDups
  let keep := linesOf.take (c.cacBanks.length)
  { c with l1 := l.filter fun y => set y.pa != set x.pa || keep.contains (y.pa / 4) }

/-- The bytes of a sector that an access reads. -/
def Sector.read (x : Sector) (pa n : Nat) : Nat := x.bytes.toNat / 2 ^ (8 * (pa % 32)) % 2 ^ (8 * n)

/-- A store of the same core updates the sectors that the L1 holds within their lease (R196). -/
def Core.l1Update (c : Core) (time pa n v : Nat) : Core :=
  { c with l1 := c.l1.map fun x =>
      if x.live time && 32 * x.pa < pa + n && pa < 32 * x.pa + 32 then
        let lo := max pa (32 * x.pa)
        let hi := min (pa + n) (32 * x.pa + 32)
        let y := spliceBytes x.bytes.toNat (lo - 32 * x.pa) (hi - lo) (v / 2 ^ (8 * (lo - pa)))
        { x with bytes := BitVec.ofNat 256 y }
      else x }

/-- Drops the system-coherent sectors (R197, R208). -/
def Core.cinvSys (c : Core) : Core := { c with l1 := c.l1.filter fun x => !x.sysCoh }

/-! ## The read-only-path cache -/

/-- The line of an address from the cache, filling it from its home where it is absent: 512 lines (R12). A
line comes whole, all of its sectors as the home holds them at one moment, so that a written code line is
seen as before the write or as after it (R46 allows a mix; the model's choice, log 63). -/
def State.roLine (s : State) (core pa : Nat) : BitVec 1024 × State :=
  match (s.core core).roc.find? fun x => x.pa == pa / 128 with
  | some x => (x.bytes, s)
  | none =>
    let x : RoLine := { pa := pa / 128, bytes := BitVec.ofNat 1024 (s.rd (pa / 128 * 128) 128) }
    (x.bytes, (s.fillLine pa).modCore core fun c => { c with roc := x :: c.roc.take 511 })

/-- The read-only path would have to read a line with an uncorrectable error (R356). -/
def State.roBad (s : State) (core pa : Nat) : Bool :=
  (s.badAt pa 1).isSome && !(s.core core).roc.any fun x => x.pa == pa / 128

/-- The read-only path would have to read a line of a peer without a live link (R390). -/
def State.roAway (s : State) (core part pa : Nat) : Bool :=
  s.unreachable part pa && !(s.core core).roc.any fun x => x.pa == pa / 128

/-- `n` bytes within one line, by the read-only path. -/
def State.roRead (s : State) (core pa n : Nat) : Nat × State :=
  let (x, s) := s.roLine core pa
  (x.toNat / 2 ^ (8 * (pa % 128)) % 2 ^ (8 * n), s)

/-! ## LOCAL space -/

/-- The bough of a copse whose allotment holds a LOCAL address (R15, R90). -/
def State.windowOf (s : State) (core p l c addr : Nat) : Option Bough :=
  (s.boughsOf p l c).find? fun x =>
    x.core == core && (x.status == .running || x.status == .ended) && x.regbase ≤ addr && addr < x.regbase + 128 * x.nregs

/-- A LOCAL byte as a bough of a copse reads it (R13, R90, R189). -/
def State.localRd (s : State) (core p l c addr : Nat) : Byte :=
  if addr ≥ 0xC0000 then 0
  else
    let k := s.core core
    match k.role (addr / 0x4000) with
    | .cac => 0
    | .reg =>
      match s.windowOf core p l c addr with
      | some x =>
        let o := addr - x.regbase
        BitVec.ofNat 8 ((x.banked (o / 128) (o % 128 / 4)).toNat / 2 ^ (8 * (o % 4)))
      | none => 0
    | .scr | .fif => if k.owner (addr / 0x4000) == some (lkey p l, c) then Sparse.get k.store addr else 0

/-- Writes a LOCAL byte, or ignores the write (R13, R90, R189). -/
def State.localWr (s : State) (core p l c addr : Nat) (v : Byte) : State :=
  if addr ≥ 0xC0000 then s
  else
    let k := s.core core
    match k.role (addr / 0x4000) with
    | .cac => s
    | .reg =>
      match s.windowOf core p l c addr with
      | some x =>
        let o := addr - x.regbase
        let i := 32 * (o / 128) + o % 128 / 4
        let w := BitVec.ofNat 32 (spliceBytes (Sparse.get x.vregs i).toNat (o % 4) 1 v.toNat)
        s.modBough x.uid fun x => { x with vregs := Sparse.set x.vregs i w }
      | none => s
    | .scr | .fif =>
      if k.owner (addr / 0x4000) == some (lkey p l, c) then
        s.setCore core { k with store := Sparse.set k.store addr v }
      else s

/-- `n` LOCAL bytes, little-endian. -/
def State.localRdN (s : State) (core p l c addr : Nat) : Nat → Nat
  | 0 => 0
  | n + 1 => (s.localRd core p l c addr).toNat + 256 * s.localRdN core p l c (addr + 1) n

def State.localWrN (s : State) (core p l c addr : Nat) : Nat → Nat → State
  | 0, _ => s
  | n + 1, v =>
    State.localWrN (s.localWr core p l c addr (BitVec.ofNat 8 v)) core p l c (addr + 1) n (v / 256)

/-! ## Fetch lines -/

/-- The line word (R34, R35). -/
def lineWord (x : BitVec 512) : Nat := x.toNat / 2 ^ 480

/-- The word of slot k (R34). -/
def lineSlot (x : BitVec 512) (k : Nat) : Nat := x.toNat / 2 ^ (96 * k) % 2 ^ 96

def lineWM (x : BitVec 512) : Nat := lineWord x % 2 ^ 12
def lineFA (x : BitVec 512) : Nat := lineWord x / 2 ^ 12 % 16
def lineFB (x : BitVec 512) : Nat := lineWord x / 2 ^ 16 % 16

/-- The TM bit of a slot. -/
def lineTM (x : BitVec 512) (k : Nat) : Bool := lineWord x / 2 ^ (20 + k) % 2 == 1

/-- Slots that begin a pair, by template (R37). -/
def pairStarts : Nat → List Nat
  | 1 => [0]
  | 2 => [1]
  | 3 => [2]
  | 4 => [3]
  | 5 => [0, 2]
  | 6 => [0, 3]
  | 7 => [1, 3]
  | _ => []

/-- The slot begins a pair. -/
def linePair (x : BitVec 512) (k : Nat) : Bool := (pairStarts (lineWord x / 2 ^ 25 % 8)).contains k

/-- The parity of a number's bits. -/
def parity : Nat → Nat → Nat
  | 0, _ => 0
  | k + 1, n => (n % 2 + parity k (n / 2)) % 2

/-- Both sectors have even parity (R35, R44): P0 guards bytes 0-31, P1 bytes 32-63. -/
def lineParityOk (x : BitVec 512) : Bool :=
  parity 256 x.toNat == lineWord x / 2 ^ 30 % 2 && parity 256 (x.toNat / 2 ^ 256) == 0

/-- Bits [29:28] nonzero, FA or FB 12 to 14, or TM set on the second slot of a pair (R45). -/
def lineMalformed (x : BitVec 512) : Bool :=
  lineWord x / 2 ^ 28 % 4 ≠ 0 || (12 ≤ lineFA x && lineFA x ≤ 14) || (12 ≤ lineFB x && lineFB x ≤ 14) ||
    (pairStarts (lineWord x / 2 ^ 25 % 8)).any fun k => lineTM x (k + 1)

/-- The line of an address, and the slot. -/
def lineAddr (pc : W64) : W64 := pc - BitVec.ofNat 64 (pc.toNat % 64)

def slotOf (pc : W64) : Nat := pc.toNat % 64 / 12

/-- An address names a slot and lies in the virtual space (R42). -/
def slotAddr (a : W64) : Bool := [0, 12, 24, 36, 48].contains (a.toNat % 64) && a.toNat < 2 ^ 56

/-- The address after an instruction of one slot or of a pair (R36). -/
def nextAddr (pc : W64) (pair : Bool) : W64 :=
  let k := slotOf pc + (if pair then 2 else 1)
  if k ≥ 5 then lineAddr pc + 64 else lineAddr pc + BitVec.ofNat 64 (12 * k)

/-- A target given as a line offset and a slot (R42). -/
def targetOf (pc : W64) (off : BitVec 20) (slot : Fin 5) : W64 :=
  lineAddr pc + 64 * BitVec.signExtend 64 off + BitVec.ofNat 64 (12 * slot.val)

/-- What fetching a line gives (R45): the line, or a fault, which may be a machine check. -/
inductive Fetch where
  | line (x : BitVec 512)
  | fault (cause : Nat)
  deriving DecidableEq, Repr

/-- Fetches a line by the read-only path: a parity mismatch rereads it once from memory (R45, R46). -/
def State.fetch (s : State) (b : Bough) (va : W64) : Fetch × State :=
  match s.xlateNow b.core b.part va.toNat false with
  | (.ok pa _ _, s) =>
    if s.roAway b.core b.part pa then (.fault (peerCause pa), s)
    else if s.roBad b.core pa then (.fault (checkOf 0x40 pa), s)
    else
      let (v, s) := s.roRead b.core pa 64
      let x := BitVec.ofNat 512 v
      if lineParityOk x then (.line x, s)
      else
        let y := BitVec.ofNat 512 (s.rd pa 64)
        if lineParityOk y then (.line y, s) else (.fault (checkOf 0x41 pa), s)
  | (.fault c, s) => (.fault c, s)
  | (.miss, s) => (.fault 0x01, s)

/-- The line of a transfer's target, if it can be fetched and is not malformed: what the transfer's own
check of TM reads (R43). -/
def State.peekLine (s : State) (b : Bough) (va : W64) : Option (BitVec 512) :=
  match (s.fetch b (lineAddr va)).1 with
  | .line x => if lineMalformed x then none else some x
  | _ => none

/-- A target passes R42 and R43; one whose line cannot be read is checked when it is entered (R45). R42 gives the
illegal-target trap to register targets with bits above 55 and says of direct ones nothing: every address that an
instruction names takes it (log 62). -/
def State.targetOk (s : State) (b : Bough) (a : W64) : Bool :=
  slotAddr a && (match s.peekLine b a with
                 | some x => lineTM x (slotOf a)
                 | none => true)

/-- The addresses that an instruction names and whose lines cannot be read now: their checks against TM come when
control first enters there (R45, R133, log 62). -/
def State.noteTargets (s t : State) (as_ : List W64) : State :=
  t.modB fun b => { b with tmDue := (as_.filter fun a => (s.peekLine s.b a).isNone && !b.tmDue.contains a) ++ b.tmDue }

end Sys2Proof.Machine
end

