-- ==== Sys2Proof/Machine/Pool.lean ====
section
/-! DEFINITION. The key-value pool and the steps on a sequence entry at its home (spec/11_attention.md
R308-R311, R315, R317). -/

namespace Sys2Proof.Machine

/-- The translation of a record's address: the physical address or the cause of a fault, found without
holding the bough (log 8); a record at an unreachable peer, or with an uncorrectable error, is a machine check
(R356, R390). -/
def State.xlateRec (s : State) (core part va : Nat) (write : Bool) : Except (Nat × Nat) Nat :=
  match (s.xlateNow core part va write).1 with
  | .ok pa _ _ =>
    if s.unreachable part pa then .error (peerCause pa, va)
    else if (s.badAt pa 1).isSome then .error (checkOf 0x42 pa, va)
    else .ok pa
  | .fault c => .error (c, va)
  | .miss => .error (0x01, va)

/-- Bytes of a record within one page. -/
def State.vrd (s : State) (core part va n : Nat) : Except (Nat × Nat) Nat :=
  (s.xlateRec core part va false).map fun pa => s.rd pa n

/-! ## The pool (R308) -/

/-- A page's reference count. -/
def Part.refs (p : Part) (n : Nat) : Nat := (Sparse.get p.poolRefs n).toNat

/-- The lowest-numbered page that nothing refers to. -/
def Part.lowestFree (p : Part) : Nat :=
  ((List.range (p.poolRefs.length + 1)).find? fun n => p.refs n == 0).getD 0

/-- One more reference to a page. A number beyond POOLSIZE, which only a list that breaks R310 holds, counts as any
other (R7, R311, log 9). -/
def Part.addRef (p : Part) (n : Nat) : Part :=
  let p' := { p with poolRefs := Sparse.set p.poolRefs n (BitVec.ofNat 32 (p.refs n + 1)) }
  if p.refs n = 0 then { p' with inuse := p.inuse + 1 } else p'

/-- One reference fewer; a count that falls to 0 frees the page. A count of 0, which only a list that breaks R310
releases, stays 0 (R7, R311, log 9). -/
def Part.dropRef (p : Part) (n : Nat) : Part :=
  let p' := { p with poolRefs := Sparse.set p.poolRefs n (BitVec.ofNat 32 (p.refs n - 1)) }
  if p.refs n = 1 then { p' with inuse := p.inuse - 1 } else p'

/-- Takes the lowest-numbered free page. -/
def Part.allocPage (p : Part) : Nat × Part :=
  let n := p.lowestFree
  (n, p.addRef n)

/-! ## Sequence entries (R309, R310) -/

/-- The value of a page-list entry that names no page. -/
def noPage : Nat := 0xFFFFFFFF

/-- A sequence entry as it stands in memory. -/
structure SeqEnt where
  va : Nat
  valid : Bool
  rel : Bool
  zeros : Bool
  member : Nat
  grp : Nat
  nl : Nat
  maxp : Nat
  len : Nat
  plist : Nat
  deriving DecidableEq, Repr

/-- Reads an entry. A misaligned address is read as an entry with VALID = 0 (log 9). -/
def State.seqRead (s : State) (core part va : Nat) : Except (Nat × Nat) SeqEnt :=
  (s.vrd core part (va / 64 * 64) 64).map fun x =>
    let f (lo n : Nat) : Nat := x / 2 ^ lo % 2 ^ n
    { va, valid := f 169 1 == 1 && va % 64 == 0, rel := f 168 1 == 1,
      zeros := f 170 342 == 0 && f 166 2 == 0 && f 120 8 == 0,
      member := f 160 6, grp := f 128 32, nl := f 112 8, maxp := f 96 16, len := f 64 32,
      plist := f 0 64 }

/-- Usable: VALID is 1 and the zero fields are zero (R311). -/
def SeqEnt.ok (e : SeqEnt) : Bool := e.valid && e.zeros

/-- The address of page-list entry (L, i) (R310). Bits [2:0] of a PLIST that R309 does not allow read as 0 (log 9). -/
def SeqEnt.entryVa (e : SeqEnt) (l i : Nat) : Nat := (e.plist / 8 * 8 + 4 * (l * e.maxp + i)) % 2 ^ 64

/-- Page-list entries. -/
def State.pages (s : State) (core part : Nat) (e : SeqEnt) (ix : List (Nat × Nat)) :
    Except (Nat × Nat) (List Nat) :=
  ix.mapM fun li => s.vrd core part (e.entryVa li.1 li.2) 4

/-- Writes page-list entries, all translated for writing first; `own` is the launch that acts (R250). -/
def State.setPages (s : State) (own core part : Nat) (e : SeqEnt) (w : List ((Nat × Nat) × Nat)) :
    Except (Nat × Nat) State := do
  let pas ← w.mapM fun x => s.xlateRec core part (e.entryVa x.1.1 x.1.2) true
  return (pas.zip (w.map fun x => x.2)).foldl (fun s x => s.poke own x.1 4 x.2) s

/-- Writes bytes of an entry, whose own address is the one translated (R311). -/
def State.setEnt (s : State) (own core part : Nat) (e : SeqEnt) (off n v : Nat) : Except (Nat × Nat) State :=
  (s.xlateRec core part e.va true).map fun pa => s.poke own (pa + off) n v

/-- Writes LEN. -/
def State.setLen (s : State) (own core part : Nat) (e : SeqEnt) (len : Nat) : Except (Nat × Nat) State :=
  s.setEnt own core part e 8 4 len

/-- The indices (L, i) with L below NL and i below a bound. -/
def SeqEnt.indices (e : SeqEnt) (n : Nat) : List (Nat × Nat) :=
  (List.range e.nl).flatMap fun l => (List.range n).map fun i => (l, i)

/-- ⌈n / 16⌉. -/
def ceil16 (n : Nat) : Nat := (n + 15) / 16

/-- The page count of a layer: ⌈LEN/16⌉, and one more if the pending slot holds a page (R310). -/
def State.pageCount (s : State) (core part : Nat) (e : SeqEnt) (l : Nat) : Except (Nat × Nat) Nat := do
  if e.len % 16 = 0 && e.len / 16 < e.maxp then
    let x ← s.vrd core part (e.entryVa l (e.len / 16)) 4
    return e.len / 16 + (if x = noPage then 0 else 1)
  else return ceil16 e.len

/-- SEQCOMMIT .rel and the release of a cancellation (R317): the pages whose count fell to 0, and those
released that stay in use; none where the entry is not usable (R311). -/
def State.seqRel (s : State) (own core part va : Nat) :
    Except (Nat × Nat) (Option (Nat × Nat) × State) := do
  let e ← s.seqRead core part va
  if !e.ok then return (none, s)
  else if e.rel then return (some (0, 0), s)
  else
    let ix := e.indices e.maxp
    let ps ← s.pages core part e ix
    let held := ((ix.zip ps).filter fun x => x.2 != noPage)
    let s ← s.setPages own core part e (held.map fun x => (x.1, noPage))
    let s ← s.setEnt own core part e 21 1 (2 * (bit e.valid) + 1)
    let p0 := s.part part
    let (freed, p) := held.foldl (fun (acc : Nat × Part) x =>
      (if acc.2.refs x.2 = 1 then acc.1 + 1 else acc.1, acc.2.dropRef x.2)) (0, p0)
    return (some (freed, held.length - freed), s.modPart part fun _ => p)

/-- SEQCOMMIT's commit (R317): the new LEN, or none where it fails. -/
def State.seqCommitStep (s : State) (own core part va n : Nat) :
    Except (Nat × Nat) (Option (Nat × SeqEnt) × State) := do
  let e ← s.seqRead core part va
  if !e.valid || !e.zeros || e.rel || e.len + n > 16 * e.maxp then return (none, s)
  else
    let ps ← s.pages core part e (e.indices (ceil16 (e.len + n)))
    if ps.contains noPage then return (none, s)
    else
      let s ← s.setLen own core part e (e.len + n)
      return (some (e.len + n, e), s)

/-- SEQCOMMIT.fork (R317): the source is read and its pages pinned, then the destination written; the
two steps of one instruction follow each other here (log 10). -/
def State.seqForkStep (s : State) (own core part dst src : Nat) :
    Except (Nat × Nat) (Option Nat × State) := do
  let es ← s.seqRead core part src
  if !es.ok || es.rel || es.len % 16 ≠ 0 then return (none, s)
  else
    let k := es.len / 16
    let sp ← s.pages core part es (es.indices k)
    let ed ← s.seqRead core part dst
    if !ed.ok || ed.rel || ed.len ≠ 0 || ed.nl ≠ es.nl || ed.maxp < k then return (none, s)
    else
      let dp ← s.pages core part ed (ed.indices ed.maxp)
      if dp.any fun x => x != noPage then return (none, s)
      else
        let s ← s.setPages own core part ed ((ed.indices k).zip sp)
        let s ← s.setLen own core part ed es.len
        let held := sp.filter fun x => x != noPage
        return (some es.len, s.modPart part fun p => held.foldl (fun p x => p.addRef x) p)

/-- The quota cause for which an append is refused, or the entries that need a page (R315). -/
def State.kvCheck (s : State) (core part : Nat) (e : SeqEnt) (l n : Nat) :
    Except (Nat × Nat) (Nat ⊕ List Nat) := do
  if !e.ok then return .inl 0x10
  else if e.rel then return .inl 0x11
  else if l ≥ e.nl || e.len + n > 16 * e.maxp then return .inl 0x12
  else
    let lo := e.len / 16
    let is := (List.range ((e.len + n - 1) / 16 + 1 - lo)).map fun i => lo + i
    let ps ← s.pages core part e (is.map fun i => (l, i))
    let need := ((is.zip ps).filter fun x => x.2 == noPage).map fun x => x.1
    let p := s.part part
    if p.inuse + need.length > p.quota.toNat then return .inl 0x13
    else if p.poolsize.toNat < p.inuse + need.length then return .inl 0x14
    else return .inr need

/-- Allocates a page for each entry that needs one, in increasing order (R314). -/
def State.kvAlloc (s : State) (own core part : Nat) (e : SeqEnt) (l : Nat) (need : List Nat) :
    Except (Nat × Nat) State := do
  let (p, w) := need.foldl (fun (acc : Part × List ((Nat × Nat) × Nat)) i =>
    let (n, p) := acc.1.allocPage
    (p, acc.2 ++ [((l, i), n)])) (s.part part, [])
  let s ← s.setPages own core part e w
  return s.modPart part fun _ => p

end Sys2Proof.Machine
end

