-- ==== Sys2Proof/Machine/Futures.lean ====
section
/-! DEFINITION. Task records, futures, and the wakes a fill makes (spec/12_tasks.md R333, R336, R338,
R341, R342). -/

namespace Sys2Proof.Machine

/-- Marks every watch of the future at a home address, by whichever mapping it was made: each wakes by its own step
(R338, R342). -/
def State.wakeFuture (s : State) (pa : Nat) : State :=
  { s with watches := s.watches.map fun w => if w.home == pa then { w with ready := true } else w }

/-- STATE of a future: 0 EMPTY, 1 FULL, 2 FAULTED; 3 is read as FAULTED with cause 0x02 (R336). -/
def futState (x : Nat) : Nat := x / 2 ^ 64 % 4

/-- OWNER of a future. -/
def futOwner (x : Nat) : Nat := x / 2 ^ 72 % 2 ^ 56

/-- Sets an EMPTY future's VALUE and STATE and wakes its waiters; true when it was EMPTY (R338, R341).
A future that cannot be translated is left as it is; `own` is the launch that acts (R250). -/
def State.fillFuture (s : State) (own core part va st v : Nat) : Bool × State :=
  match s.xlateRec core part va true with
  | .error _ => (false, s)
  | .ok pa =>
    let x := s.rd pa 16
    if futState x = 0 then
      let y := v % 2 ^ 64 + 2 ^ 64 * st + 2 ^ 72 * futOwner x
      (true, (s.poke own pa 16 y).wakeFuture pa)
    else (false, s)

/-- A task record as it stands (R333). -/
structure TaskRec where
  entry : Nat
  arg : Nat
  fut : Nat
  parent : Nat
  dep : Int
  st : Nat
  resume : Bool
  tid : Nat
  frame : Nat
  deriving DecidableEq, Repr

/-- A 32-bit number read as signed. -/
def signed32 (n : Nat) : Int := (BitVec.ofNat 32 n).toInt

/-- Reads a task record at a physical address. -/
def State.taskRec (s : State) (pa : Nat) : TaskRec :=
  { entry := s.rd pa 8, arg := s.rd (pa + 8) 8, fut := s.rd (pa + 16) 8, parent := s.rd (pa + 24) 8,
    dep := signed32 (s.rd (pa + 32) 4), st := s.rd (pa + 36) 1, resume := s.rd (pa + 37) 1 % 2 == 1,
    tid := s.rd (pa + 48) 8, frame := s.rd (pa + 56) 8 }

/-- Writes STATE. -/
def State.setTaskSt (s : State) (own pa st : Nat) : State := s.poke own (pa + 36) 1 st

/-- Writes RESUME. -/
def State.setTaskResume (s : State) (own pa : Nat) (r : Bool) : State := s.poke own (pa + 37) 1 (bit r)

/-- Writes DEP. -/
def State.setTaskDep (s : State) (own pa : Nat) (d : Int) : State :=
  s.poke own (pa + 32) 4 (BitVec.ofInt 32 d).toNat

/-- HELPER names the lane that runs the task (R333). -/
def helperWord (core slot lane : Nat) : Nat := 2 ^ 31 + 2 ^ 20 * core + 2 ^ 14 * slot + lane

/-- Writes HELPER. -/
def State.setHelper (s : State) (own pa w : Nat) : State := s.poke own (pa + 40) 4 w

/-- A task has no saved frame any more: RESUME and FRAME are 0 (R333). -/
def State.dropFrame (s : State) (own pa : Nat) : State := (s.setTaskResume own pa false).poke own (pa + 56) 8 0

/-- A task takes a final state, and its future, if EMPTY, becomes FAULTED with a cause (R335, R341, R344,
R361). The record is named by its virtual address. -/
def State.endTask (s : State) (own core part va st cause : Nat) : State :=
  match s.xlateRec core part va true with
  | .error _ => s
  | .ok pa =>
    let r := s.taskRec pa
    let s := (s.setTaskSt own pa st).dropFrame own pa
    if r.fut = 0 then s else (s.fillFuture own core part r.fut 2 cause).2

end Sys2Proof.Machine
end

