-- ==== Sys2Proof/Machine/Groups.lean ====
section
/-! DEFINITION. The steps of a sibling group at its home slice (spec/12_tasks.md R351-R354). -/

namespace Sys2Proof.Machine

/-- Words of the record (R352). -/
def gMembers : Nat := 0
def gBalloted : Nat := 1
def gCancelled : Nat := 2
def gLeft : Nat := 3
def gStatus : Nat := 4
def gHash : Nat := 5
def gSlot (i : Nat) : Nat := 6 + i
def gCounts : Nat := 14
def gSpill : Nat := 15
def gCTokens : Nat := 16
def gCCycles : Nat := 17
def gPages : Nat := 18
def gMember (m : Nat) : Nat := 32 + m

def Group.word (g : Group) (i : Nat) : Nat := (Sparse.get g.words i).toNat

def Group.setWord (g : Group) (i v : Nat) : Group :=
  { g with words := Sparse.set g.words i (BitVec.ofNat 64 v) }

/-- Bits of a word. -/
def Group.bits (g : Group) (i lo n : Nat) : Nat := g.word i / 2 ^ lo % 2 ^ n

/-- Replaces bits of a word. -/
def Group.setBits (g : Group) (i lo n v : Nat) : Group :=
  g.setWord i (g.word i - g.bits i lo n * 2 ^ lo + v % 2 ^ n * 2 ^ lo)

/-- Bit m of a member set. -/
def Group.has (g : Group) (i m : Nat) : Bool := g.bits i m 1 == 1

def Group.k (g : Group) : Nat := g.bits gStatus 0 7
def Group.decided (g : Group) : Bool := g.bits gStatus 7 1 == 1
def Group.gen (g : Group) : BitVec 16 := BitVec.ofNat 16 (g.bits gStatus 48 16)

def State.group (s : State) (part handle : Nat) : Option Group :=
  s.groups.find? fun g => g.part == part && g.handle == handle

def State.setGroup (s : State) (g : Group) : State :=
  { s with groups := upsert (fun x => x.part == g.part && x.handle == g.handle) g s.groups }

def State.dropGroup (s : State) (part handle : Nat) : State :=
  { s with groups := s.groups.filter fun g => !(g.part == part && g.handle == handle) }

/-- A new group takes its slice's generation counter, which advances by 1 (R352). -/
def State.newGroup (s : State) (part handle k : Nat) : Group × State :=
  let home := Config.groupHome part handle
  let gen := ((s.gens.find? fun e => e.1 == home).map fun e => e.2).getD 0
  let none_ := (List.range 64).foldl (fun w m => Sparse.set w (gMember m) (0xFF#64 <<< 32)) []
  let g : Group := { part, handle, words := none_, joined := [], obs := [], lastInc := [] }
  (((g.setBits gStatus 48 16 gen).setBits gStatus 0 7 k),
   { s with gens := upsert (fun e => e.1 == home) (home, (gen + 1) % 2 ^ 16) s.gens })

/-- Decides the outcome (R352, R353). -/
def Group.decide (g : Group) (how hash : Nat) : Group :=
  ((g.setBits gStatus 8 2 how).setBits gStatus 7 1 1).setWord gHash hash

/-- The index of the first slot that holds a hash, or else of the lowest free slot. -/
def Group.slotFor (g : Group) (hash : Nat) : Option Nat :=
  let used (i : Nat) : Bool := g.bits gCounts (8 * i) 8 ≠ 0
  match (List.range 8).find? fun i => used i && g.word (gSlot i) == hash with
  | some i => some i
  | none => (List.range 8).find? fun i => !used i

/-- Every member has balloted or left (R353). -/
def Group.finished (g : Group) : Bool :=
  (List.range 64).all fun m => !g.has gMembers m || g.has gBalloted m || g.has gLeft m

/-- The winner of a group that finishes undecided: the highest count; among equal counts the slot whose
last increment came first (R353). -/
def Group.plurality (g : Group) : Option Nat :=
  g.lastInc.foldl (fun best i =>
    match best with
    | none => some i
    | some j => if g.bits gCounts (8 * i) 8 > g.bits gCounts (8 * j) 8 then some i else some j) none

/-- A group that has a member and whose members have all balloted or left takes its outcome (R353). -/
def Group.finish (g : Group) : Group :=
  if g.decided || g.word gMembers = 0 || !g.finished then g
  else
    match g.plurality with
    | some i => g.decide 2 (g.word (gSlot i))
    | none => g.decide 3 0

/-- Marks every joined member that has neither balloted nor left as cancelled, and sends the
cancellations, tagged with GEN (R353, R354). -/
def State.cancelRest (s : State) (g : Group) : State × Group :=
  (List.range 64).foldl (fun (acc : State × Group) m =>
    if g.has gMembers m && !g.has gBalloted m && !g.has gLeft m then
      let (s, g') := acc
      let (id, s) := s.fresh
      let s := match g.joined.find? fun e => e.1 == m with
        | some e => { s with cancels := s.cancels ++ [{ id, uid := e.2, handle := g.handle, gen := g.gen }] }
        | none => s
      (s, g'.setBits gCancelled m 1 1)
    else acc) (s, g)

/-- BALLOT's step (R353). `m` is the issuing bough's member index in this group. -/
def State.ballotStep (s : State) (part handle : Nat) (m : Option Nat) (hash : Nat) : State :=
  match s.group part handle with
  | none => s
  | some g =>
    let dropped := s.setGroup (g.setBits gSpill 32 32 (g.bits gSpill 32 32 + 1))
    match m with
    | none => dropped
    | some m =>
      if g.has gBalloted m then dropped
      else
        let g := g.setBits gBalloted m 1 1
        match g.slotFor hash with
        | none =>
          let g := (g.setBits gSpill 0 32 (g.bits gSpill 0 32 + 1)).setBits (gMember m) 32 8 8
          s.setGroup g.finish
        | some i =>
          let n := g.bits gCounts (8 * i) 8 + 1
          let g := ((g.setWord (gSlot i) hash).setBits gCounts (8 * i) 8 n).setBits (gMember m) 32 8 i
          let g := { g with lastInc := (g.lastInc.filter fun x => x != i) ++ [i] }
          if !g.decided && n = g.k then
            let (s, g) := s.cancelRest (g.decide 1 hash)
            s.setGroup g.finish
          else s.setGroup g.finish

/-- A bough leaves its group (R351, R354): the group as it then stands, and the state. `stop` is the TIME
at which a marked member stopped, whose sequence is released and whose work is counted; a bough that is
not marked just leaves. -/
def State.leaveGroup (s : State) (b : Bough) (stop : Option Nat) : Option Group × State :=
  match b.sib with
  | none => (none, s)
  | some sib =>
    match s.group b.part sib.handle with
    | none => (none, s)
    | some g =>
      let (s, g) : State × Group :=
        match sib.member with
        | none =>
          let obs := g.obs.filter fun u => u != b.uid
          (s, { g.setBits gStatus 40 8 obs.length with obs })
        | some m =>
          let g := { g.setBits gLeft m 1 1 with joined := g.joined.filter fun e => e.2 != b.uid }
          match stop with
          | none => (s, g)
          | some t =>
            if !g.has gCancelled m then (s, g)
            else
              let g := g.setWord gCTokens (g.word gCTokens + g.bits (gMember m) 0 32)
              let g := g.setWord gCCycles (g.word gCCycles + (t - sib.since))
              if sib.seqVa = 0 then (s, g)
              else
                match s.seqRel b.lk b.core b.part sib.seqVa with
                | .ok (some (freed, stay), s') =>
                  (s', (g.setBits gPages 0 32 (g.bits gPages 0 32 + freed)).setBits gPages 32 32
                          (g.bits gPages 32 32 + stay))
                | _ => (s, g)
      let g := g.finish
      let s := if g.joined.isEmpty && g.obs.isEmpty then s.dropGroup g.part g.handle else s.setGroup g
      (some g, s.modBough b.uid fun x => { x with sib := none })

/-- A bough leaves its group (R351, R354). -/
def State.leaveStep (s : State) (b : Bough) (stop : Option Nat) : State := (s.leaveGroup b stop).2

end Sys2Proof.Machine
end

