-- ==== Sys2Proof/Machine/Records.lean ====
section
/-! DEFINITION. The records that the device writes for the host: fault records (spec/13_system.md
R358, R359), progress blocks (R377) and completion records (spec/14_platform.md R386). -/

namespace Sys2Proof.Machine

/-- The base of the host window in physical space (R381). -/
def hostBase : Nat := 0x8000000000000

/-! ## Fault records -/

/-- What a trap reports (R356, R359). -/
structure FaultInfo where
  cls : Nat
  cause : Nat
  detail : Nat
  addr : W64
  pc : W64
  mask : Mask
  engine : Nat
  ordinal : Option Nat
  task : Option (Nat × Nat)
  repdone : Nat
  time : Nat
  deriving DecidableEq, Repr

/-- SEQ of record k, counting from 0 (R358). -/
def seqOf (k : Nat) : Nat := k % (2 ^ 32 - 1) + 1

/-- The record of a trap of a bough (R359). -/
def faultRecord (b : Bough) (seq : Nat) (f : FaultInfo) : Nat :=
  joinBits [(1, 1), (7, 0), (24, f.detail), (8, f.cause), (4, f.cls), (3, 0), (3, f.engine),
    (1, bit f.task.isSome), (1, bit f.ordinal.isSome), (5, (f.task.map fun t => t.2).getD 0),
    (1, bit f.task.isSome), (5, b.idx), (6, b.slot), (11, b.core), (16, f.repdone), (32, seq),
    (32, b.cid), (32, b.launch), (32, f.ordinal.getD 0), (32, f.mask.toNat), (64, f.time),
    (64, f.pc.toNat), (64, f.addr.toNat), (64, (f.task.map fun t => t.1).getD 0)]

/-- The ring slot of record k is free: it was never used, or the host has consumed the record in it
(R358, FQHEAD of R382). -/
def Part.fqFree (p : Part) (k : Nat) : Bool :=
  if k < 2 ^ p.fqsize.toNat then true
  else if p.fqhead = 0 then false
  else
    let behind := (seqOf k + (2 ^ 32 - 1) - p.fqhead.toNat % (2 ^ 32 - 1)) % (2 ^ 32 - 1)
    behind ≤ 2 ^ p.fqsize.toNat

/-- Writes record k into its slot; the write is one step, so VALID is last (R358). -/
def State.putFault (s : State) (part k : Nat) (r : BitVec 512) : State :=
  let p := s.part part
  s.poke 0 (p.fqbase.toNat + 64 * (k % 2 ^ p.fqsize.toNat)) 64 r.toNat

/-- Writes the waiting records whose slots are free, in SEQ order (R358). -/
def State.drainFaultsFuel : Nat → State → Nat → State
  | 0, s, _ => s
  | n + 1, s, part =>
    let p := s.part part
    match p.fqwait with
    | [] => s
    | (k, r) :: rest =>
      if p.fqFree k then
        State.drainFaultsFuel n ((s.modPart part fun p => { p with fqwait := rest }).putFault part k r) part
      else s

def State.drainFaults (s : State) (part : Nat) : State :=
  s.drainFaultsFuel (s.part part).fqwait.length part

/-- A trap writes its record, or the record waits for its slot; answers its SEQ (R358). -/
def State.recordFault (s : State) (b : Bough) (f : FaultInfo) : Nat × State :=
  let p := s.part b.part
  let k := p.recs
  let seq := seqOf k
  let s := s.modPart b.part fun p => { p with recs := k + 1 }
  if p.fqbase = 0 then (seq, s)
  else
    let r := BitVec.ofNat 512 (faultRecord b seq f)
    (seq, (s.modPart b.part fun p => { p with fqwait := p.fqwait ++ [(k, r)] }).drainFaults b.part)

/-- The partition has no fault queue: a trap that would wait kills instead (R358). -/
def State.noQueue (s : State) (part : Nat) : Bool := (s.part part).fqbase = 0

/-! ## Completion records -/

/-- A queue; one that nothing has changed is as after reset. -/
def Part.queue (p : Part) (q : Nat) : SQueue :=
  match p.queues.find? fun e => e.1 == q with
  | some e => e.2
  | none => SQueue.reset

def Part.setQueue (p : Part) (q : Nat) (x : SQueue) : Part :=
  { p with queues := upsert (fun e => e.1 == q) (q, x) p.queues }

/-- The physical base of a ring: host memory, or device memory where bit 0 is set (R383). -/
def ringBase (r : W64) : Nat := (if r.getLsbD 0 then 0 else hostBase) + r.toNat / 64 * 64

/-- The completion ring has no room: LASTDONE − CQHEAD = 2^CQSIZE (R386). -/
def SQueue.full (x : SQueue) : Bool :=
  (x.lastdone - BitVec.truncate 32 x.cqhead).toNat == 2 ^ x.cqsize.toNat

/-- A completion record less its CSEQ (R386). -/
def completion (time op status subseq lid prog : Nat) : BitVec 256 :=
  BitVec.ofNat 256 (joinBits [(32, 0), (32, subseq), (8, status), (8, op), (16, 0), (32, lid), (64, time),
    (64, prog)])

/-- Writes one record as the next CSEQ of its ring. -/
def State.putCompletion (s : State) (part q : Nat) (r : BitVec 256) : State :=
  let x := (s.part part).queue q
  let n := x.lastdone + 1
  let s := s.modPart part fun p => p.setQueue q { x with lastdone := n }
  s.poke 0 (ringBase x.cqbase + 32 * (n.toNat % 2 ^ x.cqsize.toNat)) 32 (r.toNat + n.toNat)

/-- Writes the records that wait, in order, while the ring has room (R386). -/
def State.drainCompletionsFuel : Nat → State → Nat → Nat → State
  | 0, s, _, _ => s
  | k + 1, s, part, q =>
    let x := (s.part part).queue q
    match x.ready with
    | [] => s
    | r :: rest =>
      if x.full then s
      else
        State.drainCompletionsFuel k
          ((s.modPart part fun p => p.setQueue q { x with ready := rest }).putCompletion part q r) part q

def State.drainCompletions (s : State) (part q : Nat) : State :=
  s.drainCompletionsFuel ((s.part part).queue q).ready.length part q

/-- A command's completion record is due. -/
def State.complete (s : State) (part q : Nat) (r : BitVec 256) : State :=
  (s.modPart part fun p =>
    let x := p.queue q
    p.setQueue q { x with ready := x.ready ++ [r] }).drainCompletions part q

/-! ## Progress blocks -/

/-- The progress block of a launch (R377). -/
def progressBlock (l : Launch) : Nat :=
  joinBits [(32, l.cdone), (32, l.ckilled), (64, l.iters), (64, l.bytes), (64, l.tokens), (32, l.phases),
    (32, l.faultseq), (8, l.endst), (8, l.haltcode), (176, 0)]

/-- Writes the progress block at its address, which is translated by the partition's tables; an address
of 0, or one that does not translate, writes none (R384, log 12). -/
def State.putProgress (s : State) (l : Launch) : State :=
  if l.prog = 0 then s
  else
    match (s.xlateNow 0 l.part l.prog.toNat true).1 with
    | .ok pa _ _ => s.poke 0 pa 64 (progressBlock l)
    | _ => s

end Sys2Proof.Machine
end

