-- ==== Sys2Proof/Machine/Kill.lean ====
section
/-! DEFINITION. Barriers as exits leave them (spec/09_atomics.md R273, R274), the release of a bough's
and a copse's place (R14, R139, R283), and the end of a launch by a kill (spec/13_system.md R361). -/

namespace Sys2Proof.Machine

/-! ## Barriers -/

/-- A copse barrier; one that nothing has used is in generation 0. -/
def Copse.bar (c : Copse) (id : Nat) : Bar :=
  match c.bars.find? fun e => e.1 == id with
  | some e => e.2
  | none => { gen := 0, target := 0, arr := [] }

def Copse.setBar (c : Copse) (id : Nat) (b : Bar) : Copse :=
  { c with bars := upsert (fun e => e.1 == id) (id, b) c.bars }

/-- The target "every bough of the copse that has not exited" (R273, R370). -/
def barAll : Nat := 63

/-- The open generation has reached its target, given the boughs that have not exited (R273). -/
def Bar.complete (b : Bar) (alive : List Nat) : Bool :=
  if b.arr.isEmpty then false
  else if b.target = barAll then alive.all fun u => b.arr.contains u
  else b.arr.length ≥ b.target

/-- A generation that is complete ends: the next one is open and empty (R273). -/
def Bar.settle (b : Bar) (alive : List Nat) : Bar :=
  if b.complete alive then { gen := b.gen + 1, target := 0, arr := [] } else b

/-- Every lane of the bough has exited (R139); a saved bough shows it by its lanes. -/
def Bough.gone (b : Bough) : Bool := b.status == .ended || (b.status == .saved && b.live == 0)

/-- The boughs of a copse, or of a launch, that have not exited. -/
def aliveIn (bs : List Bough) : List Nat := (bs.filter fun x => !x.gone).map fun x => x.uid

/-- Every barrier of a copse is evaluated again: an arrival or an exit may have completed it (R273). -/
def State.settleBars (s : State) (p l c : Nat) : State :=
  let alive := aliveIn (s.boughsOf p l c)
  s.modCopse p l c fun x => { x with bars := x.bars.map fun e => (e.1, e.2.settle alive) }

/-- The launch's barrier generation is complete: some bough has arrived, and every bough of the launch
that has not exited has (R274). -/
def State.gbarComplete (s : State) (l : Launch) : Bool :=
  !l.garr.isEmpty &&
    (aliveIn (s.allBoughs.filter fun x => x.part == l.part && x.launch == l.id)).all fun u => l.garr.contains u

/-- Outside a DET launch a complete generation releases its boughs at once; in one the phase ends first,
by its own step (R249, R274). -/
def State.settleGbar (s : State) (p l : Nat) : State :=
  match s.launch p l with
  | none => s
  | some x =>
    if !x.desc.det && s.gbarComplete x then
      s.modLaunch p l fun x => { x with ggen := x.ggen + 1, garr := [] }
    else s

/-! ## Release of places -/

/-- A bank becomes CAC and holds nothing (R13, R14). -/
def Core.freeBank (c : Core) (bank : Nat) : Core :=
  { c.setRole bank .cac none with store := Sparse.drop c.store (0x4000 * bank) 0x4000 }

/-- A bough on a core whose allotment lies in a bank (R15). -/
def Bough.usesBank (b : Bough) (core bank : Nat) : Bool :=
  b.core == core && (b.status == .running || b.status == .ended) && b.regbase < 0x4000 * (bank + 1) &&
    0x4000 * bank < b.regbase + 128 * b.nregs

/-- A REG bank that holds no allotment returns to CAC (R14). -/
def State.freeRegBanks (s : State) (core : Nat) : State :=
  let c := s.core core
  let dead := (List.range 48).filter fun k =>
    c.role k == .reg && !s.allBoughs.any fun x => x.usesBank core k
  s.setCore core (dead.foldl (fun c k => c.freeBank k) c)

/-- A copse gives back its SCR and FIF banks, its operand slots and its written mask (R14, R283, R286). -/
def State.freeCopse (s : State) (x : Copse) : State :=
  let own := (lkey x.part x.launch, x.cid)
  s.modCore x.core fun c =>
    let banks := (List.range 48).filter fun k => c.owner k == some own
    let c := banks.foldl (fun c k => c.freeBank k) c
    let mine := (c.slotOwn.filter fun e => e.2 == own).map fun e => e.1
    { c with slotOwn := c.slotOwn.filter fun e => e.2 != own,
             slots := mine.foldl (fun m k => Sparse.drop m (8704 * k) 8704) c.slots }

/-- Removes a bough from the state. -/
def State.dropBough (s : State) (uid : Nat) : State :=
  if s.b.uid = uid then { s with b := Bough.blank }
  else { s with boughs := removeFirst (fun x => x.uid == uid) s.boughs }

/-! ## Kill -/

/-- Kills a launch (R361): its copses stop and give up their places, its engine operations stop, its
tasks and futures are faulted, its members leave their groups, its Heartwood logs are discarded (R253).
Its progress block and completion record follow by LAUNCH_COMPLETION. -/
def State.killLaunch (s : State) (p l endst seq halt : Nat) : State :=
  match s.launch p l with
  | none => s
  | some x =>
    if x.killed then s
    else
      let s := s.modLaunch p l fun x =>
        { x with killed := true, endst, faultseq := seq, haltcode := halt, entryq := [] }
      let mine := s.allBoughs.filter fun b => b.part == p && b.launch == l
      let s := mine.foldl (fun s b => s.leaveStep b none) s
      let s := mine.foldl (fun s b => s.dropBough b.uid) s
      let uids := mine.map fun b => b.uid
      let cs := s.copses.filter fun c => c.part == p && c.launch == l && c.at_ != .ended
      let s := cs.foldl (fun s c =>
        match c.at_ with
        | .saved area => s.modPart p fun q => { q with areas := q.areas.filter fun a => a != area }
        | _ => (s.freeCopse c).freeRegBanks c.core) s
      let s := { s with copses := s.copses.filter fun c => !(c.part == p && c.launch == l && c.at_ != Where.ended) }
      let pins := s.cores.flatMap fun e => e.2.ops.flatMap fun o =>
        if o.part == p && o.launch == l then o.pins else []
      let pins := pins ++ cs.flatMap fun c => c.ops.flatMap fun o => o.pins
      let s := s.modPart p fun q => pins.foldl (fun q n => q.dropRef n) q
      let s := { s with cores := s.cores.map fun (e : Nat × Core) =>
        (e.1, { e.2 with ops := e.2.ops.filter fun o => !(o.part == p && o.launch == l),
                         mq := e.2.mq.filter fun o => !uids.contains o.uid }) }
      let s := x.tasks.foldl (fun s va =>
        match s.xlateRec 0 p va.toNat true with
        | .ok pa => if (s.taskRec pa).st = 5 then s else s.endTask (lkey p l) 0 p va.toNat 6 0x01
        | .error _ => s) s
      let s := x.cancelled.foldl (fun s va =>
        match s.xlateRec 0 p va.toNat true with
        | .ok pa => if (s.taskRec pa).st = 7 then s.endTask (lkey p l) 0 p va.toNat 6 0x01 else s
        | .error _ => s) s
      let s := { s with watches := s.watches.filter fun w =>
                          !uids.contains w.uid && !(w.part == p && w.task != 0 && x.tasks.contains w.task),
                        susp := s.susp.filter fun y => !(y.part == p && x.tasks.contains y.task),
                        heart := s.heart.filter fun h => !(h.part == p && h.launch == l) }
      s.modPart p fun q => { q with pending := q.pending.filter fun f => f.launch != l,
                                    dooms := q.dooms.filter fun d => d.launch != l }

/-- The launch of a machine check ends once its record, the newest, stands in the ring; until the host has
freed its slot the bough concerned is parked (R357, R358). -/
def State.checkKill (s : State) (part launch uid seq : Nat) : State :=
  let p := s.part part
  if p.fqbase = 0 || p.fqwait = [] then s.killLaunch part launch 2 seq 0
  else
    (s.modPart part fun p => { p with dooms := p.dooms ++ [{ k := p.recs - 1, uid, launch, endst := 2 }] }).modBough
      uid fun b => { b with wait := .fault }

/-- A launch has taken a machine check whose record waits for its slot. -/
def State.doomed (s : State) (part launch : Nat) : Bool := (s.part part).dooms.any fun d => d.launch == launch

/-- The launches whose machine checks have been recorded by now end (R358). -/
def State.killDoomed (s : State) (part : Nat) : State :=
  let waits (d : Doom) : Bool := (s.part part).fqwait.any fun x => x.1 == d.k
  let due := (s.part part).dooms.filter fun d => !waits d
  let s := s.modPart part fun p => { p with dooms := p.dooms.filter waits }
  due.foldl (fun s d => s.killLaunch part d.launch d.endst (seqOf d.k) 0) s

/-- The ordinal of the lowest of some lanes in a refill region, as a record reports it (R358). -/
def ordinalOf (ords : List (Nat × Nat)) (m : Mask) : Option Nat :=
  (ords.find? fun e => e.1 == m.lowest).map fun e => e.2 % 2 ^ 32

/-- The ordinals of a bough's lanes in a refill region. -/
def Bough.ordinals (b : Bough) : List (Nat × Nat) :=
  match b.refill with
  | none => []
  | some f => f.hasOrd.list.map fun l => (l, (Sparse.get f.ord l).toNat)

/-- A machine check on data that arrive after their instruction has issued (R202, R356, R357): a record for
the bough that reads them, and the end of its launch. `rep` and `ords` are as the instruction issued. A
bough that is gone takes none. -/
def State.dataCheck (s : State) (uid c : Nat) (pc : W64) (m : Mask) (va rep : Nat) (ords : List (Nat × Nat)) :
    State :=
  match s.bough uid with
  | none => s
  | some b =>
    let (seq, s) := s.recordFault b
      { cls := 2, cause := c % 2 ^ 8, detail := c / 2 ^ 8, addr := BitVec.ofNat 64 va, pc, mask := m, engine := 0,
        ordinal := ordinalOf ords m, task := none, repdone := rep, time := s.time }
    s.checkKill b.part b.launch uid seq

end Sys2Proof.Machine
end

