-- ==== Sys2Proof/Machine/Split.lean ====
section
/-! DEFINITION. Completion flags (spec/02_encoding.md R38, R39, R41); splits and the reconvergence stack
(spec/05_control.md R124-R131); the refill regions' instances, fetches, dispatch and exit
(R142-R149); the start and the end of a task in a lane (spec/12_tasks.md R334, R335, R340). Every
function here acts on the focus bough. -/

namespace Sys2Proof.Machine

/-! ## Flags and tokens -/

/-- The flag that a token counts on. -/
def tokFlag (t : Nat) : Nat := (t - 1) % 12

/-- Something in flight, or a replay that is owed, still holds a token (R39, R41). -/
def State.tokHeld (s : State) (t : Nat) : Bool :=
  s.loads.any (fun x => x.tok == t) || s.stores.any (fun x => x.tok == t) ||
  s.acks.any (fun x => x.tok == t) || s.atoms.any (fun x => x.tok == t) ||
  s.infl.any (fun x => x.tok == t) ||
  s.cores.any (fun e => e.2.ops.any (fun o => o.tok == t) || e.2.mq.any fun o => o.tok == t) ||
  s.allBoughs.any fun b => b.rtok == t || b.itok == t || b.stack.any (fun e => e.tok == t) ||
    b.refill.any fun f => f.parks.any fun p => p.tok == t

/-- The flag falls by one when the last holder of a token is gone (R38, R39). -/
def State.settleTok (s : State) (uid t : Nat) : State :=
  if t = 0 || s.tokHeld t then s
  else s.modBough uid fun b =>
    { b with flags := Sparse.set b.flags (tokFlag t) (b.flag (tokFlag t) - 1) }

/-! ## The stack -/

/-- The depth below which the stack belongs to a TSPAWN or TWAIT that waits (R337, R339). -/
def Bough.base (b : Bough) : Nat := (b.tgroups.head?.map fun g => g.depth).getD 0

/-- The entries that the running split may reach, topmost first. -/
def Bough.reach (b : Bough) : List StackEnt := b.stack.take (b.stack.length - b.base)

/-- The topmost join entry (R127). -/
def Bough.topJoin (b : Bough) : Option StackEnt := b.reach.find? fun e => e.join

/-- Lanes parked in the Cambium (R142, R337, R339). -/
def Bough.parked (b : Bough) : Mask :=
  (match b.refill with
   | some f => f.rp ||| f.fp ||| f.pset
   | none => 0#32) |||
  (match b.tgroups with
   | g :: _ => g.mask &&& b.live &&& ~~~g.run
   | [] => 0#32)

/-- Lanes parked in the Cambium or drained (R128, R142). -/
def Bough.away (b : Bough) : Mask :=
  b.parked ||| (match b.refill with
   | some f => f.drained
   | none => 0#32)

/-- The settable set E of the running split (R129). -/
def Bough.settable (b : Bough) : Mask :=
  let m := match b.topJoin with
    | some j => j.mask
    | none => b.live
  let above := b.reach.takeWhile fun e => !e.join
  (above.foldl (fun m e => m &&& ~~~e.mask) m) &&& ~~~b.away

/-- The lanes that belong to the running split, active or not (R91): those of EMR, and those that EMRSET has
cleared (R129) and that wait at the split's join or, without a join, for another EMRSET (log 62). -/
def Bough.path (b : Bough) : Mask :=
  b.emr ||| ((if b.topJoin.isSome then b.idle else b.live) &&& b.settable)

/-- Closes the forwarding window of the running split's lanes (R93). -/
def Bough.closeWindow (b : Bough) : Bough := b.closeLanes b.path

/-- Lanes leave the bough (R128). -/
def Bough.exitLanes (b : Bough) (m : Mask) : Bough :=
  { b with emr := b.emr &&& ~~~m, live := b.live &&& ~~~m,
           stack := b.stack.map fun e => { e with mask := e.mask &&& ~~~m } }

/-- A plain entry of the current split's FMT. -/
def Bough.entry (b : Bough) (mask : Mask) (kind : Kind) (join : Bool) (addr : W64) : StackEnt :=
  { mask, kind, join, svc := false, check := false, addr, fmt := b.fmt, seq := 0, tok := 0, rep := none, replay := false }

/-- Inserts the fault join beneath the fault entries that the split pushed (R131, step 3). -/
def Bough.insertFaultJoin (b : Bough) (x : W64) (replay : Option StackEnt) : Bough :=
  let top := b.stack.take b.nf
  let m := top.foldl (fun m e => m ||| e.mask) b.emr
  let j := b.entry m .fault true x
  let j := match replay with
    | some e => { j with replay := e.replay, tok := e.tok, rep := e.rep }
    | none => { j with rep := b.rep }
  { b with stack := top ++ j :: b.stack.drop b.nf, nf := 0 }

/-- An entry becomes the running split (R127). A reconvergence point, and the target of a branch group, is
checked against TM as its line is entered (R43, R45); a fault split is not, since R43 exempts every resumption
after a fault, unless the fault was the fetch of a target that could not be read before (log 62). -/
def Bough.run (b : Bough) (e : StackEnt) (rest : List StackEnt) : Bough :=
  { b with stack := rest, emr := e.mask, idle := 0, pc := e.addr, fmt := e.fmt, nf := 0, rep := e.rep,
           replaying := e.replay, rtok := e.tok, wait := .none, entered := false, checkTM := e.check }

/-! ## Refill regions -/

/-- The region that the bough is inside. -/
def State.regionOf (s : State) (b : Bough) : Option Region :=
  match b.refill, s.launchOf b with
  | some f, some l => l.desc.regions[f.region]?
  | _, _ => none

/-- The instance of a region that a bough joined: of the copse or of the launch (R143). -/
def State.instGet (s : State) (b : Bough) (r : Region) (g j : Nat) : Option RInst :=
  let xs := if r.perLaunch then (s.launchOf b).map fun l => l.insts else (s.copseOf b).map fun c => c.insts
  (xs.getD []).find? fun x => x.region == g && x.inst == j

/-- Writes an instance. -/
def State.instPut (s : State) (b : Bough) (r : Region) (x : RInst) : State :=
  let put (xs : List RInst) : List RInst := upsert (fun y => y.region == x.region && y.inst == x.inst) x xs
  if r.perLaunch then s.modLaunch b.part b.launch fun l => { l with insts := put l.insts }
  else s.modCopse b.part b.launch b.cid fun c => { c with insts := put c.insts }

/-- A value has passed a bound (R114). -/
def passedBound (v bound step : W32) : Bool :=
  if step.toInt > 0 then decide (v.toInt ≥ bound.toInt)
  else if step.toInt < 0 then decide (v.toInt ≤ bound.toInt)
  else false

/-- The value of an ordinal: (START + o·STEP) mod 2^32 (R143). -/
def RInst.value (x : RInst) (o : Nat) : W32 := x.start + BitVec.ofNat 32 o * x.step

/-- The cursor moves past every skipped ordinal (R144). -/
def passSkipped : Nat → Nat → List Nat → Nat
  | 0, c, _ => c
  | k + 1, c, sk => if sk.contains c then passSkipped k (c + 1) sk else c

/-- The cursor advances by one and past the skipped ordinals. -/
def RInst.advance (x : RInst) : RInst :=
  let c := passSkipped (x.skipped.length + 1) (x.cursor + 1) x.skipped
  { x with cursor := c, skipped := x.skipped.filter fun o => o ≥ c }

/-- Lanes that drain or park leave every entry but the region frame (R128). -/
def Bough.leaveSplits (b : Bough) (m : Mask) (stop : W64) : Bough :=
  { b with emr := b.emr &&& ~~~m,
           stack := b.stack.map fun e =>
             if e.kind == .refill && e.addr == stop then e else { e with mask := e.mask &&& ~~~m } }

/-- The phases of lanes are cleared. -/
def Refill.clear (f : Refill) (m : Mask) : Refill :=
  { f with body := f.body &&& ~~~m, prologue := f.prologue &&& ~~~m, retire := f.retire &&& ~~~m,
           rp := f.rp &&& ~~~m, fp := f.fp &&& ~~~m, fpReady := f.fpReady &&& ~~~m,
           parks := f.parks.filter fun p => !m.getLsbD p.lane, hasOrd := f.hasOrd &&& ~~~m,
           pset := f.pset &&& ~~~m }

/-- Lanes drain (R142, R143). -/
def Bough.drain (b : Bough) (m : Mask) (stop : W64) : Bough :=
  let b := b.leaveSplits m stop
  { b with refill := b.refill.map fun f =>
      { f.clear m with drained := f.drained ||| m, drainAfter := f.drainAfter &&& ~~~m } }

/-- A lane takes an ordinal and awaits its prologue (R143). -/
def Bough.giveOrd (b : Bough) (l o : Nat) (stop : W64) : Bough :=
  let m : Mask := 1#32 <<< l
  let b := b.leaveSplits m stop
  { b with refill := b.refill.map fun f =>
      { f.clear m with ord := Sparse.set f.ord l (BitVec.ofNat 64 o), hasOrd := f.hasOrd ||| m,
                       pset := f.pset ||| m } }

/-! ## Tasks in lanes -/

/-- The current task id of a lane; 0 outside a task (R343). -/
def Bough.task (b : Bough) (l : Nat) : Nat := (Sparse.get b.taskOf l).toNat

/-- The frames of a lane's task stack, innermost first. -/
def Bough.framesOf (b : Bough) (l : Nat) : List Frame := b.frames.filter fun f => f.lane == l

/-- The depth of a lane's task stack. -/
def Bough.depth (b : Bough) (l : Nat) : Nat := (b.framesOf l).length

/-- p0 to p6 of a lane. -/
def Bough.lanePreds (b : Bough) (l : Nat) : BitVec 7 :=
  (List.range 7).foldl (fun v k => if (b.pred k).getLsbD l then v ||| (1#7 <<< k) else v) 0#7

/-- Writes p0 to p6 of a lane. -/
def Bough.setLanePreds (b : Bough) (l : Nat) (v : BitVec 7) : Bough :=
  (List.range 7).foldl (fun b k =>
    b.setPred k (1#32 <<< l) (if v.getLsbD k then 1#32 <<< l else 0#32)) b

/-- What a frame of a lane holds (R340). -/
def Bough.frameNow (b : Bough) (live : List Nat) (l : Nat) (ret : W64) (byWait : Bool) : Frame :=
  { lane := l, regs := live.map fun r => b.vreg r l, preds := b.lanePreds l, ret, fmt := b.fmt,
    task := Sparse.get b.taskOf l, byWait, grp := true }

/-- Restores a frame's registers, predicates and task id in its lane (R340). -/
def Bough.restoreFrame (b : Bough) (live : List Nat) (f : Frame) : Bough :=
  let b := (live.zip f.regs).foldl (fun b x => b.setVreg false x.1 f.lane x.2) b
  let b := b.setLanePreds f.lane f.preds
  { b with taskOf := Sparse.set b.taskOf f.lane f.task }

/-- The live set of the bough's kernel (R82). -/
def State.liveSet (s : State) (b : Bough) : List Nat := ((s.launchOf b).map fun l => l.desc.live).getD []

/-- A word at a virtual address, or 0 where it does not translate. -/
def State.vword (s : State) (b : Bough) (va n : Nat) : Nat :=
  match s.vrd b.core b.part va n with
  | .ok x => x
  | .error _ => 0

/-- `n` bytes at virtual addresses, each where it translates to. -/
def State.vspan (s : State) (b : Bough) (va n : Nat) : Nat :=
  (List.range n).foldr (fun i v => s.vword b (va + i) 1 + 256 * v) 0

/-- Loads a task's argument record into v0 to v15 of a lane (R334). A word that does not translate reads as 0, and a
task whose record does not translate starts without a write to it: R334 says nothing of either (log 47). -/
def State.loadArgs (s : State) (l arg : Nat) : State :=
  (List.range 16).foldl (fun s i =>
    let w := BitVec.ofNat 32 (s.vword s.b (arg + 4 * i) 4)
    s.modB fun b => b.setVreg false i l w) s

/-- A lane takes a task: RUNNING with the lane as its HELPER; its arguments, or the frames of a
suspended task (R334). Answers where the lane continues when it resumes. -/
def State.startTask (s : State) (l va : Nat) : Option (W64 × W32) × State :=
  match s.xlateRec s.b.core s.b.part va true with
  | .error _ => (none, s)
  | .ok pa =>
    let r := s.taskRec pa
    let s := (s.setTaskSt s.b.lk pa 3).setHelper s.b.lk pa (helperWord s.b.core s.b.slot l)
    let s := s.modB fun b => { b with taskOf := Sparse.set b.taskOf l (BitVec.ofNat 64 (va / 64)) }
    if r.resume then
      let s := s.dropFrame s.b.lk pa
      match s.susp.find? fun x => x.part == s.b.part && x.task.toNat == va with
      | none => (none, s.loadArgs l r.arg)
      | some x =>
        let live := s.liveSet s.b
        let s := { s with susp := s.susp.filter fun y => !(y.part == x.part && y.task == x.task) }
        let s := s.modB fun b =>
          let b := b.restoreFrame live { x.top with lane := l }
          { b with frames := (x.frames.map fun f => { f with lane := l, grp := false }) ++ b.frames }
        (some (x.top.ret, x.top.fmt), s)
    else (none, s.loadArgs l r.arg)

/-- A task leaves the launches that hold it. -/
def State.dropTask (s : State) (part va : Nat) : State :=
  { s with launches := s.launches.map fun x =>
      if x.part == part then { x with tasks := x.tasks.filter fun t => t.toNat != va } else x }

/-- The lane's innermost task ends (R335): it becomes DONE, and an unfilled future FAULTED with cause 0x03. -/
def State.taskEnds (s : State) (l : Nat) : State :=
  if s.b.task l = 0 then s
  else
    let va := 64 * s.b.task l
    ((s.endTask s.b.lk s.b.core s.b.part va 5 0x03).dropTask s.b.part va).modB fun b =>
      { b with taskOf := Sparse.set b.taskOf l 0 }

/-- Where a lane goes on that pops a frame whose TSPAWN or TWAIT no group of the bough holds: it repeats the
TWAIT, or goes past the TSPAWN that its inline task has completed, with the frame's FMT (R337, R339, R340). -/
def Bough.frameEntry (b : Bough) (f : Frame) (m : Mask) : StackEnt :=
  { b.entry m (if b.refill.isSome then .refill else .branch) false (if f.byWait then f.ret else nextAddr f.ret false)
    with fmt := f.fmt }

/-- A lane pops its innermost frame and leaves the running split (R341, R335); where it goes on by itself its entry
lies beneath the fault entries of the split, as theirs does (R131). -/
def Bough.popFrame (b : Bough) (live : List Nat) (l : Nat) : Bough :=
  match b.framesOf l with
  | [] => b
  | f :: _ =>
    let m : Mask := 1#32 <<< l
    let n := b.stack.length - b.base
    let left := (b.stack.take n).map (fun e => { e with mask := e.mask &&& ~~~m }) ++ b.stack.drop n
    let b := b.restoreFrame live f
    { b with frames := removeFirst (fun x => x.lane == l) b.frames,
             tgroups := match b.tgroups with
               | g :: gs => (if f.grp then { g with run := g.run &&& ~~~m } else g) :: gs
               | [] => [],
             emr := b.emr &&& ~~~m,
             stack := left.take b.nf ++ (if f.grp then [] else [b.frameEntry f m]) ++ left.drop b.nf }

/-- How the lane's innermost task ends (R343): 0x03 where it leaves an unfilled future. -/
def State.taskOutcome (s : State) (l : Nat) : Nat :=
  let fut := s.vword s.b (64 * s.b.task l + 16) 8
  if fut ≠ 0 && futState (s.vword s.b fut 16) = 0 then 0x03 else 0

/-- A lane exits (R128), or its innermost task ends and pops its frame (R335, R340); an inline TSPAWN's
lane then has the outcome as its status (R337). -/
def State.exitLane (s : State) (l : Nat) : State :=
  let st := s.taskOutcome l
  let s := s.taskEnds l
  match s.b.framesOf l with
  | fr :: _ =>
    let live := s.liveSet s.b
    s.modB fun b =>
      let b := b.popFrame live l
      if fr.byWait then b else { b with tstat := Sparse.set b.tstat l (BitVec.ofNat 8 st) }
  | [] => s.modB fun b => b.exitLanes (1#32 <<< l)

/-! ## Fetching iterations -/

/-- One lane fetches from the instance (R143): the next ordinal, or it drains. A task that resumes waits in an
entry beneath the fault entries that the running split has pushed, which its fault join will follow (R131). -/
def State.fetchLane (s : State) (r : Region) (g j l : Nat) : State :=
  match s.instGet s.b r g j with
  | none => s.modB fun b => b.drain (1#32 <<< l) r.stop
  | some x =>
    if x.closed then s.modB fun b => b.drain (1#32 <<< l) r.stop
    else if r.task then
      match (s.launchOf s.b).bind fun la => la.entryq.head? with
      | none => (s.instPut s.b r { x with closed := true }).modB fun b => b.drain (1#32 <<< l) r.stop
      | some va =>
        let s := s.modLaunch s.b.part s.b.launch fun la => { la with entryq := la.entryq.drop 1 }
        let s := s.instPut s.b r { x with next := x.next + 1 }
        let s := s.modB fun b => b.giveOrd l x.next r.stop
        let (at_, s) := s.startTask l va.toNat
        match at_ with
        | none => s
        | some (pc, fmt) =>
          let m : Mask := 1#32 <<< l
          s.modB fun b =>
            { b with stack := b.stack.take b.nf ++ { b.entry m .refill false pc with fmt } :: b.stack.drop b.nf,
                     refill := b.refill.map fun f => { f with pset := f.pset &&& ~~~m, body := f.body ||| m } }
    else
      let v := x.value x.next
      if passedBound v x.bound x.step then
        (s.instPut s.b r { x with closed := true }).modB fun b => b.drain (1#32 <<< l) r.stop
      else
        let s := s.instPut s.b r { x with next := x.next + 1 }
        s.modB fun b => (b.giveOrd l x.next r.stop).setInd r.level l v

/-- A fetch by a set of lanes, in increasing lane order (R143). -/
def State.fetchLanes (s : State) (r : Region) (g j : Nat) (m : Mask) : State :=
  m.list.foldl (fun s l => s.fetchLane r g j l) s

/-! ## Releases -/

/-- A matrix instruction that reads or writes LOCAL space when it begins (R301, R303, R327). -/
def isMatLocal (i : Instr) : Bool :=
  match i with
  | .accld loc _ _ | .accst loc _ _ => loc
  | .acccvt _ _ f => f.sub.getLsbD 6
  | .smerge _ _ => true
  | _ => false

/-- A matrix instruction of a bough has its LOCAL accesses still to make (R301). -/
def State.matLocal (s : State) (uid : Nat) : Bool :=
  s.cores.any fun e => e.2.mq.any fun o => o.uid == uid && isMatLocal o.instr

/-- Every GLOBAL store, ZLINE and atomic of a bough, value-returning or not, has been acknowledged, and its
LOCAL accesses performed (R198, R227, R230). LCREAD (14) writes nothing. -/
def State.writesDone (s : State) (uid : Nat) : Bool :=
  !s.matLocal uid &&
  !s.stores.any (fun x => x.uid == uid) && !s.acks.any (fun x => x.uid == uid) &&
    !s.atoms.any fun x => x.uid == uid && x.aop != 14

/-- Every load and value-returning atomic of a bough has returned (R230); PREF is neither. -/
def State.loadsDone (s : State) (uid : Nat) : Bool :=
  !s.loads.any (fun x => x.uid == uid && x.n != 0) && !s.atoms.any fun x => x.uid == uid && x.ret

/-- The latest write completion time that a release beyond the core waits for: the bough's own WH (R198), and
that of the writes of other boughs of its core that an acquire at core scope may have brought to it, for a
release covers what its agent has acquired (R227). -/
def State.whOf (s : State) (b : Bough) : Nat := max b.wh (max (s.core b.core).wh b.seen)

/-- A release may pass: at core scope the acknowledgements, beyond it also TIME ≥ WH + 2 (R198). -/
def State.releaseReady (s : State) (b : Bough) (core : Bool) : Bool :=
  s.writesDone b.uid && (core || s.time ≥ s.whOf b + 2)

/-- FENCE.rel may pass: also the loads have returned (R230); a refill region's release waits as it does (R150). -/
def State.fenceReady (s : State) (b : Bough) (core : Bool) : Bool := s.releaseReady b core && s.loadsDone b.uid

/-! ## Dispatch -/

/-- The running split waits, from now on unless it already waited for the same. -/
def State.hold (s : State) (w : Wait) : State :=
  s.modB fun b => { b with wait := w, waitSince := if b.wait = w then b.waitSince else s.time }

/-- The lane that holds the cursor's ordinal. -/
def Refill.holder (f : Refill) (cursor : Nat) : Option Nat :=
  lanes.find? fun l => f.hasOrd.getLsbD l && (Sparse.get f.ord l).toNat == cursor

/-- Dispatch has work (R147). -/
def State.dispatchWork (s : State) : Bool :=
  match s.regionOf s.b, s.b.refill with
  | some r, some f =>
    let cur := ((s.instGet s.b r f.region f.inst).map fun x => x.cursor).getD 0
    f.pset ≠ 0 || (r.ordered && (match f.holder cur with
      | some l => f.rp.getLsbD l || f.fpReady.getLsbD l
      | none => false))
  | _, _ => false

/-- Discards body joins that hold no lane. -/
def dropEmptyBody (stop : W64) : List StackEnt → List StackEnt
  | [] => []
  | e :: r => if e.kind == .refill && e.join && e.addr != stop && e.mask == 0 then dropEmptyBody stop r else e :: r

/-- The region exits: the frame pops and the bough leaves the instance (R149); the fault entries that the
split had pushed before it entered stand on top again (R131, log 62). -/
def State.regionExit (s : State) (r : Region) (x : RInst) : State :=
  match s.b.stack with
  | [] => s
  | e :: rest =>
    let s := s.instPut s.b r { x with members := x.members.filter fun u => u != s.b.uid }
    s.modB fun b => { (b.run e rest) with nf := (b.refill.map fun f => f.nf).getD 0, refill := none }

/-- Tries the exit of R149: every lane drained, and under ORDERED the cursor past every ordinal handed
out; the exit releases as R198 states. -/
def State.tryExit (s : State) (r : Region) (f : Refill) : State :=
  match s.instGet s.b r f.region f.inst, s.b.stack with
  | some x, e :: _ =>
    if e.mask &&& ~~~f.drained ≠ 0 || (f.rp ||| f.fp ||| f.pset) ≠ 0 || (r.ordered && x.cursor < x.next) then
      s.hold .cursor
    else if !s.fenceReady s.b (!r.perLaunch) then s.hold .fence
    else s.regionExit r x
  | _, _ => s.hold .cursor

/-- Dispatch (R147), at a refill point of a bough that has no running split. -/
def State.dispatch (s : State) : State :=
  match s.regionOf s.b, s.b.refill with
  | some r, some f =>
    let cur := ((s.instGet s.b r f.region f.inst).map fun x => x.cursor).getD 0
    let holder := if r.ordered then f.holder cur else none
    let retire (l : Nat) (pc : W64) (fmt : W32) (check : Bool) : State := s.modB fun b =>
      let m : Mask := 1#32 <<< l
      { b with emr := m, idle := 0, pc, fmt, wait := .none, entered := false, checkTM := check, nf := 0, rep := none,
               refill := some { f with rp := f.rp &&& ~~~m, fp := f.fp &&& ~~~m,
                                       parks := f.parks.filter fun p => p.lane != l,
                                       fpReady := f.fpReady &&& ~~~m, retire := f.retire ||| m } }
    let isRp := (holder.map fun l => f.rp.getLsbD l).getD false
    let isFp := (holder.map fun l => f.fpReady.getLsbD l).getD false
    let l := holder.getD 0
    if isRp then retire l r.retire s.b.fmt true
    else if isFp then
      match f.parks.find? fun p => p.lane == l with
      | some p => (retire l p.addr p.fmt false).modB fun b =>
          { b with replaying := p.replay, rtok := p.tok, rep := p.rep }
      | none => s
    else if f.pset ≠ 0 then
      let isBody (e : StackEnt) : Bool := e.kind == .refill && e.join && e.addr != r.stop
      s.modB fun b =>
        let stack := if b.stack.any isBody then
            modifyFirst isBody (fun e => { e with mask := e.mask ||| f.pset }) b.stack
          else { b.entry f.pset .refill true r.body with check := true } :: b.stack
        { b with stack, emr := f.pset, idle := 0, pc := r.prologue, wait := .none, entered := false, checkTM := true,
                 nf := 0,
                 refill := some { f with pset := 0, prologue := f.prologue ||| f.pset } }
    else
      let s := s.modB fun b => { b with stack := dropEmptyBody r.stop b.stack }
      match s.b.stack with
      | e :: rest =>
        if e.kind == .refill && e.addr != r.stop then s.modB fun b => b.run e rest
        else if e.kind == .refill then s.tryExit r f
        else s.hold .cursor
      | [] => s.hold .cursor
  | _, _ => s

/-! ## The end of a split and of a bough -/

/-- A bough ends (R129, R139): every lane has exited, it leaves its group (R351), and barriers that wait
for it are evaluated again (R273, R274). It is released when nothing it issued remains. -/
def State.endBough (s : State) : State :=
  let s := s.modB fun b => { b with status := .ended, emr := 0, idle := 0, live := 0, stack := [], wait := .none }
  let s := s.leaveStep s.b none
  (s.settleBars s.b.part s.b.launch s.b.cid).settleGbar s.b.part s.b.launch

/-- A waiting TSPAWN or TWAIT goes on when its task lanes have returned (R337, R339). A lane that runs a
task and that nothing can run any more ends it as an exit does (R129). -/
def State.resumeGroup (s : State) (g : TGroup) (rest : List TGroup) : State :=
  let s := (g.run &&& s.b.live).list.foldl (fun s l => s.exitLane l) s
  s.modB fun b =>
    let m := g.mask &&& b.live
    { b with tgroups := rest, emr := m, idle := 0, pc := g.pc, fmt := g.fmt, stepdone := g.done, nf := g.nf,
             wait := .none, entered := false, checkTM := false }

/-- Pops until there is an entry to act on (R127), Dispatch inside a region (R147), or the end. Where a split
ends in a region with an entry on top that can run, the entry is popped first, and Dispatch comes when no such
entry is left: R127 and R147 both name that moment (log 62). -/
def State.settleFuel : Nat → State → State
  | 0, s => s
  | n + 1, s =>
    if s.b.emr ≠ 0 then s
    else
      match s.b.reach with
      | [] =>
        match s.b.tgroups with
        | g :: gs => State.settleFuel n (s.resumeGroup g gs)
        | [] => s.endBough
      | e :: _ =>
        if e.kind == .refill then s.dispatch
        else if e.mask = 0 then
          State.settleFuel n (s.modB fun b => { b with stack := b.stack.drop 1 })
        else if !e.join && e.kind == .fault && !e.svc then
          if s.dispatchWork then s.dispatch else s.hold .fault
        else s.modB fun b => b.run e (b.stack.drop 1)

/-- A bough without a running split finds its next one (R127). -/
def State.settle (s : State) : State := s.settleFuel (s.b.stack.length + s.b.tgroups.length + 2)

/-! ## Room on the stack (R125) -/

/-- The most entries that the stack may hold (R125). -/
def stackMax : Nat := 1024

/-- The line of the kernel's ENTRY (R82). -/
def State.entryLine (s : State) (b : Bough) : W64 :=
  lineAddr ((((s.launchOf b).map fun l => l.desc.entry)).getD 0)

/-- The line offset of an address from the ENTRY line (R125). -/
def State.lineOffset (s : State) (b : Bough) (a : W64) : Int :=
  ((lineAddr a - s.entryLine b).toInt) / 64

/-- An entry at an address can be pushed: the offset fits LINE's 25 signed bits (R125). An offset of exactly
+2^24 is not more than 2^24 lines and fits no LINE field: it counts as too far (log 62). -/
def State.lineNear (s : State) (b : Bough) (a : W64) : Bool :=
  let d := s.lineOffset b a
  decide (-(2 ^ 24) ≤ d) && decide (d ≤ 2 ^ 24 - 1)

/-- The running split ends at an address (R127, R131). A fault join that would be the 1,025th entry, or that lies
too far from ENTRY, is not pushed: the trap comes at the bough's next turn (R125). -/
def State.endSplit (s : State) (x : W64) : State :=
  if s.b.nf > 0 && s.b.stack.length ≥ stackMax then s.hold (.trap 0x24)
  else if s.b.nf > 0 && !s.lineNear s.b x then s.hold (.trap 0x21)
  else
    let s := s.modB fun b => if b.nf > 0 then b.insertFaultJoin x none else b
    (s.modB fun b => { b with emr := 0 }).settle

/-- After an effect that took lanes from the running split: an empty split ends. Where it has fault entries, R131
names no address for their join then: it is that of the PC, after the instruction (log 62). -/
def State.checkEmpty (s : State) : State :=
  if s.b.emr = 0 && s.b.status == .running then s.endSplit s.b.pc else s

end Sys2Proof.Machine
end

