-- ==== Sys2Proof/Machine/Ops.lean ====
section
/-! DEFINITION. The shared operations of every instruction: taking a trap, a fault or a machine check and
the return beside it (spec/13_system.md R356-R362, R365; spec/12_tasks.md R341; R131), what an
instruction is held by (spec/02_encoding.md R38, R63, R90-R94), and the issue of an instruction. -/

namespace Sys2Proof.Machine

/-!  Taking an exception -/

/-- The program causes of R356. -/
def cIllegal : Nat := 0x20
def cTarget : Nat := 0x21
def cMalformed : Nat := 0x22
def cRegister : Nat := 0x23
def cConverge : Nat := 0x24
def cRefill : Nat := 0x25
def cCycle : Nat := 0x26
def cUnclaimed : Nat := 0x27

/-- What a trap of the running split reports (R357-R359): the ordinal of its lowest lane in a region, the
completed repetitions, and the TIME at which it was decided. -/
def State.info (s : State) (cls cause detail : Nat) (addr pc : W64) (m : Mask) : FaultInfo :=
  { cls, cause, detail, addr, pc, mask := m, engine := 0,
    ordinal := ordinalOf s.b.ordinals m, task := none, repdone := s.b.repdone,
    time := if s.b.trapAt = 0 then s.time else s.b.trapAt }

/-- Handler entry (R362). -/
def State.enterHandler (s : State) (cls cause detail : Nat) (addr epc : W64) : State :=
  let vec := (s.part s.b.part).trapvec
  s.modB fun b =>
    { b.closeWindow with
      epc, emask := b.emr, eaddr := addr, sysmode := true, pc := vec, rep := none, wait := .none,
      ecause := BitVec.ofNat 64 (joinBits [(4, cls), (8, cause), (24, detail), (28, 0)]),
      idle := 0, entered := false, checkTM := true, replaying := false, trapAt := 0 }

/-- The next record of the partition finds no free slot: a trap waits, its lanes parked (R358). -/
def State.ringBusy (s : State) (part : Nat) : Bool :=
  let p := s.part part
  p.fqbase ≠ 0 && (p.fqwait ≠ [] || !p.fqFree p.recs)

/-- A trap that waits for a free slot: the TIME at which it was first decided stays (R358, R359). -/
def State.markTrap (s : State) : State :=
  s.modB fun b => { b with trapAt := if b.trapAt = 0 then s.time else b.trapAt }

/-- A trap that ends the launch: a record, and a kill (R357, routes 1 and 4). -/
def State.recordKill (s : State) (cls cause detail : Nat) (addr pc : W64) (endst : Nat) : State :=
  if s.ringBusy s.b.part then s.markTrap.hold .fault
  else
    let (seq, s) := s.recordFault s.b (s.info cls cause detail addr pc s.b.emr)
    s.killLaunch s.b.part s.b.launch endst seq 0

/-- Lanes that run an adopted or inline task fail: the task and its future are faulted, and each lane
pops the frame that started it (R341). -/
def State.failTasks (s : State) (m : Mask) : State :=
  let live := s.liveSet s.b
  m.list.foldl (fun s l =>
    let va := 64 * s.b.task l
    let s := (s.endTask s.b.lk s.b.core s.b.part va 6 0x01).dropTask s.b.part va
    s.modB fun b => { b.popFrame live l with tstat := Sparse.set b.tstat l 0x01 }) s

/-- Lanes of the running split that run a task at depth 1 or more. -/
def Bough.deepLanes (b : Bough) (m : Mask) : Mask := m &&& Mask.ofPred fun l => b.depth l > 0

/-- A program trap of the running split (R357): first the lanes at task depth 1 or more (R341), then the
partition's handler, or a record and a kill. -/
def State.takeTrap (s : State) (cause detail : Nat) (addr : W64) : State :=
  let pc := s.b.pc
  let deep := s.b.deepLanes s.b.emr
  let busy := deep ≠ 0 && s.ringBusy s.b.part
  let s : State :=
    if deep = 0 || busy then s
    else
      let l := deep.lowest
      let i := { s.info 1 cause detail addr pc deep with task := some (s.b.task l, l) }
      ((s.recordFault s.b i).2.failTasks deep).modB fun b => { b with trapAt := 0 }
  if busy then s.markTrap.hold .fault
  else if s.b.emr = 0 then s.endSplit pc
  else if !s.b.sysmode && (s.part s.b.part).trapvec ≠ 0 then
    let s := s.enterHandler 1 cause detail addr pc
    if s.targetOk s.b s.b.pc then s
    else s.recordKill 1 cTarget 0 s.b.pc s.b.pc 1
  else s.recordKill 1 cause detail addr pc 1

/-- A machine check: a record, and a kill with end status 2 (R357, route 1). -/
def State.machineCheck (s : State) (cause detail : Nat) (addr : W64) : State :=
  s.recordKill 2 cause detail addr s.b.pc 2

/-- A machine check that a fault carries (R356, R357). -/
def State.takeCheck (s : State) (c : Nat) (addr : W64) : State := s.machineCheck (c % 2 ^ 8) (c / 2 ^ 8) addr

/-- The stack has room for a fault entry, and for the fault join that the split owes (R125, R131); the cause of the
trap where it has not. -/
def State.faultRoom (s : State) : Option Nat :=
  if s.b.stack.length + 2 > stackMax then some cConverge
  else if !s.lineNear s.b s.b.pc then some cTarget
  else none

/-- The completion flag, as a token, that the replay of an instruction owes: its own, or where the fault is the
fetch of a line that a replay enters again, the one that this replay owed (R41). -/
def State.owedTok (s rest : State) : Nat := if s.b.entered then rest.b.itok else s.b.rtok

/-- The lanes that a replayable fault of `m` parks in the Cambium: those in an ordered retire section (R144). -/
def State.fpLanes (s : State) (m : Mask) : Mask :=
  match s.b.refill with
  | some f => if (s.regionOf s.b).any fun r => r.ordered then m &&& f.retire else 0#32
  | none => 0#32

/-- The task that a fault of lanes is charged to, and the lane that runs it: those of the lowest lane at task depth
1 or more (R341). -/
def Bough.taskOfFault (b : Bough) (m : Mask) : Option (Nat × Nat) :=
  let deep := b.deepLanes m
  if deep = 0 then none else some (b.task deep.lowest, deep.lowest)

/-- Lanes of the running split take a replayable fault at an instruction (R131): an FP park in an ordered
retire section (R144), else a fault split; the record waits for the host's reply, or kills where the
partition has no fault queue (R358). `rest` is the state in which the other lanes go on. -/
def State.faultSplit (s rest : State) (m : Mask) (cause : Nat) (addr : W64) (detail : Nat) : State :=
  let pc := s.b.pc
  let tok := s.owedTok rest
  let replay := s.b.entered || s.b.replaying
  let (seq, rest) := rest.recordFault s.b { s.info 0 cause detail addr pc m with task := s.b.taskOfFault m }
  if rest.noQueue s.b.part then rest.killLaunch s.b.part s.b.launch 1 seq 0
  else
    let rest := rest.modPart s.b.part fun p =>
      { p with pending := p.pending ++ [{ seq, launch := s.b.launch, uid := s.b.uid, eng := 0 }] }
    let fp := s.fpLanes m
    if fp ≠ 0 then
      let stop := ((s.regionOf s.b).map fun r => r.stop).getD 0
      (rest.modB fun b =>
        let b := b.leaveSplits fp stop
        { b with refill := b.refill.map fun f =>
            fp.list.foldl (fun f l =>
              { f with fp := f.fp ||| (1#32 <<< l), retire := f.retire &&& ~~~(1#32 <<< l),
                       parks := { lane := l, addr := pc, fmt := s.b.fmt, seq, tok, rep := s.b.rep, replay } ::
                                  f.parks }) f }).checkEmpty
    else
      let e := { s.b.entry m .fault false pc with seq, tok, rep := s.b.rep, replay }
      let rest := rest.modB fun b =>
        { b with stack := e :: b.stack, nf := b.nf + 1, emr := b.emr &&& ~~~m }
      if rest.b.emr = 0 then
        (rest.modB fun b => b.insertFaultJoin pc (some e)).settle
      else rest

/-- Lanes of the running split take a replayable fault, where the stack can hold it; an FP park needs no room. -/
def State.faultLanes (s rest : State) (m : Mask) (cause : Nat) (addr : W64) (detail : Nat := 0) : State :=
  match if s.fpLanes m = 0 then s.faultRoom else none with
  | some c => s.takeTrap c 0 s.b.pc
  | none => s.faultSplit rest m cause addr detail

/-- The bough parks whole with a replayable fault of every active lane (R311, R314, R315). -/
def State.faultAll (s : State) (cause : Nat) (addr : W64) : State := s.faultLanes s s.b.emr cause addr

/-- A TRAP or BKPT that reaches the host parks the whole bough until the reply (R357, route 5). -/
def State.parkForHost (s t : State) (cls cause code : Nat) : State :=
  let (seq, t) := t.recordFault s.b (s.info cls cause code 0 s.b.pc s.b.emr)
  if t.noQueue s.b.part then t.killLaunch s.b.part s.b.launch 1 seq 0
  else
    (t.modPart s.b.part fun p =>
      { p with pending := p.pending ++ [{ seq, launch := s.b.launch, uid := s.b.uid, eng := 0 }] }).hold
      (.reply seq)

/-- ERET (R365): PC := EPC, EMR := EMASK ∩ E, system mode ends and the window closes. -/
def State.returnFrom (s : State) : State :=
  s.modB fun b =>
    { b.closeWindow with pc := b.epc, emr := b.emask &&& b.settable, sysmode := false, entered := false,
                         checkTM := false, rep := none }

/-! ## FMT (R162, R163, R296, R303, R305) -/

def fmtPhase (x : W32) : Nat := x.toNat / 2 ^ 27
def fmtSE (x : W32) : Bool := x.getLsbD 26
def fmtFTZ (x : W32) : Bool := x.getLsbD 25
def fmtRM (x : W32) : Nat := x.toNat / 2 ^ 22 % 8
def fmtSparse (x : W32) : Nat := x.toNat / 2 ^ 20 % 4
def fmtSCB (x : W32) : Bool := x.getLsbD 19
def fmtSCA (x : W32) : Bool := x.getLsbD 18
def fmtAcc (x : W32) : Nat := x.toNat / 2 ^ 16 % 4
def fmtB (x : W32) : Nat := x.toNat / 2 ^ 4 % 16
def fmtA (x : W32) : Nat := x.toNat % 16

/-- A value that FMT may hold (R163). -/
def fmtValid (x : W32) : Bool :=
  decide (fmtRM x ≤ 5) && decide (fmtSparse x ≤ 2) && decide (fmtAcc x ≤ 2) &&
    decide (x.toNat / 2 ^ 8 % 2 ^ 8 = 0) && decide (fmtB x ≤ 8) && decide (fmtA x ≤ 8)

/-- A row of R296: the elements K of a data row, those of a step, the adder's W and g (0 where there is
none), and whether MMAS has the row. -/
structure MmaRow where
  k : Nat
  ks : Nat
  w : Nat
  g : Nat
  mmas : Bool
  deriving DecidableEq, Repr

/-- The row of R296 that an FMT selects; none for a combination that no row has. -/
def mmaRow (fmt : W32) : Option MmaRow :=
  let a := fmtA fmt
  let b := fmtB fmt
  let plain := !fmtSCA fmt && !fmtSCB fmt
  match fmtAcc fmt with
  | 0 =>
    if a ≤ 1 && b ≤ 1 then some { k := 64, ks := 16, w := 25, g := 5, mmas := true }
    else if (a == 2 || a == 3) && (b == 2 || b == 3) then some { k := 128, ks := 32, w := 25, g := 6, mmas := false }
    else if plain && a == b && (a == 5 || a == 6) then some { k := 32, ks := 8, w := 32, g := 4, mmas := true }
    else if plain && a == 7 && b == 7 then some { k := 16, ks := 4, w := 52, g := 3, mmas := false }
    else none
  | 1 => if plain && a == 8 && b == 8 then some { k := 8, ks := 1, w := 0, g := 0, mmas := false } else none
  | 2 => if plain && a == 4 && b == 4 then some { k := 128, ks := 128, w := 0, g := 0, mmas := false } else none
  | _ => none

/-- An f64 accumulator is a pair of tiles and ACC is even (R286). -/
def pairOk (fmt : W32) (acc : BitVec 2) : Bool := fmtAcc fmt != 1 || acc.toNat % 2 == 0

/-- The FMT fields are a combination that the instruction accepts (R288, R296, R299, R303, R305). -/
def fmtAccepts (fmt : W32) (i : Instr) : Bool :=
  match i with
  | .mma _ _ f => (mmaRow fmt).isSome && pairOk fmt f.acc
  | .mmas _ _ _ => (mmaRow fmt).any (fun r => r.mmas) && fmtSparse fmt != 0
  | .acccvt _ _ f => pairOk fmt f.acc
  | .accscale _ f => fmtAcc fmt != 2 && pairOk fmt f.acc
  | _ => true

/-! ## LOCAL accesses of the matrix instructions (R301, R303, R327) -/

/-- The LOCAL bytes that a queued matrix instruction reads or writes: first addresses and lengths. -/
def matSpans (i : Instr) (vals : List W64) : List (Nat × Nat) :=
  let v (k : Nat) : Nat := ((vals[k]?).getD 0).toNat
  let w (k : Nat) : Nat := v k / 4 * 4
  match i with
  | .accld true _ f | .accst true _ f =>
    (List.range (f.imm.toNat / 128 + 1)).map fun i => ((w 0 + i * w 1) % 2 ^ 64, 512)
  | .acccvt _ _ f =>
    if f.sub.getLsbD 6 then
      ((List.range 128).map fun r => ((v 0 + r * v 1) % 2 ^ 64, 64)) ++
      (if f.sub.toNat % 16 ≤ 1 then [(v 2, 256)] else if f.sub.toNat % 16 ≤ 3 then [(v 2, 512)] else [])
    else []
  | .smerge _ f =>
    (List.range (f.imm.toNat % 16 + 1)).map fun i => ((w 0 + i * w 1) % 2 ^ 64, 66560)
  | _ => []

/-- The registers of a bough that LOCAL bytes lie in (R90). -/
def Bough.windowRegs (b : Bough) (spans : List (Nat × Nat)) : List (Nat × Nat) :=
  ((List.range b.nregs).filter fun r => spans.any fun x =>
    x.1 < b.regbase + 128 * (r + 1) && b.regbase + 128 * r < x.1 + x.2).map fun r => (r, 1)

/-!  What holds an instruction -/

/-- Which of SD, S1, S2 and S3 a format-Y instruction reads or writes. -/
def yUses : Instr → List Nat
  | .lnset _ _ => [1, 2, 3]
  | .lnget _ f => if f.sub.toNat ≥ 4 then [0] else []
  | .coef _ f => if f.sub == 0 then [1, 2, 3] else [1, 2]
  | .rep _ f => if f.sub.toNat / 16 == 1 then [1] else []
  | .fmtset _ _ | .emrset _ _ | .tspawn _ _ _ | .launch _ _
  | .launchAgg _ _ | .srset _ _ _ | .ctxsave _ _ | .ctxrest _ _ => [1]
  | .bankcnt _ _ | .fmtget _ _ | .emrget _ _ | .splitq _ _ | .bankq _ _ | .gbar _ _ | .opclaim _ _ | .oprel _ _
  | .qstat _ _ | .canchk _ _ | .nestset _ _ | .srget _ _ _ | .timeget _ _ | .detphase _ _
  | .detq _ _ | .toktest _ _ => [0]
  | .fmtmod _ _ | .lcbase _ _ | .lcseed _ _ => [0, 1]
  | .rfinfo _ f => if f.sub.toNat ≥ 3 then [0] else []
  | .tinfo _ f => if f.sub.toNat ≥ 4 then [0] else []
  | .seqcommit _ _ | .seqcommitFork _ _ | .layout _ _ => [0, 1, 2]
  | .seqinfo _ f => if 1 ≤ f.sub.toNat && f.sub.toNat ≤ 3 then [0, 1, 2] else [0, 1]
  | .seqcommitRel _ _ | .sibleave _ _ | .sibinfo _ _ => [0, 1]
  | .sibjoin _ _ => [0, 1, 2, 3]
  | .ballot _ _ => [1, 2]
  | .tlbinv _ f => if f.sub == 0 then [1, 2] else []
  | .sleep _ f => if f.sub == 1 then [1] else []
  | _ => []

/-- The scalar operands of a format-A instruction: all of an S form, else those whose KND bit is set (R97). -/
def aUses (i : Instr) (f : FmtA) : List Nat :=
  if f.knd = 7 then
    match i with
    | .mov _ _ => [f.dst.toNat, f.sb.toNat]
    | .icmp _ _ => [f.sa.toNat, f.sb.toNat]
    | _ => [f.dst.toNat, f.sa.toNat, f.sb.toNat]
  else
    (if f.knd.getLsbD 2 then [f.dst.toNat] else []) ++ (if f.knd.getLsbD 1 then [f.sb.toNat] else []) ++
    (if f.knd.getLsbD 0 then [f.sc.toNat] else [])

/-- The parameter registers that a format-E instruction reads; a field that its page does not use names no
register (R53). -/
def eUses (i : Instr) (f : FmtE) : List Nat :=
  let a := f.pa.toNat
  let b := f.pb.toNat
  let c := f.pc.toNat
  match i with
  | .acopy _ _ _ _ | .afill _ _ | .acoll _ _ | .attn _ _ _ | .kvgather _ _ | .kvappend _ _ => [a, b, c]
  | .agather _ _ => [b]
  | .ascatter _ _ => [a]
  | .opfill _ _ _ | .smerge _ _ | .accld true _ _ | .accst true _ _ => [a, b]
  | .acccvt _ _ _ =>
    if f.sub.getLsbD 6 then (if f.sub.toNat % 16 ≤ 3 then [a, b, c] else [a, b]) else []
  | .accscale _ _ => if f.sub = 1 then [a] else []
  | _ => []

/-- The scalar registers that an instruction reads or writes; s63 stands for a field that holds none. -/
def sops (i : Instr) : List Nat :=
  match i.view with
  | some (_, .a f) => aUses i f
  | some (_, .i f) =>
    if f.kndd then
      match i with
      | .movi _ _ => [f.dst.toNat]
      | _ => [f.dst.toNat, f.sa.toNat]
    else []
  | some (_, .m f) => [f.as.toNat]
  | some (_, .j f) =>
    match i with
    | .bra _ _ | .join _ _ => []
    | _ => [f.as.toNat]
  | some (_, .e f) => [f.tk.toNat, f.fp.toNat] ++ eUses i f
  | some (_, .attn f w) => [f.tk.toNat, f.fp.toNat, w.qs.toNat, w.ks.toNat] ++ eUses i f
  | some (_, .y f) =>
    let at_ (k : Nat) : Nat := match k with
      | 0 => f.sd.toNat
      | 1 => f.s1.toNat
      | 2 => f.s2.toNat
      | _ => f.s3.toNat
    (yUses i).map at_
  | some (_, .movw f) => if f.scalar then [f.dst.toNat] else []
  | _ => []

/-- Two runs of registers share one. -/
def overlap (a b : Nat × Nat) : Bool := a.1 < b.1 + b.2 && b.1 < a.1 + a.2

/-- The vector registers that something in flight will write (R92, R287). -/
def State.pendingVec (s : State) (b : Bough) : List (Nat × Nat) :=
  ((s.loads.filter fun x => x.uid == b.uid).map fun x => (x.dv, (x.n + 3) / 4)) ++
  ((s.atoms.filter fun x => x.uid == b.uid && x.ret).map fun x => (x.dv, (x.n + 3) / 4)) ++
  ((s.core b.core).mq.filter fun x => x.uid == b.uid).flatMap fun x =>
    match x.instr with
    | .accst false _ _ => vops x.instr
    | i => b.windowRegs (matSpans i x.vals)

/-- The scalar registers that hold a pending token (R209); an operation may run on a core that its bough has
left (R28). -/
def State.pendingTok (s : State) (b : Bough) : List Nat :=
  ((s.cores.flatMap fun e => e.2.ops).filter fun o => o.uid == b.uid).filterMap fun o =>
    match o.instr.view with
    | some (_, .e f) | some (_, .attn f _) => some f.tk.toNat
    | _ => none

/-- The scoreboard holds the instruction (R26, R92, R209). -/
def State.scoreboard (s : State) (i : Instr) : Bool :=
  let vec := s.pendingVec s.b
  let toks := s.pendingTok s.b
  (vops i).any (fun x => vec.any fun y => overlap x y) || (sops i).any fun k => toks.contains k

/-- A CAS has not written its predicate yet: its readers wait, and so does all that follows (log 18). -/
def State.predPending (s : State) (uid : Nat) : Bool := s.atoms.any fun x => x.uid == uid && x.pd != none

/-- An acquiring load or atomic of a bough has not returned (R203, R269). -/
def State.acquiring (s : State) (uid : Nat) : Bool :=
  s.loads.any (fun x => x.uid == uid && x.acq != 0) || s.atoms.any fun x => x.uid == uid && x.acq != 0

/-- Loads, stores, atomics, level counters and engine operations, which an acquire holds (R203, R230), with the
cache invalidations, whose place in the bough's program is after the acquire too (R243). -/
def isMem (i : Instr) : Bool :=
  match i with
  | .ld _ _ | .st _ _ | .ldro _ _ | .prefL1 _ _ | .prefDie _ _ | .zline _ _ | .xprobe _ _ | .atom _ _
  | .red _ _ | .cas _ _ | .lcadd _ _ | .lcread _ _ | .lcmerge _ _ | .kvappend _ _ | .layout _ _
  | .cinvSys _ _ | .cinvRo _ _ => true
  | _ => i.isEngine

/-- Instructions that require the full mask (R130). -/
def needsFull (i : Instr) : Bool :=
  match i with
  | .cvtb _ _ | .bar _ _ | .barArrive _ _ | .barWait _ _ | .gbar _ _ | .detphase _ _ | .mma _ _ _
  | .mmas _ _ _ | .accld _ _ _ | .accst _ _ _ | .acczero _ _ | .acccvt _ _ _ | .accscale _ _
  | .smerge _ _ | .kvappend _ _ => true
  | _ => i.isEngine

/-- Rejoin points that an instruction is by itself (R131). -/
def isRejoin (i : Instr) : Bool :=
  match i with
  | .refill _ _ | .refillLast _ _ | .exit _ _ | .join _ _ => true
  | _ => needsFull i

/-- A slot word whose instruction is a cancellation point, by its opcode alone and, for CANCHK, by SUB: such a
stop is taken before the instruction is decoded (R312, R354). -/
def cancelOp (w : Nat) : Bool :=
  let op := w / 2 ^ 87 % 2 ^ 9
  [0x87, 0x8E, 0x8F, 0xD0, 0xD1, 0xD2, 0xD3, 0xD4, 0xD5, 0xD6, 0xD7, 0x134, 0x135, 0x136, 0x142, 0x143, 0x152,
    0x154, 0x155].contains op || (op == 0x193 && w / 2 ^ 36 % 2 ^ 8 != 1)

/-- Cancellation points (R312, R354). -/
def isCancelPoint (i : Instr) : Bool :=
  match i with
  | .canchk _ f => f.sub == 0
  | .refill _ _ | .refillLast _ _ | .kvappend _ _ | .bar _ _ | .barArrive _ _ | .barWait _ _
  | .exit _ _ => true
  | _ => i.isEngine

/-- An instruction that reads or writes LOCAL space at its issue or when it begins (R301, R314). -/
def isLocal (i : Instr) : Bool :=
  match i with
  | .ld _ f | .st _ f => f.sp == .localSp
  | .kvappend _ _ => true
  | i => isMatLocal i

/-- Class 5, barriers and engine operations are illegal inside a refill region (R151, R288, R312). -/
def badInRefill (i : Instr) : Bool :=
  match i with
  | .bar _ _ | .barArrive _ _ | .barWait _ _ | .gbar _ _ | .detphase _ _ | .rfenter _ _ => true
  | _ => i.isEngine || ((opcode i) / 64 == 5)

/-- The system-mode opcodes (R62). -/
def isSystem (i : Instr) : Bool :=
  match i with
  | .srget sys _ _ | .srset sys _ _ => sys
  | .tlbinv _ _ | .halt _ _ | .ctxsave _ _ | .ctxrest _ _ | .eret _ _ => true
  | _ => false

/-- The copse's size, by its kernel (R82). -/
def State.copseSize (s : State) (b : Bough) : Nat := ((s.launchOf b).map fun l => l.desc.copse).getD 0

/-- A count above the copse's size or above 32 is illegal (R272). -/
def State.badCount (s : State) (c : Nat) : Bool := c > 32 || c > s.copseSize s.b

/-- What makes an instruction illegal in this launch, decided with its fields (R63): a barrier's count (R272),
GBAR outside a COSCHED launch (R274), DETPHASE outside a COSCHED and deterministic one (R255). -/
def State.illegalHere (s : State) (i : Instr) : Bool :=
  match i with
  | .bar _ f | .barArrive _ f => s.badCount (f.imm.toNat / 16 % 64)
  | .gbar _ _ => !(s.launchOf s.b).any fun l => l.desc.cosched
  | .detphase _ _ => !(s.launchOf s.b).any fun l => l.desc.cosched && l.desc.det
  | _ => false

/-- Window-closing instructions (R93). -/
def closes (i : Instr) : Bool :=
  match i with
  | .call _ _ | .callIndirect _ _ | .ret _ _ | .rfenter _ _ | .refill _ _ | .refillLast _ _
  | .rfskip _ _ | .rfexit _ _ | .tspawn _ _ _ | .twait _ _ _ | .tyield _ _ | .enq _ _ _ | .deq _ _ _
  | .bar _ _ | .barArrive _ _ | .barWait _ _ | .gbar _ _ | .yield _ _ | .sleep _ _ | .eret _ _ => true
  | _ => false

/-- The instruction stands in two slots (R37). -/
def isPair (i : Instr) : Bool :=
  match i with
  | .mbr _ _ | .movw _ _ | .attn (some _) _ _ => true
  | _ => false

/-- The header of an instruction. -/
def hdrOf (i : Instr) : Hdr :=
  match i.view with
  | some (h, _) => h
  | none => { pg := 7, pn := false, fs := .none, tr := false }

/-- The flag that FS names on the current line; none where the line names no flag (R35, R38). -/
def Bough.fsFlag (b : Bough) (fs : Fs) : Option Nat :=
  match fs, b.line with
  | .a, some x => if lineFA x.bits < 12 then some (lineFA x.bits) else none
  | .b, some x => if lineFB x.bits < 12 then some (lineFB x.bits) else none
  | _, _ => none

/-- Instructions that REP may repeat, and which of DST or DV, SA or AV, SB and SC are vector-register
fields that the instruction's page uses (R121). -/
def repFields (i : Instr) : Option (List Bool) :=
  let used (k : Nat) : Bool := (((vops0 i ++ vops1 i)[k]?).map Prod.snd).getD 0 ≠ 0
  match i with
  | .rep _ _ => none
  | .ld _ f | .st _ f | .ldro _ f => some [true, f.am == .base, false, false]
  | .pmov _ f => some [f.sub == 0, f.sub != 0, false, false]
  | .vote _ f => some [false, false, f.sub.toNat % 8 ≥ 4, false]
  | _ =>
    if opcode i ≥ 0x80 then none
    else
      match i.view with
      | some (_, .a f) =>
        let pair : Bool := !f.knd.getLsbD 2
        let sb := if pair then 2 else 0
        some [pair && used 0, pair && used 1, !f.knd.getLsbD 1 && used sb,
              !f.knd.getLsbD 0 && used (if f.knd.getLsbD 1 then sb else sb + 1)]
      | some (_, .i f) => some [!f.kndd && used 0, !f.kndd && used 1, false, false]
      | _ => none

/-- The repeated instruction accepts the fields that REP advances (R121). -/
def repOk (r : Rep) (i : Instr) : Bool :=
  match repFields i with
  | none => false
  | some fs => (List.range 4).all fun k => !r.fields.getLsbD k || (fs[k]?).getD false

/-!  Issue -/

/-- What happens to an instruction that is about to issue. -/
inductive Gate where
  | go
  | skip
  | rejoin
  | cancel
  | hold (w : Wait)
  | trap (cause detail : Nat)
  deriving DecidableEq, Repr

/-- The instruction's registers against the allotment: the first register outside it (R56, R63). -/
def Bough.badReg (b : Bough) (i : Instr) : Option Nat :=
  ((vops i).find? fun x => x.1 + x.2 > b.nregs).map fun x => max x.1 b.nregs

/-- The decisions before an instruction has any effect, in the order of R63, R131, R288, R312 and R354:
the rejoin point, the cancellation point, illegal instruction, illegal register, a guard that holds
nowhere, illegal convergence, illegal in refill, and then the waits. An FMT that the instruction does not
accept is an illegal instruction (R288). -/
def gate (i : Instr) (s : State) : Gate :=
  if s.b.nf > 0 && isRejoin i then .rejoin
  else if (s.b.sib.any fun x => x.cancelled) && isCancelPoint i then .cancel
  else if !i.legal || !fmtAccepts s.b.fmt i then .trap cIllegal 0
  else if (hdrOf i).fs ≠ .none && (s.b.fsFlag (hdrOf i).fs).isNone then .trap cIllegal 0
  else if isSystem i && !s.b.sysmode || s.illegalHere i then .trap cIllegal 0
  else if (s.b.badReg i).isSome then .trap cRegister ((s.b.badReg i).getD 0)
  else if s.b.guard (hdrOf i) = 0 then .skip
  else if needsFull i && !s.b.fullMask then .trap cConverge 0
  else if s.b.refill.isSome && badInRefill i then .trap cRefill 0
  else if s.scoreboard i || s.predPending s.b.uid then .hold .scoreboard
  else if (isMem i && s.acquiring s.b.uid) || (isLocal i && s.matLocal s.b.uid) then .hold .fence
  else if !s.b.replaying && ((s.b.fsFlag (hdrOf i).fs).any fun n => s.b.flag n == 15) then .hold .flags
  else .go

/-- Lanes that issue an instruction of the body are in BODY from then on (R145). -/
def Bough.markBody (b : Bough) (r : Option Region) : Bough :=
  match r, b.refill with
  | some r, some f =>
    if r.body.toNat ≤ b.pc.toNat && b.pc.toNat < r.retire.toNat then
      let m := b.emr &&& f.prologue
      { b with refill := some { f with prologue := f.prologue &&& ~~~m, body := f.body ||| m } }
    else b
  | _, _ => b

/-- The PC moves on, or the repetition count does (R36, R122). -/
def Bough.advancePc (b : Bough) (pair : Bool) : Bough :=
  match b.rep with
  | some r =>
    if r.left > 1 then { b with rep := some { r with done := r.done + 1, left := r.left - 1 } }
    else { b with rep := none, pc := nextAddr b.pc pair }
  | none => { b with pc := nextAddr b.pc pair }

/-- The instruction issues: its path position, its flag and the next PC, and its bough counts the cycles in which
it is ready from 0 again (R26). A replay takes no position and
adds to no flag (R41, R91). An instruction that issues as a no-op adds to no flag. -/
def begin_ (i : Instr) (effective : Bool) (s : State) : State :=
  let region := s.regionOf s.b
  let (id, s) := s.fresh
  let flag := if effective then s.b.fsFlag (hdrOf i).fs else none
  s.modB fun b =>
    let b := (b.markBody region).advancePc (isPair i)
    let b := { b with wait := .none, ready := 0, trapAt := 0, stepdone := 0, walkRes := [] }
    if b.replaying then { b with replaying := false, itok := b.rtok, rtok := 0 }
    else
      let b := b.advancePath b.path
      match flag with
      | some n => { b with itok := 12 * id + n + 1, flags := Sparse.set b.flags n (b.flag n + 1) }
      | none => { b with itok := 0 }

/-- The result of an instruction's own effect: a state, a trap before any effect, a wait, or a state in
which the instruction has not issued and something else took its place. -/
inductive Res where
  | done (t : State)
  | trap (cause detail : Nat) (addr : W64)
  | hold (w : Wait) (t : State)
  | go (t : State)
  deriving Repr

/-- The instruction leaves issue: a flag that nothing in flight holds waits for its completion (R39). -/
def State.flagOut (t : State) : State :=
  let k := t.b.itok
  let uid := t.b.uid
  if k = 0 then t
  else
    let t := t.modB fun b => { b with itok := 0 }
    if t.tokHeld k then t
    else
      let (id, t) := t.fresh
      { t with infl := t.infl ++ [{ id, uid, tok := k }] }

/-- The instruction leaves issue: the window of the lanes `m` of its split closes where R93 says so, after what
the instruction has read and before what any later one reads. -/
def finish_ (i : Instr) (m : Mask) (t : State) : State :=
  (if closes i then t.modB fun b => b.closeLanes m else t).flagOut

/-- An effect that pushes the 1,025th entry, or an entry too far from ENTRY, is the trap instead, before any
effect (R125). -/
def guardPush (s : State) (r : Res) : Res :=
  let old (e : StackEnt) : Bool := s.b.stack.any fun x => x.addr == e.addr
  let check (t : State) : Res :=
    if t.b.stack.length > stackMax && t.b.stack.length > s.b.stack.length then .trap cConverge 0 0
    else
      match t.b.stack.find? fun e => !s.lineNear s.b e.addr && !old e with
      | some e => .trap cTarget 0 e.addr
      | none => r
  match r with
  | .done t => check t
  | .go t => check t
  | r => r

/-- A cancelled bough stops: every lane exits, and the member leaves its group (R354). One that stops at a REFILL
inside a region has not left the region by an exit of R149: it stays among the members of its instance, and its
ordinals stay unretired (R143, log 62). -/
def State.cancelStop (s : State) : State :=
  let s := s.leaveStep s.b (some s.time)
  (s.modB fun b => b.exitLanes b.live).endBough

/-- Issues an instruction: the gate, and then its own effect on the state in which it has issued.
`eff` sees the state after `begin_`; a trap or a wait goes back to the state before. -/
def issue (i : Instr) (s : State) (eff : State → Res) : Host.Outcome State Fault Refusal :=
  match gate i s with
  | .rejoin => .next (s.endSplit s.b.pc)
  | .cancel => .next s.cancelStop
  | .trap cause detail => .next (s.takeTrap cause detail 0)
  | .hold w => .next (s.hold w)
  | .skip => .next (finish_ i s.b.path (begin_ i false s))
  | .go =>
    match eff (begin_ i true s) with
    | .done t => .next (finish_ i s.b.path t)
    | .go t => .next t
    | .trap cause detail addr => .next (s.takeTrap cause detail addr)
    | .hold w t => .next (t.hold w)

end Sys2Proof.Machine
end

