-- ==== Sys2Proof/Machine/Lines.lean ====
section
/-! DEFINITION. Entry into a fetch line (spec/02_encoding.md R40, R43, R45) and the completion of an
instruction that holds its flag (R38, R39). -/

namespace Sys2Proof.Machine

/-- Every flag that a mask names is clear (R40). -/
def Bough.flagsClear (b : Bough) (m : Nat) : Bool :=
  (List.range 12).all fun n => !m.testBit n || b.flag n == 0

/-- The current line is the one that the PC stands in. -/
def Bough.inLine (b : Bough) : Bool := b.entered && b.line.any fun x => x.addr == lineAddr b.pc

/-- The running split enters the line of its PC: translation, parity, malformed line, illegal target and
the wait mask, in this order (R45). -/
def State.enterLine (s : State) : State :=
  let la := lineAddr s.b.pc
  match s.fetch s.b la with
  | (.fault c, t) =>
    let t := t.modB fun b => { b with entered := false }
    if isCheck c then t.takeCheck c la else t.faultAll c la
  | (.line x, t) =>
    if lineMalformed x then t.takeTrap cMalformed 0 0
    else if (t.b.checkTM || t.b.tmDue.contains t.b.pc) && !lineTM x (slotOf t.b.pc) then t.takeTrap cTarget 0 t.b.pc
    else if !t.b.flagsClear (lineWM x) then t.hold .flags
    else
      t.modB fun b =>
        { b with line := some { addr := la, bits := x }, entered := true, checkTM := false, wait := .none,
                 tmDue := b.tmDue.filter fun a => a != b.pc }

/-- LINE_ENTRY (R45). -/
def execLineEntry (s : State) : Host.Outcome State Fault Refusal :=
  if s.b.status = .running && s.b.emr ≠ 0 && !s.b.inLine then .next s.enterLine else .next s

/-- INSTRUCTION_COMPLETION (R38, R39): an instruction with a flag completes. -/
def execInstructionCompletion (k : Nat) (s : State) : Host.Outcome State Fault Refusal :=
  match s.infl.find? fun x => x.id == k with
  | none => .next s
  | some x => .next ({ s with infl := s.infl.filter fun y => y.id != k }.settleTok x.uid x.tok)

/-- The word in the slot of the PC (R34). -/
def Bough.wordAt (b : Bough) : Nat := (b.line.map fun x => lineSlot x.bits (slotOf b.pc)).getD 0

/-- The instruction in the slot of the PC, or in its pair (R36, R37); none where nothing decodes. -/
def Bough.instrAt (b : Bough) : Option Instr :=
  match b.line with
  | none => none
  | some x =>
    let k := slotOf b.pc
    if linePair x.bits k then
      (decode (leBytes 12 (lineSlot x.bits k) ++ leBytes 12 (lineSlot x.bits (k + 1)))).toOption
    else (decode (leBytes 12 (lineSlot x.bits k))).toOption

end Sys2Proof.Machine
end

