-- ==== Sys2Proof/Machine/Operands.lean ====
section
/-! DEFINITION. Operand forms: how a source is read and a result written (spec/04_integer.md R89, R95,
R103, R119), by lane, pair, half or scalar. -/

namespace Sys2Proof.Machine

/-! ## Reading a source -/

/-- The bits of a source: `n` registers of a lane, or the low 32·n bits of a scalar (R95). A scalar source of an
f32 pair so gives element 0 in its low half and element 1 in its high half, which R169 leaves open (log 63). -/
def Bough.src (b : Bough) (scalar : Bool) (r : BitVec 8) (n l : Nat) : Nat :=
  if scalar then (b.sreg r.toNat).toNat % 2 ^ (32 * n)
  else if n = 2 then (b.vreg64 r.toNat l).toNat
  else (b.vreg r.toNat l).toNat

/-- Source A, B or C of a format-A instruction (R49). -/
def Bough.srcA (b : Bough) (f : FmtA) (n l : Nat) : Nat := b.src (f.knd.getLsbD 2) f.sa n l

def Bough.srcB (b : Bough) (f : FmtA) (n l : Nat) : Nat := b.src (f.knd.getLsbD 1) f.sb n l

def Bough.srcC (b : Bough) (f : FmtA) (n l : Nat) : Nat := b.src (f.knd.getLsbD 0) f.sc n l

/-- Low `w` bits read as signed or unsigned. -/
def intOf (signed : Bool) (w x : Nat) : Int :=
  if signed then (BitVec.ofNat w x).toInt else ((x % 2 ^ w : Nat) : Int)

/-- ABS is applied and then NEG, both exactly (R95). -/
def absNeg (abs neg : Bool) (x : Int) : Int :=
  let y := if abs then ((x.natAbs : Nat) : Int) else x
  if neg then -y else y

/-- An integer modulo 2^w, as a number (R95). -/
def wrap (w : Nat) (x : Int) : Nat := (BitVec.ofInt w x).toNat

/-- IMM of format I as an operand: sign-extended for an i type, else zero-extended (R98, R103). -/
def immInt (t : Ty) (imm : W32) : Int := intOf t.signed 32 imm.toNat

/-! ## Writing a result -/

/-- A scalar destination of a 32-bit type is sign-extended for an i type and zero-extended otherwise;
a 64-bit type writes 64 bits (R89). -/
def extScalar (t : Ty) (x : Nat) : W64 :=
  match t with
  | .i32 => BitVec.signExtend 64 (BitVec.ofNat 32 x)
  | _ => BitVec.ofNat 64 x

/-- Writes DST of a format-A instruction: the scalar once, or `n` registers of each executing lane. Every
lane reads before any lane writes. -/
def State.writeA (t : State) (h : Hdr) (f : FmtA) (n : Nat) (g : Nat → Nat) : State :=
  if f.knd.getLsbD 2 then t.modB fun b => b.setSreg f.dst.toNat (extScalar f.ty (g 0))
  else t.modB fun b => b.setLanes h.tr f.dst.toNat n (t.b.guard h) g

/-- Writes DST of a format-I instruction. -/
def State.writeI (t : State) (h : Hdr) (f : FmtI) (n : Nat) (g : Nat → Nat) : State :=
  if f.kndd then t.modB fun b => b.setSreg f.dst.toNat (extScalar f.ty (g 0))
  else t.modB fun b => b.setLanes h.tr f.dst.toNat n (t.b.guard h) g

/-- Writes the predicate destination in each executing lane. -/
def State.writePd (t : State) (h : Hdr) (pd : Pd) (g : Nat → Bool) : State :=
  t.modB fun b => b.setPd pd (t.b.guard h) (Mask.ofPred g)

/-- Writes a scalar destination of format Y. -/
def State.writeSd (t : State) (f : FmtY) (v : W64) : State := t.modB fun b => b.setSreg f.sd.toNat v

/-- The value that a scalar source of format Y holds. -/
def State.ss (t : State) (r : BitVec 6) : W64 := t.b.sreg r.toNat

/-! ## Addresses (R119) -/

/-- The address of a format-M access in a lane. -/
def Bough.addr (b : Bough) (f : FmtM) (l : Nat) : W64 :=
  let base := b.sreg f.as.toNat + BitVec.signExtend 64 f.off
  match f.am with
  | .base => base + BitVec.signExtend 64 (b.vreg f.av.toNat l)
  | .uniform => base
  | .ln =>
    let k := f.av.toNat / 16
    (List.range 4).foldl (fun a j => a + b.coefAt k (j + 1) * BitVec.signExtend 64 (b.ind j l))
      (base + b.coefAt k 0)

end Sys2Proof.Machine
end

