-- ==== Sys2Proof/Machine/Control.lean ====
section
/-! DEFINITION. Class 2: branches, calls and the execution mask (spec/05_control.md R124-R140). -/

namespace Sys2Proof.Machine

/-! ## Transfers -/

/-- Control passes to an address (R36, R40); a checked one is checked again when its line is entered, if
the line could not be read before (R43, R45). -/
def State.jump (t : State) (a : W64) (check : Bool) : State :=
  t.modB fun b => { b with pc := a, entered := false, checkTM := check }

/-- The first of the addresses that fails R42 or R43. -/
def State.badTarget (s : State) (as_ : List W64) : Option W64 := as_.find? fun a => !s.targetOk s.b a

/-- What an instruction does that names some addresses, each of which R42 and R43 check before any effect (R133). -/
def State.naming (s t : State) (as_ : List W64) (go : State → Res) : Res :=
  match s.badTarget as_ with
  | some x => .trap cTarget 0 x
  | none => go (s.noteTargets t as_)

/-- Groups of lanes by next address, in order of first mention (R126). A pair of MBR that no lane takes makes no
group and fixes no place in the order of R137 (log 62). -/
def groupsOf (gs : List (W64 × Mask)) : List (W64 × Mask) :=
  gs.foldl (fun acc g =>
    if g.2 = 0 then acc
    else if acc.any fun x => x.1 == g.1 then
      acc.map fun x => if x.1 == g.1 then (x.1, x.2 ||| g.2) else x
    else acc ++ [g]) []

/-- Pushes entries, topmost last in the list; the trap that forbids it (R125). -/
def State.push (s t : State) (es : List StackEnt) : Except Res State :=
  if s.b.stack.length + es.length > stackMax then .error (.trap cConverge 0 0)
  else
    match es.find? fun e => !s.lineNear s.b e.addr with
    | some e => .error (.trap cTarget 0 e.addr)
    | none => .ok (t.modB fun b => { b with stack := es.reverse ++ b.stack })

/-- A group becomes the running split: by the transfer that some of its lanes take, which is an entry even
where it goes to the next slot (R40), or by falling through to `next`. -/
def State.take (t : State) (next : W64) (taken : Mask) (g : W64 × Mask) : State :=
  let t := t.modB fun b => { b with emr := g.2, idle := if g.2 = b.emr then b.idle else 0 }
  if g.2 &&& taken = 0 then t.modB fun b => { b with pc := next } else t.jump g.1 true

/-- The groups of a per-lane transfer take their ways (R126): one group goes on, several diverge with
reconvergence point `rc`. -/
def diverge (s t : State) (rc next : W64) (taken : Mask) (gs : List (W64 × Mask)) : Res :=
  match gs with
  | [] => .done t
  | [g] => .done (t.take next taken g)
  | gs =>
    let rcJoin : StackEnt := { s.b.entry s.b.emr .branch true rc with check := true }
    let join : List StackEnt :=
      match s.b.reach.head? with
      | some e => if e.join && e.kind == .branch && e.addr == rc then [] else [rcJoin]
      | none => [rcJoin]
    match gs.filter fun g => g.1 != rc with
    | [] => .done t
    | g :: rest =>
      match s.push t (join ++ rest.reverse.map fun x =>
          { s.b.entry x.2 .branch false x.1 with check := x.2 &&& taken != 0 }) with
      | .error r => r
      | .ok t => .done (t.take next taken g)

/-- A per-lane transfer that the lanes `taken` take, which names the addresses `as_` (R126, R133). A divergent one
is a rejoin point: the split stops before it, with nothing checked (R131). -/
def perLane (s t : State) (as_ : List W64) (rc next : W64) (taken : Mask) (gs : List (W64 × Mask)) : Res :=
  let gs := groupsOf gs
  if s.b.nf > 0 && gs.length > 1 then .go (s.endSplit s.b.pc)
  else s.naming t as_ fun t => diverge s t rc next taken gs

/-- A uniform transfer of every active lane, where `taken` (R132). -/
def uniform (s t : State) (taken : Bool) (a : W64) : Res :=
  s.naming t [a] fun t => .done (if taken then t.jump a true else t)

/-- The reconvergence point of a format-J instruction. -/
def rcOf (pc : W64) (f : FmtJ) : W64 := targetOf pc f.rcv f.rsl

/-- BRA (R134). -/
def execBra (h : Hdr) (f : FmtJ) (s : State) : Host.Outcome State Fault Refusal :=
  issue (.bra h f) s fun t =>
    let a := targetOf s.b.pc f.tgt f.tsl
    let g := s.b.guard h
    match f.bm with
    | .any => uniform s t (g ≠ 0) a
    | .all => uniform s t (g = s.b.emr) a
    | .lane =>
      let rc := rcOf s.b.pc f
      perLane s t [a, rc] rc (nextAddr s.b.pc false) g [(a, g), (nextAddr s.b.pc false, s.b.emr &&& ~~~g)]

/-- BRC (R134). -/
def execBrc (h : Hdr) (f : FmtJ) (s : State) : Host.Outcome State Fault Refusal :=
  issue (.brc h f) s fun t => uniform s t (t.ss f.as ≠ 0) (targetOf s.b.pc f.tgt f.tsl)

/-- JMPI (R134). -/
def execJmpi (h : Hdr) (f : FmtJ) (s : State) : Host.Outcome State Fault Refusal :=
  issue (.jmpi h f) s fun t => uniform s t true (t.ss f.as)

/-- BRX (R134): an entry of a table of lines. -/
def execBrx (h : Hdr) (f : FmtJ) (s : State) : Host.Outcome State Fault Refusal :=
  issue (.brx h f) s fun t =>
    uniform s t true (targetOf s.b.pc f.tgt f.tsl + 64 * t.ss f.as)

/-- LOOP (R134). -/
def execLoop (h : Hdr) (f : FmtJ) (s : State) : Host.Outcome State Fault Refusal :=
  issue (.loop h f) s fun t =>
    let n := t.ss f.as
    let n := if n = 0 then 0 else n - 1
    uniform s (t.modB fun b => b.setSreg f.as.toNat n) (n ≠ 0) (targetOf s.b.pc f.tgt f.tsl)

/-- A call of the executing lanes (R135). -/
def callTo (h : Hdr) (as_ : BitVec 6) (a : W64) (s t : State) : Res :=
  let ra := nextAddr s.b.pc false
  let g := s.b.guard h
  perLane s (t.modB fun b => b.setSreg as_.toNat ra) [a, ra] ra ra g [(a, g), (ra, s.b.emr &&& ~~~g)]

/-- CALL (R135). -/
def execCall (h : Hdr) (f : FmtJ) (s : State) : Host.Outcome State Fault Refusal :=
  issue (.call h f) s fun t => callTo h f.as (targetOf s.b.pc f.tgt f.tsl) s t

/-- CALL indirect (R135). -/
def execCallIndirect (h : Hdr) (f : FmtJ) (s : State) : Host.Outcome State Fault Refusal :=
  issue (.callIndirect h f) s fun t => callTo h f.as (t.ss f.as) s t

/-- RET (R135): its address is checked by R42 alone (R133), unless CALL's own check of it is still to come. -/
def execRet (h : Hdr) (f : FmtJ) (s : State) : Host.Outcome State Fault Refusal :=
  issue (.ret h f) s fun t =>
    let a := t.ss f.as
    if slotAddr a then .done (t.jump a false) else .trap cTarget 0 a

/-- JOIN (R136). -/
def execJoin (h : Hdr) (f : FmtJ) (s : State) : Host.Outcome State Fault Refusal :=
  issue (.join h f) s fun t =>
    match s.b.topJoin with
    | some e =>
      if e.kind = .branch then
        guardPush s (.done (t.modB fun b => { b with emr := b.emr &&& ~~~(s.b.guard h) }).checkEmpty)
      else .trap cConverge 0 0
    | none => .trap cConverge 0 0

/-- The pairs of MBR, as many as it has. -/
def mbrPairs (f : FmtMbr) : List MbrPair := [f.p0, f.p1, f.p2, f.p3].take (f.cnt.toNat + 1)

/-- The predicate of a pair holds in these lanes. -/
def pairHolds (p : MbrPair) (b : Bough) : Mask :=
  if p.neg then ~~~(b.pred p.pk.toNat) else b.pred p.pk.toNat

/-- The groups of MBR: each lane goes to the lowest pair that holds, and else falls through (R137). -/
def mbrGroups (b : Bough) (g : Mask) (next : W64) : List MbrPair → List (W64 × Mask)
  | [] => [(next, g)]
  | p :: ps => (targetOf b.pc p.off p.slot, g &&& pairHolds p b) :: mbrGroups b (g &&& ~~~(pairHolds p b)) next ps

/-- MBR (R137). -/
def execMbr (h : Hdr) (f : FmtMbr) (s : State) : Host.Outcome State Fault Refusal :=
  issue (.mbr h f) s fun t =>
    let rc := targetOf s.b.pc f.rcOff f.rcSlot
    let next := nextAddr s.b.pc true
    let g := s.b.guard h
    let named := ((mbrPairs f).map fun p => targetOf s.b.pc p.off p.slot) ++ [rc]
    let gs := mbrGroups s.b g next (mbrPairs f)
    let taken := (gs.take (mbrPairs f).length).foldl (fun m x => m ||| x.2) 0#32
    perLane s t named rc next taken (gs ++ [(next, s.b.emr &&& ~~~g)])

/-! ## The other control instructions (R139, R140) -/

/-- EXIT (R139, R335): inside a region it is accepted only in lanes at task depth above 0 (R151, R335). -/
def execExit (h : Hdr) (f : FmtY) (s : State) : Host.Outcome State Fault Refusal :=
  issue (.exit h f) s fun t =>
    let g := s.b.guard h
    if s.b.refill.isSome && (g &&& ~~~(s.b.deepLanes g)) ≠ 0 then .trap cRefill 0 0
    else guardPush s (.done (g.list.foldl (fun t l => t.exitLane l) t).checkEmpty)

/-- NOP (R139). -/
def execNop (h : Hdr) (f : FmtY) (s : State) : Host.Outcome State Fault Refusal :=
  issue (.nop h f) s fun t => .done t

/-- YIELD (R139): the bough is not ready in the max(n, 1) cycles that follow. -/
def execYield (h : Hdr) (f : FmtY) (s : State) : Host.Outcome State Fault Refusal :=
  issue (.yield h f) s fun t => .done (t.hold (.yield (s.time + max f.imm.toNat 1 + 1)))

/-- YIELD_EXPIRY (R26, R139). -/
def execYieldExpiry (bough : Nat) (s : State) : Host.Outcome State Fault Refusal :=
  .next (s.modBough bough fun b =>
    match b.wait with
    | .yield t => if s.time ≥ t then { b with wait := .none } else b
    | _ => b)

/-- EMRGET (R139). -/
def execEmrget (h : Hdr) (f : FmtY) (s : State) : Host.Outcome State Fault Refusal :=
  issue (.emrget h f) s fun t => .done (t.writeSd f (BitVec.zeroExtend 64 s.b.emr))

/-- EMRSET (R129, R139): lanes of the split that it clears still belong to the split (R91). -/
def execEmrset (h : Hdr) (f : FmtY) (s : State) : Host.Outcome State Fault Refusal :=
  issue (.emrset h f) s fun t =>
    guardPush s (.done (t.modB fun b =>
      let m := BitVec.truncate 32 (t.ss f.s1) &&& b.settable
      { b with emr := m, idle := b.path &&& ~~~m }).checkEmpty)

/-- WAITF (R139): it holds the bough until every flag of its mask is clear. -/
def execWaitf (h : Hdr) (f : FmtY) (s : State) : Host.Outcome State Fault Refusal :=
  issue (.waitf h f) s fun t =>
    if s.b.flagsClear f.imm.toNat then .done t else .hold .flags s

/-- SETPRI (R139). -/
def execSetpri (h : Hdr) (f : FmtY) (s : State) : Host.Outcome State Fault Refusal :=
  issue (.setpri h f) s fun t => .done (t.modB fun b => { b with setpri := BitVec.ofNat 2 f.imm.toNat })

/-- The code of an entry's kind (R125). -/
def Kind.code : Kind → Nat
  | .branch => 0
  | .fault => 1
  | .refill => 2

/-- The control word of an entry (R125). -/
def State.controlWord (s : State) (b : Bough) (e : StackEnt) : W64 :=
  BitVec.ofNat 64 (joinBits [(25, (BitVec.ofInt 25 (s.lineOffset b e.addr)).toNat), (3, slotOf e.addr),
    (1, bit e.svc), (1, bit e.join), (2, e.kind.code), (32, e.mask.toNat)])

/-- Lanes in fault splits: held by fault pending entries (R131). -/
def Bough.faulted (b : Bough) : Mask :=
  b.stack.foldl (fun m e => if e.kind == .fault && !e.join then m ||| e.mask else m) 0#32

/-- What SPLITQ writes (R140). -/
def splitqValue (s : State) (f : FmtY) : W64 :=
  let ent := s.b.stack[f.imm.toNat]?
  match f.sub.toNat with
  | 0 => BitVec.ofNat 64 s.b.stack.length
  | 1 => (ent.map fun e => s.controlWord s.b e).getD 0
  | 2 => (ent.map fun e => BitVec.zeroExtend 64 e.fmt).getD 0
  | 3 => BitVec.zeroExtend 64 s.b.settable
  | _ => s.b.parked ++ s.b.faulted

/-- SPLITQ (R140). -/
def execSplitq (h : Hdr) (f : FmtY) (s : State) : Host.Outcome State Fault Refusal :=
  issue (.splitq h f) s fun t => .done (t.writeSd f (splitqValue s f))

end Sys2Proof.Machine
end

