-- ==== Sys2Proof/Machine/Refilling.lean ====
section
/-! DEFINITION. Class 2: refill regions (spec/05_control.md R142-R152). -/

namespace Sys2Proof.Machine

/-- An executing lane is inside a task at depth above 0, where refill instructions are illegal (R335). -/
def State.inTask (s : State) (m : Mask) : Bool := s.b.deepLanes m ≠ 0

/-- The source of an instance is exhausted or closed, and every bough that joined has left (R143). A source
fixed by a level is exhausted once the next ordinal's value has passed BOUND, whether or not a fetch has
found it so; the entry queue is, once a fetch has found it empty. -/
def RInst.isOver (r : Region) (x : RInst) : Bool :=
  (x.closed || (!r.task && passedBound (x.value x.next) x.bound x.step)) && x.members.isEmpty

/-- The instance that a bough's next RFENTER of a region joins, and whether the one before it is open. -/
def State.nextInst (s : State) (b : Bough) (r : Region) (g : Nat) : Nat × Bool :=
  let j := (Sparse.get b.rjoined g).toNat
  (j, decide (j > 0) && (s.instGet b r g (j - 1)).any fun x => !x.isOver r)

/-- The instance that a bough waits for at its RFENTER of a region is still open (R143). -/
def State.instOpen (s : State) (b : Bough) (g : Nat) : Bool :=
  (((s.launchOf b).map fun l => l.desc.regions).bind fun rs => rs[g]?).any fun r => (s.nextInst b r g).2

/-- The bough joins instance `j` of a region, creating it from its own level where it is the first. -/
def State.joinInst (s : State) (r : Region) (g j : Nat) : State :=
  let x : RInst := (s.instGet s.b r g j).getD
    { region := g, inst := j, next := 0, cursor := 0, skipped := [], closed := false,
      start := s.b.lnStart r.level, bound := s.b.lnBound r.level, step := s.b.lnStep r.level, members := [] }
  (s.instPut s.b r { x with members := x.members ++ [s.b.uid] }).modB fun b =>
    { b with rjoined := Sparse.set b.rjoined g (BitVec.ofNat 32 (j + 1)) }

/-- The bough's state inside a region that it has just entered (R142), after `nf` fault entries (R131). -/
def Refill.start (g j nf : Nat) : Refill :=
  { region := g, inst := j, body := 0, prologue := 0, retire := 0, rp := 0, fp := 0, fpReady := 0,
    drained := 0, pset := 0, drainAfter := 0, ord := [], hasOrd := 0, parks := [], nf }

/-- After the frame is pushed: every lane fetches, and the prologue set runs (R145). RFENTER is no rejoin point:
fault entries that the split has pushed stay beneath the frame, and are the split's again when the region exits
(R131, log 62). -/
def State.enterRegion (t : State) (r : Region) (g j : Nat) : State :=
  let m := t.b.emr
  let t := t.modB fun b => { b with refill := some (Refill.start g j b.nf), nf := 0 }
  let t := t.fetchLanes r g j m
  let p := (t.b.refill.map fun f => f.pset).getD 0
  if p = 0 then t.settle
  else
    (t.modB fun b =>
      { b with emr := p, idle := 0,
               refill := b.refill.map fun f => { f with pset := 0, prologue := f.prologue ||| p } }).jump
      r.prologue true

/-- RFENTER (R145). -/
def execRfenter (h : Hdr) (f : FmtY) (s : State) : Host.Outcome State Fault Refusal :=
  issue (.rfenter h f) s fun t =>
    if s.inTask s.b.emr then .trap cRefill 0 0
    else
      match ((s.launchOf s.b).map fun l => l.desc.regions).bind fun rs => rs[f.imm.toNat]? with
      | none => .trap cIllegal 0 0
      | some r =>
        s.naming t [r.prologue, r.body, r.retire, r.stop] fun t =>
          let g := f.imm.toNat
          let (j, waits) := s.nextInst s.b r g
          match s.push t [{ s.b.entry s.b.emr .refill true r.stop with check := true }] with
          | .error e => e
          | .ok t =>
            if waits then .hold (.inst g) s else guardPush s (.done ((t.joinInst r g j).enterRegion r g j))

/-- INSTANCE_CLOSE (R143): the boughs whose RFENTER names the next instance wait no longer. `inst` counts
the instances of the copse (or, at launch scope, of the launch). -/
def execInstanceClose (launch copse inst : Nat) (s : State) : Host.Outcome State Fault Refusal :=
  let stops (b : Bough) : Bool :=
    b.launch == launch && b.cid == copse &&
      match b.wait with
      | .inst g => (Sparse.get b.rjoined g).toNat == inst + 1 && !s.instOpen b g
      | _ => false
  .next (s.modBoughs stops fun b => { b with wait := .none })

/-- Lanes abandon their iterations (R148): each ordinal is skipped, and then the lanes fetch. -/
def State.skipLanes (s : State) (r : Region) (g j : Nat) (m : Mask) : State :=
  let skip (s : State) (l : Nat) : State :=
    let s := if r.task then s.taskEnds l else s
    match s.instGet s.b r g j, s.b.refill with
    | some x, some f =>
      let o := (Sparse.get f.ord l).toNat
      if !f.hasOrd.getLsbD l then s
      else if !r.ordered then s.instPut s.b r { x with cursor := x.cursor + 1 }
      else if o = x.cursor then s.instPut s.b r x.advance
      else s.instPut s.b r { x with skipped := x.skipped ++ [o] }
    | _, _ => s
  (m.list.foldl skip s).fetchLanes r g j m

/-- A lane of the mask skips an ordinal of an ordered region: the cursor passes it now or in a later advance,
which is then a release of its iteration too (R150). -/
def skipReleases (r : Region) (f : Refill) (m : Mask) : Bool := r.ordered && m &&& f.hasOrd != 0

/-- RFSKIP and RFEXIT (R148): `close` closes the instance's source first. -/
def rfskip (close : Bool) (h : Hdr) (s t : State) : Res :=
  let m := s.b.guard h
  match s.regionOf s.b, t.b.refill with
  | some r, some f =>
    if (m &&& ~~~(f.prologue ||| f.body)) ≠ 0 || s.inTask m then .trap cRefill 0 0
    else if skipReleases r f m && !s.fenceReady s.b (!r.perLaunch) then .hold .fence s
    else
      let t := if close then
          match t.instGet t.b r f.region f.inst with
          | some x => t.instPut t.b r { x with closed := true }
          | none => t
        else t
      guardPush s (.done (t.skipLanes r f.region f.inst m).checkEmpty)
  | _, _ => .trap cRefill 0 0

/-- RFSKIP (R148). -/
def execRfskip (h : Hdr) (f : FmtY) (s : State) : Host.Outcome State Fault Refusal :=
  issue (.rfskip h f) s fun t => rfskip false h s t

/-- RFEXIT (R148). -/
def execRfexit (h : Hdr) (f : FmtY) (s : State) : Host.Outcome State Fault Refusal :=
  issue (.rfexit h f) s fun t => rfskip true h s t

/-- A branch entry lies above the region frame (R146). -/
def Bough.branchAbove (b : Bough) (stop : W64) : Bool :=
  (b.stack.takeWhile fun e => !(e.kind == .refill && e.addr == stop)).any fun e => e.kind == .branch

/-- The effect of REFILL on the lanes that go on and those that are done (R146). The lanes that are done stay in
the body join until they park or drain (R128). -/
def refillGo (last : Bool) (r : Region) (c d : Mask) (s t : State) : Res :=
  let join (m : Mask) : StackEnt := { s.b.entry m .refill true r.body with check := true }
  if d = 0 then
    if !t.dispatchWork then .done (t.jump r.body true)
    else
      match s.push t [join c] with
      | .error e => e
      | .ok t => .done ((t.modB fun b => { b with emr := 0 }).dispatch)
  else
    match s.push t [join (c ||| d)] with
    | .error e => e
    | .ok t =>
      let t := t.modB fun b =>
        { b with refill := b.refill.map fun f =>
            { f with body := f.body &&& ~~~d, retire := f.retire ||| d,
                     drainAfter := if last then f.drainAfter ||| d else f.drainAfter } }
      if r.ordered then
        let t := t.modB fun b =>
          let b := b.leaveSplits d r.stop
          { b with emr := 0,
                   refill := b.refill.map fun f => { f with retire := f.retire &&& ~~~d, rp := f.rp ||| d } }
        .done t.dispatch
      else
        .done ((t.modB fun b => { b with emr := d, idle := 0 }).jump r.retire true)

/-- REFILL and REFILL.last (R146). -/
def refill (last : Bool) (f : FmtY) (s t : State) : Res :=
  match s.regionOf s.b, t.b.refill with
  | some r, some x =>
    if (s.b.emr &&& ~~~x.body) ≠ 0 || s.inTask s.b.emr then .trap cRefill 0 0
    else if s.b.branchAbove r.stop then .trap cConverge 0 0
    else
      let p := s.b.pred (f.sub.toNat % 8)
      let c := s.b.emr &&& (if f.sub.getLsbD 3 then ~~~p else p)
      guardPush s (refillGo last r c (s.b.emr &&& ~~~c) s t)
  | _, _ => .trap cRefill 0 0

/-- REFILL (R146). -/
def execRefill (h : Hdr) (f : FmtY) (s : State) : Host.Outcome State Fault Refusal :=
  issue (.refill h f) s fun t => refill false f s t

/-- REFILL.last (R146). -/
def execRefillLast (h : Hdr) (f : FmtY) (s : State) : Host.Outcome State Fault Refusal :=
  issue (.refillLast h f) s fun t => refill true f s t

/-- The retiring lanes arrive at end (R147): the cursor moves, each lane fetches or drains, and the launch
counts the iterations (R377). -/
def State.retireLanes (s : State) (r : Region) (f : Refill) (m : Mask) : State :=
  let s := s.modLaunch s.b.part s.b.launch fun l => { l with iters := l.iters + m.list.length }
  let s := if r.task then m.list.foldl (fun s l => s.taskEnds l) s else s
  let s := match s.instGet s.b r f.region f.inst with
    | some x =>
      s.instPut s.b r (if r.ordered then x.advance else { x with cursor := x.cursor + m.list.length })
    | none => s
  let s := (m &&& f.drainAfter).list.foldl (fun s l => s.modB fun b => b.drain (1#32 <<< l) r.stop) s
  s.fetchLanes r f.region f.inst (m &&& ~~~f.drainAfter)

/-- RETIRE_AT_END (R147, R148): the lanes of the running split stand at the region's end. A lane in PROLOGUE or
BODY acts as RFSKIP, which is illegal in refill inside an inner task (R335). An arrival that would push one entry
too many is the trap (R125). -/
def State.arriveAtEnd (s : State) : State :=
  match s.regionOf s.b, s.b.refill with
  | some r, some f =>
    if s.b.nf > 0 then s.endSplit s.b.pc
    else
      let retiring := s.b.emr &&& f.retire
      let skipping := s.b.emr &&& (f.prologue ||| f.body)
      if s.inTask skipping then s.takeTrap cRefill 0 0
      else if ((r.ordered && retiring ≠ 0) || skipReleases r f skipping) &&
          !s.fenceReady s.b (!r.perLaunch) then s.hold .fence
      else
        let t := if retiring = 0 then s else s.retireLanes r f retiring
        let t := if skipping = 0 then t else t.skipLanes r f.region f.inst skipping
        match guardPush s (.done (t.modB fun b => { b with emr := 0 }).settle) with
        | .done t => t
        | .trap cause detail addr => s.takeTrap cause detail addr
        | _ => s
  | _, _ => s

/-- RETIRE_AT_END (R147). -/
def execRetireAtEnd (s : State) : Host.Outcome State Fault Refusal :=
  if s.b.status = .running && s.b.emr ≠ 0 && (s.regionOf s.b).any (fun r => r.stop == s.b.pc) then
    .next s.arriveAtEnd
  else .next s

/-- REFILL_CURSOR_ADVANCE (R147): a bough that waits on the refill cursor reaches a refill point again. -/
def execRefillCursorAdvance (bough : Nat) (s : State) : Host.Outcome State Fault Refusal :=
  let s := s.focus bough
  if s.b.uid = bough && s.b.status = .running && s.b.emr = 0 && s.b.wait = .cursor then .next s.settle
  else .next s

/-! ## RFINFO (R152) -/

/-- The vector items of RFINFO, of one lane. -/
def rfinfoLane (s : State) (r : Region) (f : Refill) (item l : Nat) : Nat :=
  let o := (Sparse.get f.ord l).toNat
  match s.instGet s.b r f.region f.inst with
  | none => 0
  | some x =>
    match item with
    | 0 => o % 2 ^ 32
    | 1 => if r.task then 0 else (x.value o).toNat
    | _ => min (o - x.cursor) (2 ^ 32 - 1)

/-- RFINFO (R152): outside a region every item reads 0. -/
def execRfinfo (h : Hdr) (f : FmtY) (s : State) : Host.Outcome State Fault Refusal :=
  issue (.rfinfo h f) s fun t =>
    let item := f.sub.toNat
    let x := (s.regionOf s.b).bind fun r => t.b.refill.map fun g => (r, g)
    if item ≤ 2 then
      .done (t.modB fun b => b.setLanes h.tr f.vd.toNat 1 (s.b.guard h) fun l =>
        (x.map fun y => rfinfoLane s y.1 y.2 item l).getD 0)
    else
      .done (t.writeSd f ((x.map fun y =>
        if item = 3 then
          BitVec.ofNat 64 (((s.instGet s.b y.1 y.2.region y.2.inst).map fun i => i.cursor).getD 0)
        else
          BitVec.ofNat 64 (joinBits [(4, y.2.region), (1, bit y.1.ordered), (1, bit y.1.perLaunch),
            (1, bit y.1.task), (1, 1), (56, 0)])).getD 0))

end Sys2Proof.Machine
end

