-- ==== Sys2Proof/Machine/Context.lean ====
section
/-! DEFINITION. The copse context (spec/13_system.md R370-R373): the images that a save writes, and the
bough block that CTXREST reads. -/

namespace Sys2Proof.Machine

/-! ## Images -/

/-- The words of an image: offset, bytes, value. -/
abbrev Image := List (Nat × Nat × Nat)

/-- Writes an image over `n` bytes; what it does not name is zero. -/
def State.putImage (s : State) (pa n : Nat) (img : Image) : State :=
  { s with
    mem := img.foldl (fun m w => if w.2.2 = 0 then m else Sparse.setLE m (pa + w.1) w.2.1 w.2.2)
      (Sparse.drop s.mem pa n),
    zflag := s.zflag.filter fun z => z < pa / 128 || (pa + n - 1) / 128 < z }

/-- Writes `n` 16-byte words that the manual does not fix (log 4). -/
def State.putFree (s : State) (pa : Nat) : Nat → State
  | 0 => s
  | n + 1 => State.putFree ((s.wr pa 16 (Config.freeWord s.free).toNat).freeValue) (pa + 16) n

/-! ## What a bough waits on -/

/-- WAITK (R373). -/
def Wait.code : Wait → Nat
  | .barrier _ | .gbar => 1
  | .future => 2
  | .queue _ | .tasks _ => 3
  | .cursor | .inst _ => 4
  | .fault | .reply _ => 5
  | .opclaim => 6
  | .launch => 7
  | .sleep _ => 8
  | _ => 0

/-- A wait counts toward LWT (R366). -/
def Wait.counted (w : Wait) : Bool := w.code != 0 && w.code != 5

/-- WAITAT (R373): the object of the wait. -/
def State.waitObject (s : State) (b : Bough) : Nat :=
  match b.wait with
  | .barrier id => id
  | .queue q => q % 16
  | .future => ((s.watches.find? fun w => w.uid == b.uid).map fun w => w.fut).getD 0
  | .sleep t => t
  | _ => 0

/-! ## The bough block (R372, R373) -/

/-- The phases of a lane in a region, coded in the order of R142 (log 22). -/
def Refill.phase (f : Refill) (l : Nat) : Nat :=
  if f.prologue.getLsbD l then 0
  else if f.body.getLsbD l then 1
  else if f.retire.getLsbD l then 2
  else if f.rp.getLsbD l then 3
  else if f.fp.getLsbD l then 4
  else if f.pset.getLsbD l then 5
  else if f.drained.getLsbD l then 6
  else 7

/-- The counts of the completion flags. -/
def Bough.flagBits (b : Bough) : Nat := joinBits ((List.range 12).map fun n => (4, (b.flag n).toNat))

/-- The control part (R373). -/
def State.controlPart (s : State) (b : Bough) : Nat :=
  let r : Rep := b.rep.getD { fields := 0, stride := 0, done := 0, left := 0 }
  joinBits [(64, b.pc.toNat), (32, b.emr.toNat), (32, b.fmt.toNat), (64, b.wh), (48, b.flagBits), (16, 0),
    (2, b.setpri.toNat), (1, bit b.sysmode), (4, b.nestmax), (4, b.wait.code), (11, b.stack.length),
    (1, bit b.refill.isSome), (41, 0), (64, b.lcb.toNat), (64, b.lcseed.toNat), (64, b.bankcnt.toNat),
    (16, r.left), (16, r.done), (8, r.stride.toNat), (4, r.fields.toNat), (1, bit b.rep.isSome), (19, 0),
    (64, b.epc.toNat), (32, b.emask.toNat), (32, 0), (64, b.eaddr.toNat), (64, b.esavea.toNat),
    (64, b.esaveb.toNat), (64, s.waitObject b), (64, b.regbase), (64, b.utag.toNat), (32, 0x00010001),
    (32, b.stepdone.toNat), (1, bit b.arrived), (895, 0)]

/-- Scalar registers, predicates and the loop nest. -/
def Bough.regImage (b : Bough) : Image :=
  (b.sregs.map fun e => (0x100 + 8 * e.1, 8, e.2.toNat)) ++
  ((List.range 7).map fun k => (0x300 + 4 * k, 4, (b.pred k).toNat)) ++
  ((List.range 4).flatMap fun k =>
    [(0x320 + 16 * k, 4, (b.lnStart k).toNat), (0x324 + 16 * k, 4, (b.lnBound k).toNat),
     (0x328 + 16 * k, 4, (b.lnStep k).toNat), (0x32C + 16 * k, 4, (b.lnMode k).toNat)]) ++
  ((List.range 4).flatMap fun k => lanes.map fun l => (0x380 + 128 * k + 4 * l, 4, (b.ind k l).toNat)) ++
  ((List.range 16).flatMap fun c => (List.range 5).map fun j => (0x580 + 40 * c + 8 * j, 8, (b.coefAt c j).toNat))

/-- The forwarding window: the entries of each lane, the most recent first. A lane can have more than eight live
transient results, for a pair or a quad writes several; R372 has room for eight, and the eight most recent are
written (log 22). -/
def Bough.windowImage (b : Bough) : Image :=
  lanes.flatMap fun l =>
    (((b.fw.filter fun e => e.lane == l).take 8).zipIdx).map fun x =>
      (0x800 + 64 * l + 8 * x.2, 8, joinBits [(32, x.1.val.toNat), (8, x.1.reg), (4, x.1.dist), (1, 1)])

/-- The refill lanes. -/
def Refill.image (f : Refill) : Image :=
  lanes.flatMap fun l =>
    let p := f.parks.find? fun p => p.lane == l
    [(0x1000 + 32 * l, 8, (Sparse.get f.ord l).toNat), (0x1008 + 32 * l, 1, f.phase l),
     (0x1010 + 32 * l, 8, (p.map fun p => p.addr.toNat).getD 0),
     (0x1018 + 32 * l, 4, (p.map fun p => p.fmt.toNat).getD 0)]

/-- The reconvergence stack, entry 0 at the bottom. -/
def State.stackImage (s : State) (b : Bough) : Image :=
  (b.stack.reverse.zipIdx).flatMap fun x =>
    [(0x1400 + 16 * x.2, 8, (s.controlWord b x.1).toNat), (0x1408 + 16 * x.2, 4, x.1.fmt.toNat)]

/-- The task stacks, frame 0 outermost. -/
def Bough.frameImage (b : Bough) : Image :=
  lanes.flatMap fun l =>
    ((b.framesOf l).reverse.zipIdx).flatMap fun x =>
      let o := 0x5400 + 768 * l + 96 * x.2
      ((x.1.regs.zipIdx).map fun r => (o + 4 * r.2, 4, r.1.toNat)) ++
      [(o + 64, 1, x.1.preds.toNat), (o + 65, 8, x.1.ret.toNat), (o + 73, 4, x.1.fmt.toNat),
       (o + 77, 8, x.1.task.toNat)]

/-- The vector registers. -/
def Bough.vectorImage (b : Bough) : Image :=
  (b.vregs.filter fun e => e.1 < 32 * b.nregs).map fun e => (0x10000 + 4 * e.1, 4, e.2.toNat)

/-- The whole block of a bough. -/
def State.blockImage (s : State) (b : Bough) : Image :=
  (0, 256, s.controlPart b) :: b.regImage ++ b.windowImage ++
    ((b.refill.map fun f => f.image).getD []) ++ s.stackImage b ++ b.frameImage ++ b.vectorImage

/-! ## Reading a block (R365) -/

/-- Bits of a number. -/
def bitsAt (x lo n : Nat) : Nat := x / 2 ^ lo % 2 ^ n

/-- An entry from its control word and FMT copy; the kind code 11 is never written. What the block does
not hold of a fault entry is kept from the entry of the bough that has the same word (log 23). -/
def State.readEntry (s : State) (b : Bough) (w : W64) (fmt : W32) : StackEnt :=
  let x := w.toNat
  let line := BitVec.signExtend 64 (BitVec.ofNat 25 x)
  let e : StackEnt :=
    { mask := BitVec.ofNat 32 (bitsAt x 32 32),
      kind := match bitsAt x 30 2 with
        | 0 => .branch
        | 1 => .fault
        | _ => .refill,
      join := bitsAt x 29 1 == 1, svc := bitsAt x 28 1 == 1,
      check := bitsAt x 29 3 == 1, addr := s.entryLine b + 64 * line + BitVec.ofNat 64 (12 * bitsAt x 25 3), fmt,
      seq := 0, tok := 0, rep := none, replay := false }
  match b.stack.find? fun y => y.kind == e.kind && y.join == e.join && y.addr == e.addr && y.mask == e.mask with
  | some y => { e with check := y.check, seq := y.seq, tok := y.tok, rep := y.rep, replay := y.replay }
  | none => e

/-- The frames of a lane that a block holds: those with a return address. -/
def readFrames (rd : Nat → Nat → Nat) (b : Bough) (live l : Nat) : Nat → List Frame
  | 0 => []
  | n + 1 =>
    let o := 0x5400 + 768 * l + 96 * n
    let ret := BitVec.ofNat 64 (rd (o + 65) 8)
    let rest := readFrames rd b live l n
    if ret = 0 then rest
    else
      { lane := l, regs := (List.range live).map fun i => BitVec.ofNat 32 (rd (o + 4 * i) 4),
        preds := BitVec.ofNat 7 (rd (o + 64) 1), ret, fmt := BitVec.ofNat 32 (rd (o + 73) 4),
        task := BitVec.ofNat 64 (rd (o + 77) 8),
        byWait := ((b.framesOf l).find? fun f => f.ret == ret).all fun f => f.byWait,
        grp := ((b.framesOf l).find? fun f => f.ret == ret).any fun f => f.grp } :: rest

/-- The refill lanes that a block holds. -/
def Refill.read (f : Refill) (rd : Nat → Nat → Nat) : Refill :=
  let at_ (k : Nat) : Mask := Mask.ofPred fun l => rd (0x1008 + 32 * l) 1 % 8 == k
  { f with
    prologue := at_ 0, body := at_ 1, retire := at_ 2, rp := at_ 3, fp := at_ 4, pset := at_ 5,
    drained := at_ 6, ord := Sparse.ofList 0 (lanes.map fun l => BitVec.ofNat 64 (rd (0x1000 + 32 * l) 8)),
    hasOrd := Mask.ofPred fun l => rd (0x1008 + 32 * l) 1 % 8 < 6,
    parks := f.parks.map fun p =>
      { p with addr := BitVec.ofNat 64 (rd (0x1010 + 32 * p.lane) 8),
               fmt := BitVec.ofNat 32 (rd (0x1018 + 32 * p.lane) 4) } }

/-- The forwarding window that a block holds. -/
def readWindow (rd : Nat → Nat → Nat) : List FwEnt :=
  lanes.flatMap fun l => (List.range 8).filterMap fun e =>
    let x := rd (0x800 + 64 * l + 8 * e) 8
    if bitsAt x 44 1 = 1 then
      some { lane := l, reg := bitsAt x 32 8, val := BitVec.ofNat 32 x, dist := bitsAt x 40 4 }
    else none

/-- The bough with every part of a block loaded, out of system mode (R365). A block says nothing of lanes that
EMRSET or a waiting TSPAWN or TWAIT has left inactive: the lanes that had not exited stay so (log 23). Of a wait
only SLEEP's end outlasts the reissue of its instruction (R368). -/
def State.loadBlock (s : State) (b : Bough) (rd : Nat → Nat → Nat) : Bough :=
  let c := rd 0 256
  let w (lo : Nat) : W64 := BitVec.ofNat 64 (bitsAt c lo 64)
  let depth := bitsAt c 267 11
  let stack := ((List.range depth).map fun i =>
    s.readEntry b (BitVec.ofNat 64 (rd (0x1400 + 16 * i) 8)) (BitVec.ofNat 32 (rd (0x1408 + 16 * i) 4))).reverse
  let live := (s.liveSet b).length
  let emr : Mask := BitVec.ofNat 32 (bitsAt c 64 32)
  let refill := if bitsAt c 278 1 = 1 then b.refill.map fun f => f.read rd else none
  let held := stack.foldl (fun m e => m ||| e.mask) emr
  { b with
    pc := w 0, emr, idle := 0, live := b.live ||| held, fmt := BitVec.ofNat 32 (bitsAt c 96 32), wh := bitsAt c 128 64,
    flags := Sparse.ofList 0 ((List.range 12).map fun n => BitVec.ofNat 4 (bitsAt c (192 + 4 * n) 4)),
    setpri := BitVec.ofNat 2 (bitsAt c 256 2), sysmode := false, nestmax := bitsAt c 259 4, stack, refill,
    lcb := w 320, lcseed := w 384, bankcnt := w 448,
    rep := if bitsAt c 556 1 = 1 then
        some { fields := BitVec.ofNat 4 (bitsAt c 552 4), stride := BitVec.ofNat 8 (bitsAt c 544 8),
               done := bitsAt c 528 16, left := bitsAt c 512 16 }
      else none,
    epc := w 576, emask := BitVec.ofNat 32 (bitsAt c 640 32), eaddr := w 704, esavea := w 768, esaveb := w 832,
    utag := w 1024, stepdone := BitVec.ofNat 32 (bitsAt c 1120 32), arrived := bitsAt c 1152 1 == 1,
    sregs := Sparse.ofList 0 ((List.range 63).map fun k => BitVec.ofNat 64 (rd (0x100 + 8 * k) 8)),
    preds := Sparse.ofList 0 ((List.range 7).map fun k => BitVec.ofNat 32 (rd (0x300 + 4 * k) 4)),
    nest := Sparse.ofList 0 ((List.range 152).map fun k =>
      if 16 ≤ k && k < 24 then 0#32 else BitVec.ofNat 32 (rd (0x320 + 4 * k) 4)),
    coef := Sparse.ofList 0 ((List.range 80).map fun k => BitVec.ofNat 64 (rd (0x580 + 8 * k) 8)),
    fw := readWindow rd,
    frames := lanes.flatMap fun l => readFrames rd b live l 8,
    vregs := Sparse.ofList 0 ((List.range (32 * b.nregs)).map fun k => BitVec.ofNat 32 (rd (0x10000 + 4 * k) 4)),
    wait := if bitsAt c 263 4 = 8 then .sleep (bitsAt c 896 64) else .none, nf := 0, entered := false, checkTM := false, replaying := false }

/-! ## The context of a copse (R370, R371) -/

/-- Context area `i` of a partition (R382), by physical address (log 24). -/
def Part.area (p : Part) (i : Nat) : Nat := p.ctxarea.toNat + 0x530000 * i

/-- A free area, if there is one: the lowest (R382). -/
def Part.freeArea (p : Part) : Option Nat :=
  (List.range p.ctxcount.toNat).find? fun i => !p.areas.contains i

/-- The banks of a copse, rising. -/
def Core.ownBanks (k : Core) (own : Nat × Nat) : List Nat := (List.range 48).filter fun b => k.owner b == some own

/-- The operand slots of a copse. -/
def Core.ownSlots (k : Core) (own : Nat × Nat) : List Nat :=
  (List.range 16).filter fun x => k.slotOwn.contains (x, own)

/-- The header (R371); WSINCE is what `since` gives where no counted wait is under way. -/
def State.headerPart (s : State) (c : Copse) (since : Nat) : Nat :=
  let bs := s.boughsOf c.part c.launch c.cid
  let waits := (bs.filter fun b => b.wait.counted).map fun b => b.waitSince
  let w := match waits with
    | [] => since
    | x :: r => r.foldl min x
  joinBits [(32, 0x5854434B), (16, 1), (16, (bs.filter fun b => !b.gone).length), (32, c.launch),
    (32, c.cid), (16, ofBits 16 fun k => c.slotImage.any fun e => e.1 == k), (4, c.written.toNat),
    (4, c.reason), (40, 0), (96, joinBits (c.bankImage.map fun e => (2, e.2.toNat))), (6, c.bankImage.length),
    (58, 0), (64, c.tsave), (64, w)]

/-- Barriers and queues (R370). -/
def Copse.barImage (c : Copse) : Image :=
  (c.bars.map fun e => (0x100 + 16 * e.1, 16,
    joinBits [(32, e.2.gen), (8, e.2.arr.length), (8, e.2.target), (80, 0)])) ++
  c.queues.map fun e => (0x200 + 16 * e.1, 16,
    joinBits [(32, e.2.head), (32, e.2.count), (4, e.2.first), (5, e.2.banks), (2, e.2.size), (1, bit e.2.bound), (52, 0)])

/-- The bytes of a sparse image at an offset. -/
def byteImage (o : Nat) (m : Sparse 8) : Image := m.map fun e => (o + e.1, 1, e.2.toNat)

/-- Writes the block of a bough at its place in its copse's context. -/
def State.putBlock (s : State) (base : Nat) (b : Bough) : State :=
  s.putImage (base + 0x128000 + 0x20000 * b.idx) 0x20000 (s.blockImage b)

/-- Writes the context of a saved copse: its fixed parts, and free values where the manual gives a section
no layout (log 4, log 22). -/
def State.putContext (s : State) (base : Nat) (c : Copse) : State :=
  let since := (Config.freeWord s.free).toNat
  let s := s.freeValue
  let s := s.putImage base 0x300 ((0, 256, s.headerPart c since) :: c.barImage)
  let s := s.putFree (base + 0x300) 16
  let s := s.putFree (base + 0x400) (16 * min c.ops.length 32)
  let s := s.putFree (base + 0x2400) (2 * min c.mq.length 16)
  let s := (c.bankImage.zipIdx).foldl (fun s e =>
    s.putImage (base + 0x4000 + 0x4000 * e.2) 0x4000 (byteImage 0 (Sparse.slice c.bankBytes (0x4000 * e.1.1) 0x4000))) s
  let s := c.slotImage.foldl (fun s e => s.putImage (base + 0xC4000 + 8704 * e.1) 8704 (byteImage 0 e.2)) s
  let s := c.tileImage.foldl (fun s e => s.putImage (base + 0xE6000 + 66560 * e.1) 66560 (byteImage 0 e.2)) s
  ((s.boughsOf c.part c.launch c.cid).filter fun b => !b.gone).foldl (fun s b => s.putBlock base b) s

/-- A copse's state on its core, as its context keeps it (R285, R367, R370). -/
def Copse.capture (c : Copse) (k : Core) (uids : List Nat) (reason time : Nat) (ops : List EngOp) : Copse :=
  let own := (lkey c.part c.launch, c.cid)
  let banks := k.ownBanks own
  { c with
    reason, event := 0, tsave := time,
    bankImage := banks.map fun b => (b, if k.role b = .fif then 3#2 else 1#2),
    bankBytes := k.store.filter fun e => banks.contains (e.1 / 0x4000),
    slotImage := (k.ownSlots own).map fun x => (x, Sparse.slice k.slots (8704 * x) 8704),
    tileImage := ((List.range 4).filter fun x => c.written.getLsbD x).map fun x =>
      (x, Sparse.slice k.tiles (66560 * x) 66560),
    ops, mq := k.mq.filter fun m => uids.contains m.uid }

/-- The boughs of a copse leave the core: their lines and walks are dropped, their waits are kept. -/
def Bough.saved (b : Bough) : Bough :=
  { b with status := .saved, line := none, entered := false, walkRes := [] }

/-- Engine operations leave the cores. -/
def State.dropOps (s : State) (ops : List EngOp) : State :=
  let ids := ops.map fun o => o.id
  { s with cores := s.cores.map fun (e : Nat × Core) =>
      (e.1, { e.2 with ops := e.2.ops.filter fun o => !ids.contains o.id }) }

/-- Saves a copse in a context area and gives back its place (R28, R370). `ops` are the engine operations
that go with it. -/
def State.saveCopse (s : State) (c : Copse) (area reason : Nat) (ops : List EngOp) : State :=
  let uids := (s.boughsOf c.part c.launch c.cid).map fun b => b.uid
  let base := (s.part c.part).area area
  let c' := { c.capture (s.core c.core) uids reason s.time ops with
    at_ := .saved area, ctxbase := BitVec.ofNat 64 base }
  let s := (s.dropOps ops).modCore c.core fun k => { k with mq := k.mq.filter fun m => !uids.contains m.uid }
  let s := if uids.contains s.b.uid then { s with b := Bough.blank, boughs := s.b :: s.boughs } else s
  let wh := (s.core c.core).wh
  let s := s.modBoughs (fun b => uids.contains b.uid) fun b => { b.saved with seen := max b.seen wh }
  let s := (s.freeCopse c).freeRegBanks c.core
  let s := s.modCopse c.part c.launch c.cid fun _ => c'
  let s := s.modPart c.part fun p => { p with areas := p.areas ++ [area] }
  s.putContext base c'

/-- What reaches a saved bough is written to its block too (R28, R29). -/
def State.refreshBlock (s : State) (uid : Nat) : State :=
  match s.bough uid with
  | none => s
  | some b =>
    match (s.copseOf b).map fun (c : Copse) => c.at_ with
    | some (Where.saved area) => s.putBlock ((s.part b.part).area area) b
    | _ => s

end Sys2Proof.Machine
end

