-- ==== Sys2Proof/Machine/Num.lean ====
section
/-! DEFINITION. Number formats and rounding (spec/06_numeric.md R155-R168): exact values, decoding,
rounding in every mode, dither rounding, exact sums and products, and the aligned adder. -/

namespace Sys2Proof.Machine

/-! ## Exact values -/

/-- A value: not a number, an infinity, or (−1)^neg · m · 2^e. -/
inductive Fp where
  | nan
  | inf (neg : Bool)
  | fin (neg : Bool) (m : Nat) (e : Int)
  deriving DecidableEq, Repr

/-- A binary format (R156, R158, R161): exponent and fraction widths, bias, the code of its largest
finite magnitude, its canonical NaN, and the code of infinity where it has one. -/
structure Fmt where
  ew : Nat
  mw : Nat
  bias : Int
  max : Nat
  nan : Nat
  inf : Option Nat
  deriving DecidableEq, Repr

def fmtF16 : Fmt := { ew := 5, mw := 10, bias := 15, max := 0x7BFF, nan := 0x7E00, inf := some 0x7C00 }
def fmtBf16 : Fmt := { ew := 8, mw := 7, bias := 127, max := 0x7F7F, nan := 0x7FC0, inf := some 0x7F80 }
def fmtF32 : Fmt :=
  { ew := 8, mw := 23, bias := 127, max := 0x7F7FFFFF, nan := 0x7FC00000, inf := some 0x7F800000 }
def fmtF64 : Fmt :=
  { ew := 11, mw := 52, bias := 1023, max := 0x7FEFFFFFFFFFFFFF, nan := 0x7FF8000000000000,
    inf := some 0x7FF0000000000000 }
def fmtE4m3 : Fmt := { ew := 4, mw := 3, bias := 7, max := 0x7E, nan := 0x7F, inf := none }
def fmtE5m2 : Fmt := { ew := 5, mw := 2, bias := 15, max := 0x7B, nan := 0x7F, inf := some 0x7C }
def fmtE2m1 : Fmt := { ew := 2, mw := 1, bias := 1, max := 7, nan := 0, inf := none }
/-- The internal float X19 (R161). -/
def fmtX19 : Fmt := { ew := 8, mw := 10, bias := 127, max := 0x3FBFF, nan := 0x3FE00, inf := some 0x3FC00 }

/-- The format of a floating-point type code. -/
def fmtOf : Ty → Fmt
  | .f16 => fmtF16
  | .bf16 => fmtBf16
  | .f64 => fmtF64
  | .e4m3 => fmtE4m3
  | .e5m2 => fmtE5m2
  | .e2m1 => fmtE2m1
  | _ => fmtF32

/-- The bits of a format. -/
def Fmt.width (f : Fmt) : Nat := 1 + f.ew + f.mw

/-- The sign bit of a code. -/
def Fmt.sign (f : Fmt) (x : Nat) : Bool := x.testBit (f.ew + f.mw)

/-- A code without its sign. -/
def Fmt.mag (f : Fmt) (x : Nat) : Nat := x % 2 ^ (f.ew + f.mw)

/-- A code from a sign and a magnitude code. -/
def Fmt.code (f : Fmt) (neg : Bool) (mag : Nat) : Nat := mag + bit neg * 2 ^ (f.ew + f.mw)

/-- A magnitude code that is a subnormal (R157). -/
def Fmt.subnormal (f : Fmt) (x : Nat) : Bool := decide (f.mag x ≠ 0) && decide (f.mag x < 2 ^ f.mw)

/-- The value of a code (R156, R158). -/
def Fmt.val (f : Fmt) (x : Nat) : Fp :=
  let mag := f.mag x
  let neg := f.sign x
  if f.inf = some mag then .inf neg
  else if mag > f.max then .nan
  else
    let e := mag / 2 ^ f.mw
    let m := mag % 2 ^ f.mw
    if e = 0 then .fin neg m (1 - f.bias - f.mw) else .fin neg (2 ^ f.mw + m) (e - f.bias - f.mw)

/-! ## Rounding (R164) -/

/-- The rounding modes of R58 that are IEEE roundings. -/
inductive Mode where
  | rn | rz | ru | rd | rna
  deriving DecidableEq, Repr

/-- m / 2^d rounded to an integer, the sign given. -/
def roundShift (mode : Mode) (neg : Bool) (m d : Nat) : Nat :=
  let q := m / 2 ^ d
  let r := m % 2 ^ d
  let up := match mode with
    | .rn => decide (2 * r > 2 ^ d) || (decide (2 * r = 2 ^ d) && q % 2 == 1)
    | .rz => false
    | .ru => decide (r ≠ 0) && !neg
    | .rd => decide (r ≠ 0) && neg
    | .rna => decide (2 * r ≥ 2 ^ d)
  if up then q + 1 else q

/-- The exponent of the spacing of a format at a magnitude m · 2^e. -/
def Fmt.ulp (f : Fmt) (m : Nat) (e : Int) : Int := Max.max ((m.log2 : Int) + e) (1 - f.bias) - f.mw

/-- m · 2^e as a multiple of 2^u, rounded; of a magnitude below a quarter unit only "not zero" counts. -/
def roundTo (mode : Mode) (neg : Bool) (m : Nat) (e u : Int) : Nat :=
  if e ≥ u then m * 2 ^ (e - u).toNat
  else if (u - e).toNat > m.log2 + 2 then roundShift mode neg (if m = 0 then 0 else 1) 2
  else roundShift mode neg m (u - e).toNat

/-- The magnitude code of a finite value before overflow is looked at; it exceeds `max` on overflow. -/
def Fmt.roundMag (f : Fmt) (mode : Mode) (neg : Bool) (m : Nat) (e : Int) : Nat :=
  if m = 0 then 0
  else
    let u := f.ulp m e
    (u + f.mw + f.bias - 1).toNat * 2 ^ f.mw + roundTo mode neg m e u

/-- The mode rounds an overflow away from zero. -/
def Mode.away (mode : Mode) (neg : Bool) : Bool :=
  match mode with
  | .rn | .rna => true
  | .rz => false
  | .ru => !neg
  | .rd => neg

/-- What an overflow gives: infinity, or NaN where the format has none, or the largest finite; E2M1
always gives the largest (R164). -/
def Fmt.overflow (f : Fmt) (mode : Mode) (sat neg : Bool) : Nat :=
  if sat || !mode.away neg || f.mw = 1 then f.code neg f.max
  else
    match f.inf with
    | some i => f.code neg i
    | none => f.nan

/-- Round(x, mode), with saturation where a page says so (R164). -/
def Fmt.round (f : Fmt) (mode : Mode) (sat : Bool) (x : Fp) : Nat :=
  match x with
  | .nan => f.nan
  | .inf neg => f.overflow .rn sat neg
  | .fin neg m e =>
    let c := f.roundMag mode neg m e
    if c > f.max then f.overflow mode sat neg else f.code neg c

/-- The reversed five low bits (R165). -/
def bitrev5 (n : Nat) : Nat :=
  (List.range 5).foldl (fun r i => r + 2 ^ (4 - i) * (n / 2 ^ i % 2)) 0

/-- The threshold of a block position under a phase (R165, R183). -/
def ditherT (phase j : Nat) : Nat := bitrev5 ((j + phase) % 32) * 2 ^ 11 + 0x400

/-- DitherRound with SE = 1, to a format (R165). -/
def Fmt.dither (f : Fmt) (phase j : Nat) (sat : Bool) (x : Fp) : Nat :=
  match x with
  | .fin neg m e =>
    if m = 0 then f.code neg 0
    else
      let u := f.ulp m e
      let d := min e (u - 16)
      let n := m * 2 ^ (e - d).toNat + ditherT phase j * 2 ^ (u - 16 - d).toNat
      f.round .rz sat (.fin neg n d)
  | x => f.round .rn sat x

/-- How an instruction rounds: by a mode, or by dither at a phase. -/
inductive Rounding where
  | by_ (m : Mode)
  | dither (phase : Nat)
  deriving DecidableEq, Repr

/-- Rounds at block position `j`. -/
def Fmt.roundBy (f : Fmt) (r : Rounding) (sat : Bool) (j : Nat) (x : Fp) : Nat :=
  match r with
  | .by_ m => f.round m sat x
  | .dither p => f.dither p j sat x

/-- A finite value rounded to an integer, with its sign. -/
def roundInt (r : Rounding) (j : Nat) (neg : Bool) (m : Nat) (e : Int) : Int :=
  let n := match r with
    | .by_ mode => roundTo mode neg m e 0
    | .dither p =>
      if m = 0 then 0
      else
        let d := min e (-16)
        roundTo .rz neg (m * 2 ^ (e - d).toNat + ditherT p j * 2 ^ (-16 - d).toNat) d 0
  if neg then -(n : Int) else n

/-! ## Exact arithmetic -/

/-- A signed dyadic number as a value; zero has the given sign. -/
def ofDyadic (zneg : Bool) (n e : Int) : Fp := if n = 0 then .fin zneg 0 0 else .fin (n < 0) n.natAbs e

/-- The signed mantissa of a finite value, scaled to an exponent not above its own. -/
def scaled (neg : Bool) (m : Nat) (e d : Int) : Int :=
  let n : Int := (m * 2 ^ (e - d).toNat : Nat)
  if neg then -n else n

def Fp.neg : Fp → Fp
  | .nan => .nan
  | .inf n => .inf (!n)
  | .fin n m e => .fin (!n) m e

/-- The exact sum. An exact zero has the sign of IEEE 754-2019: that of both addends where they agree,
else + or, in rd, −. -/
def Fp.add (mode : Mode) : Fp → Fp → Fp
  | .nan, _ | _, .nan => .nan
  | .inf a, .inf b => if a == b then .inf a else .nan
  | .inf a, _ => .inf a
  | _, .inf b => .inf b
  | .fin a m e, .fin b n k =>
    let d := min e k
    ofDyadic (if m = 0 && n = 0 && a == b then a else mode == .rd) (scaled a m e d + scaled b n k d) d

/-- The exact product. -/
def Fp.mul : Fp → Fp → Fp
  | .nan, _ | _, .nan => .nan
  | .inf a, .inf b => .inf (a != b)
  | .inf a, .fin b m _ | .fin b m _, .inf a => if m = 0 then .nan else .inf (a != b)
  | .fin a m e, .fin b n k => .fin (a != b) (m * n) (e + k)

/-- a · b + c, exactly. -/
def Fp.fma (mode : Mode) (a b c : Fp) : Fp := (a.mul b).add mode c

/-- A value that is zero. -/
def Fp.isZero : Fp → Bool
  | .fin _ m _ => m == 0
  | _ => false

/-- ⌊log2 |x|⌋ of a nonzero finite value. -/
def Fp.exp : Fp → Int
  | .fin _ m e => (m.log2 : Int) + e
  | _ => 0

/-- a < b for values that are not NaN; −0 is not below +0. -/
def Fp.lt : Fp → Fp → Bool
  | .nan, _ | _, .nan => false
  | .inf a, .inf b => a && !b
  | .inf a, _ => a
  | _, .inf b => !b
  | .fin a m e, .fin b n k =>
    let d := min e k
    scaled a m e d < scaled b n k d

/-- Equal values; −0 equals +0. -/
def Fp.eqv (a b : Fp) : Bool := a != .nan && b != .nan && !a.lt b && !b.lt a

/-- The sign of a value. -/
def Fp.isNeg : Fp → Bool
  | .nan => false
  | .inf n => n
  | .fin n _ _ => n

/-! ## The aligned adder (R167) -/

/-- The term of a product in units of 2^u, truncated toward zero. -/
def alignTerm (u : Int) : Fp → Int
  | .fin neg m e => let n : Int := roundTo .rz neg m e u; if neg then -n else n
  | _ => 0

/-- AlignedSum(p, W, g) of finite products. -/
def alignedSum (w g : Int) (ps : List Fp) : Fp :=
  let nz := ps.filter fun p => !p.isZero
  match nz.map Fp.exp with
  | [] => .fin (ps.all Fp.isNeg) 0 0
  | x :: xs =>
    let u := xs.foldl max x + g - (w - 1)
    ofDyadic false (nz.foldl (fun s p => s + alignTerm u p) 0) u

/-- The sum of two finite values, an exact zero with the sign given. -/
def addZero (zneg : Bool) : Fp → Fp → Fp
  | .fin a m e, .fin b n k =>
    let d := min e k
    ofDyadic zneg (scaled a m e d + scaled b n k d) d
  | x, _ => x

/-- Products and an addend that are summed in the adder: NaN, infinities, and else the aligned sum to
which the addend is added exactly. An exact zero has the sign of IEEE 754-2019. -/
def dotSum (mode : Mode) (w g : Int) (ps : List Fp) (c : Fp) : Fp :=
  let all := c :: ps
  if all.contains .nan then .nan
  else if all.contains (.inf false) && all.contains (.inf true) then .nan
  else if all.contains (.inf false) then .inf false
  else if all.contains (.inf true) then .inf true
  else
    let zneg := if all.all Fp.isZero then all.all Fp.isNeg || (all.any Fp.isNeg && mode == .rd) else mode == .rd
    addZero zneg (alignedSum w g ps) c

/-! ## Quotients and roots, with a sticky bit -/

/-- Adds bits below a truncated result so that it rounds as the exact one does. -/
def sticky (q : Nat) (exact : Bool) (e : Int) : Nat × Int := if exact then (q, e) else (4 * q + 1, e - 2)

/-- The quotient of finite nonzero values, kept to `p` bits and a sticky bit. -/
def divFin (p : Nat) (m : Nat) (e : Int) (n : Nat) (k : Int) : Nat × Int :=
  let s := p + n.log2 + 1
  let x := m * 2 ^ s
  sticky (x / n) (x % n == 0) (e - k - s)

/-- Division as IEEE 754-2019 has it. -/
def Fp.div (p : Nat) : Fp → Fp → Fp
  | .nan, _ | _, .nan => .nan
  | .inf _, .inf _ => .nan
  | .inf a, b => .inf (a != b.isNeg)
  | a, .inf b => .fin (a.isNeg != b) 0 0
  | .fin a m e, .fin b n k =>
    if n = 0 then (if m = 0 then .nan else .inf (a != b))
    else if m = 0 then .fin (a != b) 0 0
    else
      let (q, d) := divFin p m e n k
      .fin (a != b) q d

/-- The integer square root, bit by bit from the top. -/
def isqrtAt (x : Nat) : Nat → Nat → Nat
  | 0, r => r
  | n + 1, r => let c := r + 2 ^ n; isqrtAt x n (if c * c ≤ x then c else r)

/-- ⌊√x⌋. -/
def isqrt (x : Nat) : Nat := isqrtAt x (x.log2 / 2 + 1) 0

/-- The root of m · 2^e, kept to `p` bits and a sticky bit. -/
def sqrtFin (p : Nat) (m : Nat) (e : Int) : Nat × Int :=
  let s := 2 * p + (if e % 2 = 0 then 0 else 1)
  let x := m * 2 ^ s
  let r := isqrt x
  sticky r (r * r == x) ((e - s) / 2)

/-- The square root; −0 gives −0 and a negative value NaN (R174). -/
def Fp.sqrt (p : Nat) : Fp → Fp
  | .nan => .nan
  | .inf neg => if neg then .nan else .inf false
  | .fin neg m e =>
    if m = 0 then .fin neg 0 0
    else if neg then .nan
    else
      let (r, d) := sqrtFin p m e
      .fin false r d

end Sys2Proof.Machine
end

