-- ==== Sys2Proof/Machine/Elem.lean ====
section
/-! DEFINITION. The elementary functions of R174, computed in fixed point with 560 fraction bits, far past
the bounds that the manual states (log 14), and the results that those bounds allow. -/

namespace Sys2Proof.Machine

/-! ## Constants and series in units of 2^-560 -/

/-- The fraction bits of the fixed point. -/
def fxQ : Nat := 560

def fxOne : Nat := 2 ^ fxQ

/-- Σ (±1)^i / ((2i + 1) k^(2i+1)): the terms of artanh (all +) or arctan (alternating) of 1/k. -/
def invSeries (alt : Bool) (k : Nat) : Nat → Nat → Nat → Int → Int
  | 0, _, _, s => s
  | n + 1, i, p, s =>
    let t : Int := (p / (2 * i + 1) : Nat)
    invSeries alt k n (i + 1) (p / (k * k)) (if alt && i % 2 == 1 then s - t else s + t)

/-- ln 2 = 2 artanh(1/3). -/
def fxLn2 : Nat := (2 * invSeries false 3 200 0 (fxOne / 3) 0).toNat

/-- π = 16 arctan(1/5) − 4 arctan(1/239). -/
def fxPi : Nat :=
  (16 * invSeries true 5 140 0 (fxOne / 5) 0 - 4 * invSeries true 239 40 0 (fxOne / 239) 0).toNat

/-- Σ x^i / i!, from the term `t`. -/
def expSeries (x : Nat) : Nat → Nat → Nat → Nat → Nat
  | 0, _, _, s => s
  | n + 1, i, t, s => expSeries x n (i + 1) (t * x / fxOne / i) (s + t)

/-- e^x for 0 ≤ x < 1. -/
def fxExp (x : Nat) : Nat := expSeries x 130 1 fxOne 0

/-- e^(−y) for y ≥ 0. -/
def fxExpNeg (y : Nat) : Nat :=
  let k := y / fxLn2
  if k > fxQ then 0 else fxExp (fxLn2 - y % fxLn2) / 2 ^ (k + 1)

/-- x − x³/3! + … (odd) or 1 − x²/2! + … (even), from the term `t` of degree `d`. -/
def trigSeries (x : Nat) : Nat → Nat → Nat → Int → Int
  | 0, _, _, s => s
  | n + 1, d, t, s =>
    let u := t * x / fxOne * x / fxOne / ((d + 1) * (d + 2))
    trigSeries x n (d + 2) u (if d / 2 % 2 = 0 then s + t else s - t)

def fxSin (x : Nat) : Int := trigSeries x 80 1 x 0
def fxCos (x : Nat) : Int := trigSeries x 80 0 fxOne 0

/-- artanh z, for 0 ≤ z ≤ 1/3. -/
def atanhSeries (z2 : Nat) : Nat → Nat → Nat → Nat → Nat
  | 0, _, _, s => s
  | n + 1, i, p, s => atanhSeries z2 n (i + 1) (p * z2 / fxOne) (s + p / (2 * i + 1))

def fxAtanh (z : Nat) : Nat := atanhSeries (z * z / fxOne) 190 0 z 0

/-- Σ 2^n x^(2n+1) / (2n+1)!!, the series of the error function after e^(−x²). -/
def erfSeries (x2 : Nat) : Nat → Nat → Nat → Nat → Nat
  | 0, _, _, s => s
  | n + 1, i, t, s => erfSeries x2 n (i + 1) (t * (2 * x2) / fxOne / (2 * i + 3)) (s + t)

/-- The magnitude m · 2^e in units of 2^-560. -/
def fxOf (m : Nat) (e : Int) : Nat :=
  let k := e + fxQ
  if k ≥ 0 then m * 2 ^ k.toNat else m / 2 ^ (-k).toNat

/-- A signed fixed-point number as a value; a zero keeps the sign given. -/
def ofFx (zneg : Bool) (n : Int) : Fp := ofDyadic zneg n (-(fxQ : Int))

/-- A magnitude of 2^14 or more, past which every function has reached its limit. -/
def fxBig (m : Nat) (e : Int) : Bool := decide ((m.log2 : Int) + e ≥ 14)

/-! ## The functions, special operands as R174 tables them -/

/-- 2^a. -/
def fpExp2 : Fp → Fp
  | .nan => .nan
  | .inf neg => if neg then .fin false 0 0 else .inf false
  | .fin neg m e =>
    if m = 0 then .fin false 1 0
    else if fxBig m e then .fin false 1 (if neg then -20000 else 20000)
    else
      let x : Int := if neg then -(fxOf m e : Int) else fxOf m e
      let k := x / (fxOne : Int)
      let f := (x % (fxOne : Int)).toNat
      if f = 0 then .fin false 1 k else .fin false (fxExp (f * fxLn2 / fxOne)) (k - fxQ)

/-- log2 a. -/
def fpLog2 : Fp → Fp
  | .nan => .nan
  | .inf neg => if neg then .nan else .inf false
  | .fin neg m e =>
    if m = 0 then .inf true
    else if neg then .nan
    else
      let l := m.log2
      let z := (m - 2 ^ l) * fxOne / (m + 2 ^ l)
      ofFx false ((e + l) * (fxOne : Int) + ((2 * fxAtanh z * fxOne / fxLn2 : Nat) : Int))

/-- sin a or cos a, by quadrant of a mod 2π. -/
def fpTrig (cosine : Bool) : Fp → Fp
  | .nan => .nan
  | .inf _ => .nan
  | .fin neg m e =>
    if m = 0 then (if cosine then .fin false 1 0 else .fin neg 0 0)
    else
      let x := fxOf m e
      let h := fxPi / 2
      let r := x % h
      let v := match (x / h + (if cosine then 1 else 0)) % 4 with
        | 0 => fxSin r
        | 1 => fxCos r
        | 2 => -fxSin r
        | _ => -fxCos r
      ofFx neg (if neg && !cosine then -v else v)

/-- tanh a. -/
def fpTanh : Fp → Fp
  | .nan => .nan
  | .inf neg => .fin neg 1 0
  | .fin neg m e =>
    if m = 0 then .fin neg 0 0
    else if fxBig m e then .fin neg 1 0
    else
      let t := fxExpNeg (2 * fxOf m e)
      let v : Int := ((fxOne - t) * fxOne / (fxOne + t) : Nat)
      ofFx neg (if neg then -v else v)

/-- 1 / (1 + e^(−a)). -/
def fpSigm : Fp → Fp
  | .nan => .nan
  | .inf neg => if neg then .fin false 0 0 else .fin false 1 0
  | .fin neg m e =>
    if m = 0 then .fin false 1 (-1)
    else
      let t := if fxBig m e then 0 else fxExpNeg (fxOf m e)
      ofFx false (((if neg then t else fxOne) * fxOne / (fxOne + t) : Nat) : Int)

/-- erf a. -/
def fpErf : Fp → Fp
  | .nan => .nan
  | .inf neg => .fin neg 1 0
  | .fin neg m e =>
    if m = 0 then .fin neg 0 0
    else if decide ((m.log2 : Int) + e ≥ 3) then .fin neg 1 0
    else
      let x := fxOf m e
      let x2 := x * x / fxOne
      let s := erfSeries x2 700 0 x 0
      let v : Int := (2 * (s * fxExpNeg x2 / isqrt (fxPi * fxOne)) : Nat)
      ofFx neg (if neg then -v else v)

/-! ## Bounds (R174) -/

/-- The size of an infinity next to the largest finite value. -/
def Fmt.edge (f : Fmt) : Fp → Fp
  | .inf neg => .fin neg 1 (2 ^ (f.ew - 1) : Nat)
  | x => x

/-- |x − y| ≤ 2^b, for finite values. -/
def closeTo (x y : Fp) (b : Int) : Bool :=
  match x, y with
  | .fin n m e, .fin k l d =>
    let u := min (min e d) b
    decide ((scaled n m e u - scaled k l d u).natAbs ≤ 2 ^ (b - u).toNat)
  | _, _ => false

/-- A result within 2 units in the last place of the exact one (R174). -/
def Fmt.withinUnits (f : Fmt) (r : Nat) (y : Fp) : Bool :=
  match y with
  | .fin _ m e => closeTo (f.edge (f.val r)) y (f.ulp m e + 1)
  | _ => false

/-- A result within 2^-22 of the exact one (R174). -/
def Fmt.within22 (f : Fmt) (r : Nat) (y : Fp) : Bool := closeTo (f.val r) y (-22)

/-- An operand whose result R174 tables: a zero, an infinity or a NaN. -/
def Fp.special : Fp → Bool
  | .fin _ m _ => m == 0
  | _ => true

/-- The device's own result where it lies within the bound, and the correctly rounded one otherwise. A
16-bit type is always correctly rounded, and a special operand gives what the table states (R174). -/
def bounded (ok : Fmt → Nat → Fp → Bool) (op : Nat) (t : Ty) (a : Nat) (y : Fp) : Nat :=
  let f := fmtOf t
  let r := f.round .rn false y
  if t = .f32 && !(f.val a).special then
    let c := Config.approx op t.code a % 2 ^ 32
    if ok f c y then c else r
  else r

/-- The faithful result of FRCP and FRSQ: one of the two values next to the exact one (R174). -/
def faithful (op : Nat) (t : Ty) (a : Nat) (y : Fp) : Nat :=
  let f := fmtOf t
  match y with
  | .fin neg _ _ =>
    if t = .f16 || t = .bf16 then f.round .rn false y
    else if Config.approx op t.code a % 2 = 0 then f.round .rz false y
    else f.round (if neg then .rd else .ru) false y
  | _ => f.round .rn false y

end Sys2Proof.Machine
end

