-- ==== Sys2Proof/Machine/Float.lean ====
section
/-! DEFINITION. Class 1: floating-point arithmetic (spec/06_numeric.md R169-R176) and FMT (R162, R163,
R182, R183). -/

namespace Sys2Proof.Machine

/-! ## Rounding modes -/

/-- The rounding code of an instruction, RM = 111 resolved (R58). -/
def rmCode (fmt : W32) (rm : Rm) : Nat := if rm = .rfmt then fmtRM fmt else rm.code

/-- The mode of a code; rs is read as rn (R58). -/
def modeOfCode : Nat → Mode
  | 1 => .rz
  | 2 => .ru
  | 3 => .rd
  | 4 => .rna
  | _ => .rn

/-- The mode of an instruction that does not accept rs. -/
def modeOf (fmt : W32) (rm : Rm) : Mode := modeOfCode (rmCode fmt rm)

/-- How an instruction that accepts rs rounds (R165). -/
def roundingOf (fmt : W32) (rm : Rm) : Rounding :=
  if rmCode fmt rm = 5 && fmtSE fmt then .dither (fmtPhase fmt) else .by_ (modeOf fmt rm)

/-- PHASE advances by 1 after an executed rs rounding with SE = 1 (R166). -/
def Bough.advancePhase (b : Bough) (r : Rounding) : Bough :=
  match r with
  | .dither p => { b with fmt := BitVec.ofNat 32 (b.fmt.toNat % 2 ^ 27 + 2 ^ 27 * ((p + 1) % 32)) }
  | .by_ _ => b

/-! ## Operands and results -/

/-- FTZ acts on the type (R157). -/
def ftzType (t : Ty) : Bool := t == .f16 || t == .bf16 || t == .f32

/-- A subnormal code becomes zero of its sign where FTZ is set (R157). -/
def flush (on : Bool) (t : Ty) (x : Nat) : Nat :=
  let f := fmtOf t
  if on && ftzType t && f.subnormal x then f.code (f.sign x) 0 else x

/-- ABS clears the sign bit, and then NEG inverts it (R169). -/
def signs (t : Ty) (abs neg : Bool) (x : Nat) : Nat :=
  let f := fmtOf t
  f.code ((f.sign x && !abs) != neg) (f.mag x)

/-- An operand's bits, its signs changed and flushed. -/
def operand (fmt : W32) (t : Ty) (abs neg : Bool) (x : Nat) : Nat :=
  flush (fmtFTZ fmt) t (signs t abs neg (x % 2 ^ (fmtOf t).width))

/-- SAT on an arithmetic result (R169). -/
def clamp01 (t : Ty) (x : Nat) : Nat :=
  let f := fmtOf t
  let one := f.round .rn false (.fin false 1 0)
  match f.val x with
  | .nan => 0
  | v => if f.sign x then 0 else if (Fp.fin false 1 0).lt v then one else x

/-- A result: flushed, and then clamped where SAT is set (R157, R169, R170). -/
def result (fmt : W32) (t : Ty) (sat : Bool) (x : Nat) : Nat :=
  let y := flush (fmtFTZ fmt) t x
  if sat then clamp01 t y else y

/-- Element h of a source of elements of a type. -/
def element (t : Ty) (x h : Nat) : Nat := x / 2 ^ ((fmtOf t).width * h) % 2 ^ (fmtOf t).width

/-- One element, or two where .x2 is set. -/
def elements (t : Ty) (two : Bool) (g : Nat → Nat) : Nat :=
  if two then g 0 + 2 ^ (fmtOf t).width * g 1 else g 0

/-- An exact operation of three values, given the mode. -/
abbrev FpOp := Mode → Fp → Fp → Fp → Fp

def opAdd : FpOp := fun m a b _ => a.add m b
def opSub : FpOp := fun m a b _ => a.add m b.neg
def opMul : FpOp := fun _ a b _ => a.mul b
def opFma : FpOp := fun m a b c => a.fma m b c

/-- The lane's result of a V form, for registers of `n` words (R170). -/
def floatLane (op : FpOp) (n : Nat) (b : Bough) (f : FmtA) (l : Nat) : Nat :=
  let fm := fmtOf f.ty
  let m := modeOf b.fmt f.rm
  elements f.ty (f.sub.getLsbD 7) fun h =>
    let x (k : Nat) (raw : Nat) : Fp :=
      fm.val (operand b.fmt f.ty (f.abs.getLsbD k) (f.neg.getLsbD k) (element f.ty raw h))
    result b.fmt f.ty f.sat
      (fm.round m false (op m (x 2 (b.srcA f n l)) (x 1 (b.srcB f n l)) (x 0 (b.srcC f n l))))

/-- The immediate of an I form as bits of the type: f64 takes a binary32 value widened exactly (R169). Of a
16-bit type only IMM[15:0] is read: the page says nothing of the upper half, which may be anything (log 63). -/
def floatImm (f : FmtI) : Nat :=
  match f.ty with
  | .f64 => fmtF64.round .rn false (fmtF32.val f.imm.toNat)
  | .f32 => f.imm.toNat
  | _ => f.imm.toNat % 2 ^ 16

/-- The lane's result of an I form; DST is FFMA's addend (R170). -/
def floatILane (op : FpOp) (b : Bough) (f : FmtI) (l : Nat) : Nat :=
  let fm := fmtOf f.ty
  let m := modeOf b.fmt f.rm
  let x (neg : Bool) (raw : Nat) : Fp := fm.val (operand b.fmt f.ty false neg raw)
  result b.fmt f.ty f.sat
    (fm.round m false (op m (x f.nega (b.src false f.sa f.ty.regs l)) (x false (floatImm f))
      (x false (b.src false f.dst f.ty.regs l))))

/-- The effect of R170. -/
def floatArith (op : FpOp) (h : Hdr) (f : FmtAI) (t : State) : State :=
  match f with
  | .a f => t.writeA h f (xRegs f) (floatLane op (xRegs f) t.b f)
  | .i f => t.writeI h f f.ty.regs (floatILane op t.b f)

/-- FADD (R170). -/
def execFadd (h : Hdr) (f : FmtAI) (s : State) : Host.Outcome State Fault Refusal :=
  issue (.fadd h f) s fun t => .done (floatArith opAdd h f t)

/-- FSUB (R170). -/
def execFsub (h : Hdr) (f : FmtAI) (s : State) : Host.Outcome State Fault Refusal :=
  issue (.fsub h f) s fun t => .done (floatArith opSub h f t)

/-- FMUL (R170). -/
def execFmul (h : Hdr) (f : FmtAI) (s : State) : Host.Outcome State Fault Refusal :=
  issue (.fmul h f) s fun t => .done (floatArith opMul h f t)

/-- FFMA (R170). -/
def execFfma (h : Hdr) (f : FmtAI) (s : State) : Host.Outcome State Fault Refusal :=
  issue (.ffma h f) s fun t => .done (floatArith opFma h f t)

/-! ## Minimum and maximum (R171) -/

/-- a before b in the order of minimum: less, or −0 against +0. -/
def before (fm : Fmt) (a b : Nat) : Bool :=
  (fm.val a).lt (fm.val b) || ((fm.val a).eqv (fm.val b) && fm.sign a && !fm.sign b)

/-- The code of the minimum, or of the maximum, of two codes (R171). -/
def minMax (max num : Bool) (t : Ty) (a b : Nat) : Nat :=
  let fm := fmtOf t
  let an := fm.val a == .nan
  let bn := fm.val b == .nan
  if an && bn then fm.nan
  else if an || bn then (if num then (if an then b else a) else fm.nan)
  else if max then (if before fm a b then b else a) else (if before fm b a then b else a)

/-- FMIN and FMAX (R171). -/
def floatMin (max num : Bool) (h : Hdr) (f : FmtAI) (t : State) : State :=
  match f with
  | .a f =>
    t.writeA h f (xRegs f) fun l =>
      elements f.ty (f.sub.getLsbD 7) fun e =>
        let x (k raw : Nat) : Nat :=
          operand t.b.fmt f.ty (f.abs.getLsbD k) (f.neg.getLsbD k) (element f.ty raw e)
        minMax max num f.ty (x 2 (t.b.srcA f (xRegs f) l)) (x 1 (t.b.srcB f (xRegs f) l))
  | .i f =>
    t.writeI h f f.ty.regs fun l =>
      minMax max num f.ty (operand t.b.fmt f.ty false f.nega (t.b.src false f.sa f.ty.regs l))
        (operand t.b.fmt f.ty false false (floatImm f))

/-- FMIN (R171). -/
def execFmin (num : Bool) (h : Hdr) (f : FmtAI) (s : State) : Host.Outcome State Fault Refusal :=
  issue (.fmin num h f) s fun t => .done (floatMin false num h f t)

/-- FMAX (R171). -/
def execFmax (num : Bool) (h : Hdr) (f : FmtAI) (s : State) : Host.Outcome State Fault Refusal :=
  issue (.fmax num h f) s fun t => .done (floatMin true num h f t)

/-! ## Comparison and classes (R172, R173) -/

/-- The conditions of FCMP (R172). -/
def floatCond (c : Nat) (a b : Fp) : Bool :=
  let ordered := a != .nan && b != .nan
  match c with
  | 0 => a.eqv b
  | 1 => !a.eqv b
  | 2 => a.lt b
  | 3 => a.lt b || a.eqv b
  | 4 => b.lt a
  | 5 => b.lt a || a.eqv b
  | 6 => ordered
  | _ => !ordered

/-- FCMP (R172). -/
def floatCmp (h : Hdr) (f : FmtAI) (t : State) : State :=
  match f with
  | .a f =>
    let x (k raw : Nat) : Fp :=
      (fmtOf f.ty).val (operand t.b.fmt f.ty (f.abs.getLsbD k) (f.neg.getLsbD k) raw)
    t.writePd h f.pd fun l =>
      floatCond (f.sub.toNat % 8) (x 2 (t.b.srcA f f.ty.regs l)) (x 1 (t.b.srcB f f.ty.regs l))
  | .i f =>
    let x (neg : Bool) (raw : Nat) : Fp := (fmtOf f.ty).val (operand t.b.fmt f.ty false neg raw)
    t.writePd h f.pd fun l =>
      floatCond (f.sub.toNat % 8) (x f.nega (t.b.src false f.sa f.ty.regs l)) (x false (floatImm f))

/-- FCMP (R172). -/
def execFcmp (h : Hdr) (f : FmtAI) (s : State) : Host.Outcome State Fault Refusal :=
  issue (.fcmp h f) s fun t => .done (floatCmp h f t)

/-- The class of a code, as a bit number (R173). -/
def classOf (t : Ty) (x : Nat) : Nat :=
  let fm := fmtOf t
  let x := x % 2 ^ fm.width
  let neg := fm.sign x
  match fm.val x with
  | .nan => if x.testBit (fm.mw - 1) then 9 else 8
  | .inf _ => if neg then 0 else 7
  | .fin _ m _ =>
    if m = 0 then (if neg then 3 else 4)
    else if fm.subnormal x then (if neg then 2 else 5)
    else if neg then 1 else 6

/-- FCLASS (R173). -/
def execFclass (h : Hdr) (f : FmtA) (s : State) : Host.Outcome State Fault Refusal :=
  issue (.fclass h f) s fun t =>
    .done (t.writeA h f 1 fun l => 2 ^ classOf f.ty (t.b.srcA f f.ty.regs l))

/-! ## Functions of one operand, division and scaling (R174) -/

/-- Writes a function of operand A's code. -/
def floatOne (g : Mode → Nat → Nat) (h : Hdr) (f : FmtA) (t : State) : State :=
  t.writeA h f f.ty.regs fun l =>
    let a := operand t.b.fmt f.ty (f.abs.getLsbD 2) (f.neg.getLsbD 2) (t.b.srcA f f.ty.regs l)
    result t.b.fmt f.ty f.sat (g (modeOf t.b.fmt f.rm) a)

/-- The bits kept of a quotient or a root before the sticky bit. -/
def keepBits : Nat := 64

/-- FRCP (R174). -/
def execFrcp (h : Hdr) (f : FmtA) (s : State) : Host.Outcome State Fault Refusal :=
  issue (.frcp h f) s fun t =>
    .done (floatOne (fun _ a =>
      faithful 0x53 f.ty a ((Fp.fin false 1 0).div keepBits ((fmtOf f.ty).val a))) h f t)

/-- 1/√a, kept as a quotient of roots (R174); −0 gives −∞. -/
def fpRsq : Fp → Fp
  | .nan => .nan
  | .inf neg => if neg then .nan else .fin false 0 0
  | .fin neg m e =>
    if m = 0 then .inf neg
    else if neg then .nan
    else
      match divFin (2 * keepBits + 40) 1 0 m e with
      | (q, d) =>
        let (r, k) := sqrtFin keepBits q d
        .fin false r k

/-- FRSQ (R174). -/
def execFrsq (h : Hdr) (f : FmtA) (s : State) : Host.Outcome State Fault Refusal :=
  issue (.frsq h f) s fun t =>
    .done (floatOne (fun _ a => faithful 0x54 f.ty a (fpRsq ((fmtOf f.ty).val a))) h f t)

/-- FSQRT (R174). -/
def execFsqrt (h : Hdr) (f : FmtA) (s : State) : Host.Outcome State Fault Refusal :=
  issue (.fsqrt h f) s fun t =>
    .done (floatOne (fun m a => (fmtOf f.ty).round m false (((fmtOf f.ty).val a).sqrt keepBits)) h f t)

/-- FDIV (R174). -/
def execFdiv (h : Hdr) (f : FmtA) (s : State) : Host.Outcome State Fault Refusal :=
  issue (.fdiv h f) s fun t =>
    .done (t.writeA h f f.ty.regs fun l =>
      let fm := fmtOf f.ty
      let x (k raw : Nat) : Fp := fm.val (operand t.b.fmt f.ty (f.abs.getLsbD k) (f.neg.getLsbD k) raw)
      result t.b.fmt f.ty f.sat (fm.round (modeOf t.b.fmt f.rm) false
        ((x 2 (t.b.srcA f f.ty.regs l)).div keepBits (x 1 (t.b.srcB f f.ty.regs l)))))

/-- An elementary function within a bound. -/
def elementary (op : Nat) (g : Fp → Fp) (ok : Fmt → Nat → Fp → Bool) (h : Hdr) (f : FmtA) (t : State) : State :=
  floatOne (fun _ a => bounded ok op f.ty a (g ((fmtOf f.ty).val a))) h f t

/-- FEXP2 (R174). -/
def execFexp2 (h : Hdr) (f : FmtA) (s : State) : Host.Outcome State Fault Refusal :=
  issue (.fexp2 h f) s fun t => .done (elementary 0x57 fpExp2 Fmt.withinUnits h f t)

/-- FLOG2's bound: 2 units, and 2^-22 for an operand in [0.5, 2] (R174). -/
def log2Ok (a : Fp) (f : Fmt) (r : Nat) (y : Fp) : Bool :=
  f.withinUnits r y ||
    (!a.lt (.fin false 1 (-1)) && !(Fp.fin false 2 0).lt a && f.within22 r y)

/-- FLOG2 (R174). -/
def execFlog2 (h : Hdr) (f : FmtA) (s : State) : Host.Outcome State Fault Refusal :=
  issue (.flog2 h f) s fun t =>
    .done (floatOne (fun _ a =>
      let x := (fmtOf f.ty).val a
      bounded (log2Ok x) 0x58 f.ty a (fpLog2 x)) h f t)

/-- FSIN (R174). -/
def execFsin (h : Hdr) (f : FmtA) (s : State) : Host.Outcome State Fault Refusal :=
  issue (.fsin h f) s fun t => .done (elementary 0x59 (fpTrig false) Fmt.within22 h f t)

/-- FCOS (R174). -/
def execFcos (h : Hdr) (f : FmtA) (s : State) : Host.Outcome State Fault Refusal :=
  issue (.fcos h f) s fun t => .done (elementary 0x5A (fpTrig true) Fmt.within22 h f t)

/-- FTANH (R174). -/
def execFtanh (h : Hdr) (f : FmtA) (s : State) : Host.Outcome State Fault Refusal :=
  issue (.ftanh h f) s fun t => .done (elementary 0x5B fpTanh Fmt.withinUnits h f t)

/-- FSIGM (R174). -/
def execFsigm (h : Hdr) (f : FmtA) (s : State) : Host.Outcome State Fault Refusal :=
  issue (.fsigm h f) s fun t => .done (elementary 0x76 fpSigm Fmt.withinUnits h f t)

/-- FERF (R174). -/
def execFerf (h : Hdr) (f : FmtA) (s : State) : Host.Outcome State Fault Refusal :=
  issue (.ferf h f) s fun t => .done (elementary 0x77 fpErf Fmt.withinUnits h f t)

/-- A value rounded to an integral value, its sign kept (R174). -/
def fpRound (m : Mode) : Fp → Fp
  | .fin neg n e => .fin neg (roundTo m neg n e 0) 0
  | x => x

/-- FRND (R174). -/
def execFrnd (h : Hdr) (f : FmtA) (s : State) : Host.Outcome State Fault Refusal :=
  issue (.frnd h f) s fun t =>
    .done (floatOne (fun m a => (fmtOf f.ty).round .rn false (fpRound m ((fmtOf f.ty).val a))) h f t)

/-- a · 2^n, exactly. -/
def fpScale (n : Int) : Fp → Fp
  | .fin neg m e => .fin neg m (e + n)
  | x => x

/-- FSCALE (R174). -/
def execFscale (h : Hdr) (f : FmtA) (s : State) : Host.Outcome State Fault Refusal :=
  issue (.fscale h f) s fun t =>
    .done (t.writeA h f f.ty.regs fun l =>
      let fm := fmtOf f.ty
      let a := operand t.b.fmt f.ty (f.abs.getLsbD 2) (f.neg.getLsbD 2) (t.b.srcA f f.ty.regs l)
      result t.b.fmt f.ty f.sat
        (fm.round (modeOf t.b.fmt f.rm) false (fpScale (signed32 (t.b.srcB f 1 l)) (fm.val a))))

/-! ## Packed pairs (R175) and the widening multiply-add (R176) -/

/-- The element that a selector takes for element h (R175). -/
def selected (sel h : Nat) : Nat :=
  match sel with
  | 0 => h
  | 1 => 1 - h
  | 2 => 0
  | _ => 1

/-- A selected element of a source, k = 2, 1, 0 for A, B, C. -/
def hElem (b : Bough) (f : FmtA) (k raw h : Nat) : Nat :=
  operand b.fmt f.ty (f.abs.getLsbD k) (f.neg.getLsbD k)
    (element f.ty raw (selected (f.sub.toNat / 4 ^ (2 - k) % 4) h))

/-- HADD2, HMUL2 and HFMA2 (R175). -/
def packed (op : FpOp) (h : Hdr) (f : FmtA) (t : State) : State :=
  let fm := fmtOf f.ty
  let m := modeOf t.b.fmt f.rm
  let n := hRegs f.ty
  t.writeA h f n fun l =>
    elements f.ty true fun e =>
      result t.b.fmt f.ty f.sat (fm.round m false
        (op m (fm.val (hElem t.b f 2 (t.b.srcA f n l) e)) (fm.val (hElem t.b f 1 (t.b.srcB f n l) e))
          (fm.val (hElem t.b f 0 (t.b.srcC f n l) e))))

/-- HMIN2 and HMAX2 (R175). -/
def packedMin (max : Bool) (h : Hdr) (f : FmtA) (t : State) : State :=
  let n := hRegs f.ty
  t.writeA h f n fun l =>
    elements f.ty true fun e =>
      minMax max (f.sub.getLsbD 6) f.ty (hElem t.b f 2 (t.b.srcA f n l) e) (hElem t.b f 1 (t.b.srcB f n l) e)

/-- HADD2 (R175). -/
def execHadd2 (h : Hdr) (f : FmtA) (s : State) : Host.Outcome State Fault Refusal :=
  issue (.hadd2 h f) s fun t => .done (packed opAdd h f t)

/-- HMUL2 (R175). -/
def execHmul2 (h : Hdr) (f : FmtA) (s : State) : Host.Outcome State Fault Refusal :=
  issue (.hmul2 h f) s fun t => .done (packed opMul h f t)

/-- HFMA2 (R175). -/
def execHfma2 (h : Hdr) (f : FmtA) (s : State) : Host.Outcome State Fault Refusal :=
  issue (.hfma2 h f) s fun t => .done (packed opFma h f t)

/-- HMIN2 (R175). -/
def execHmin2 (h : Hdr) (f : FmtA) (s : State) : Host.Outcome State Fault Refusal :=
  issue (.hmin2 h f) s fun t => .done (packedMin false h f t)

/-- HMAX2 (R175). -/
def execHmax2 (h : Hdr) (f : FmtA) (s : State) : Host.Outcome State Fault Refusal :=
  issue (.hmax2 h f) s fun t => .done (packedMin true h f t)

/-- The f32 addend of FFMAW and of the dot products. -/
def addendF32 (b : Bough) (f : FmtA) (l : Nat) : Fp :=
  fmtF32.val (operand b.fmt .f32 (f.abs.getLsbD 0) (f.neg.getLsbD 0) (b.srcC f 1 l))

/-- FFMAW (R176). -/
def execFfmaw (h : Hdr) (f : FmtA) (s : State) : Host.Outcome State Fault Refusal :=
  issue (.ffmaw h f) s fun t =>
    let m := modeOf t.b.fmt f.rm
    let x (k raw e : Nat) : Fp :=
      (fmtOf f.ty).val (operand t.b.fmt f.ty (f.abs.getLsbD k) (f.neg.getLsbD k) (element f.ty raw e))
    .done (t.writeA h f 1 fun l =>
      result t.b.fmt .f32 f.sat (fmtF32.round m false
        (opFma m (x 2 (t.b.srcA f 1 l) (bit (f.sub.getLsbD 0))) (x 1 (t.b.srcB f 1 l) (bit (f.sub.getLsbD 1)))
          (addendF32 t.b f l))))

/-! ## FMT and DITH (R182, R183) -/

/-- Writes FMT, or traps where the value may not be held (R163). -/
def setFmt (t : State) (x : W32) : Res :=
  if fmtValid x then .done (t.modB fun b => { b with fmt := x }) else .trap cIllegal 0 0

/-- FMTSET (R182). -/
def execFmtset (h : Hdr) (f : FmtY) (s : State) : Host.Outcome State Fault Refusal :=
  issue (.fmtset h f) s fun t => setFmt t (if f.sub == 0 then BitVec.truncate 32 (t.ss f.s1) else f.imm)

/-- FMTGET (R182). -/
def execFmtget (h : Hdr) (f : FmtY) (s : State) : Host.Outcome State Fault Refusal :=
  issue (.fmtget h f) s fun t => .done (t.writeSd f (BitVec.zeroExtend 64 t.b.fmt))

/-- FMTMOD (R182). -/
def execFmtmod (h : Hdr) (f : FmtY) (s : State) : Host.Outcome State Fault Refusal :=
  issue (.fmtmod h f) s fun t =>
    setFmt t ((t.b.fmt &&& ~~~f.imm) ||| (BitVec.truncate 32 (t.ss f.s1) &&& f.imm))

/-- DITH (R183). -/
def execDith (h : Hdr) (f : FmtA) (s : State) : Host.Outcome State Fault Refusal :=
  issue (.dith h f) s fun t =>
    .done (t.writeA h f 1 fun l => ditherT (fmtPhase t.b.fmt) (t.b.srcB f 1 l % 32))

end Sys2Proof.Machine
end

