-- ==== Sys2Proof/Machine/Flags.lean ====
section
/-! DEFINITION. Ranges, saturation and the flags computed from an exact integer result
(spec/04_integer.md R99, R100), and the conditions of a comparison (R101). -/

namespace Sys2Proof.Machine

/-- The least value of a type of a width. -/
def typeMin (signed : Bool) (w : Nat) : Int := if signed then -(2 ^ (w - 1) : Int) else 0

/-- The greatest value of a type of a width. -/
def typeMax (signed : Bool) (w : Nat) : Int := if signed then 2 ^ (w - 1) - 1 else 2 ^ w - 1

/-- Sat of R8. -/
def satInt (lo hi x : Int) : Int := if x < lo then lo else if x > hi then hi else x

/-- The exact result as it is written: saturated where SAT is set, then modulo 2^w (R99). -/
def satWrap (sat signed : Bool) (w : Nat) (x : Int) : Nat :=
  wrap w (if sat then satInt (typeMin signed w) (typeMax signed w) x else x)

/-- The carry or borrow of an n type, the overflow of an i type: the exact result lies outside the type
(R100). -/
def outOfRange (signed : Bool) (w : Nat) (x : Int) : Bool := x < typeMin signed w || x > typeMax signed w

/-- The conditions of ICMP (R101): eq, ne, lt, le, gt, ge. -/
def intCond (c : Nat) (a b : Int) : Bool :=
  match c with
  | 0 => a == b
  | 1 => a != b
  | 2 => a < b
  | 3 => a ≤ b
  | 4 => a > b
  | _ => a ≥ b

end Sys2Proof.Machine
end

