-- ==== Sys2Proof/Machine/Integer.lean ====
section
/-! DEFINITION. Class 0: integer arithmetic, comparison, logic, shifts, bit fields and moves
(spec/04_integer.md R98-R109). -/

namespace Sys2Proof.Machine

/-! ## Arithmetic (R98-R100) -/

/-- Operand A, B or C of a lane as an integer of width `w`, starting at bit `lo` of the source: bits 0
for a whole operand, 16 for the upper half under .x2. -/
def Bough.intA (b : Bough) (f : FmtA) (w lo l : Nat) : Int :=
  absNeg (f.abs.getLsbD 2) (f.neg.getLsbD 2) (intOf f.ty.signed w (b.srcA f f.ty.regs l / 2 ^ lo))

def Bough.intB (b : Bough) (f : FmtA) (w lo l : Nat) : Int :=
  absNeg (f.abs.getLsbD 1) (f.neg.getLsbD 1) (intOf f.ty.signed w (b.srcB f f.ty.regs l / 2 ^ lo))

def Bough.intC (b : Bough) (f : FmtA) (w lo l : Nat) : Int :=
  absNeg (f.abs.getLsbD 0) (f.neg.getLsbD 0) (intOf f.ty.signed w (b.srcC f f.ty.regs l / 2 ^ lo))

/-- The carry-in that SUB[3] selects (R98). -/
def Bough.carryIn (b : Bough) (f : FmtA) (l : Nat) : Int :=
  if f.sub.getLsbD 3 && !f.sub.getLsbD 7 && (b.pred (f.sub.toNat % 8)).getLsbD l then 1 else 0

/-- The exact result of an operation on the part of the operands that starts at a bit. -/
def exactAt (x : Int → Int → Int → Int → Int) (b : Bough) (f : FmtA) (w lo l : Nat) : Int :=
  x (b.intA f w lo l) (b.intB f w lo l) (b.intC f w lo l) (b.carryIn f l)

/-- The result of a lane: of the whole operands, or of each 16-bit half under .x2 (R95, R99). -/
def arithLane (x : Int → Int → Int → Int → Int) (b : Bough) (f : FmtA) (l : Nat) : Nat :=
  if f.sub.getLsbD 7 then
    satWrap f.sat f.ty.signed 16 (exactAt x b f 16 0 l) +
      2 ^ 16 * satWrap f.sat f.ty.signed 16 (exactAt x b f 16 16 l)
  else satWrap f.sat f.ty.signed f.ty.width (exactAt x b f f.ty.width 0 l)

/-- The flag of a lane; under .x2 the OR of the halves' (R100). -/
def arithFlag (x : Int → Int → Int → Int → Int) (b : Bough) (f : FmtA) (l : Nat) : Bool :=
  if f.sub.getLsbD 7 then
    outOfRange f.ty.signed 16 (exactAt x b f 16 0 l) || outOfRange f.ty.signed 16 (exactAt x b f 16 16 l)
  else outOfRange f.ty.signed f.ty.width (exactAt x b f f.ty.width 0 l)

/-- The effect of R99 and R100. -/
def arith (x : Int → Int → Int → Int → Int) (h : Hdr) (f : FmtA) (t : State) : State :=
  (t.writeA h f f.ty.regs (arithLane x t.b f)).writePd h f.pd (arithFlag x t.b f)

def addX (a b _ cin : Int) : Int := a + b + cin
def subX (a b _ cin : Int) : Int := a - b - cin
def mulX (a b _ _ : Int) : Int := a * b
def mulHiX (w : Nat) (a b _ _ : Int) : Int := (a * b) / 2 ^ w
def madX (a b c _ : Int) : Int := a * b + c
def minX (a b _ _ : Int) : Int := if a ≤ b then a else b
def maxX (a b _ _ : Int) : Int := if a ≤ b then b else a
def absX (a _ _ _ : Int) : Int := a.natAbs

/-- IADD (R99, R100). -/
def execIadd (h : Hdr) (f : FmtA) (s : State) : Host.Outcome State Fault Refusal :=
  issue (.iadd h f) s fun t => .done (arith addX h f t)

/-- ISUB (R99, R100). -/
def execIsub (h : Hdr) (f : FmtA) (s : State) : Host.Outcome State Fault Refusal :=
  issue (.isub h f) s fun t => .done (arith subX h f t)

/-- IMUL (R99). -/
def execImul (h : Hdr) (f : FmtA) (s : State) : Host.Outcome State Fault Refusal :=
  issue (.imul h f) s fun t => .done (arith mulX h f t)

/-- IMULHI (R99). -/
def execImulhi (h : Hdr) (f : FmtA) (s : State) : Host.Outcome State Fault Refusal :=
  issue (.imulhi h f) s fun t => .done (arith (mulHiX f.ty.width) h f t)

/-- The result of IMAD's I form: a · IMM + DST (R98, R99). -/
def madILane (b : Bough) (f : FmtI) (l : Nat) : Nat :=
  let w := f.ty.width
  let a := absNeg false f.nega (intOf f.ty.signed w (b.src f.kndd f.sa f.ty.regs l))
  let d := intOf f.ty.signed w (b.src f.kndd f.dst f.ty.regs l)
  satWrap f.sat f.ty.signed w (a * immInt f.ty f.imm + d)

/-- IMAD, V and I forms (R98, R99). -/
def execImad (h : Hdr) (f : FmtAI) (s : State) : Host.Outcome State Fault Refusal :=
  issue (.imad h f) s fun t =>
    match f with
    | .a f => .done (arith madX h f t)
    | .i f => .done (t.writeI h f f.ty.regs (madILane t.b f))

/-- IMIN (R99). -/
def execImin (h : Hdr) (f : FmtA) (s : State) : Host.Outcome State Fault Refusal :=
  issue (.imin h f) s fun t => .done (arith minX h f t)

/-- IMAX (R99). -/
def execImax (h : Hdr) (f : FmtA) (s : State) : Host.Outcome State Fault Refusal :=
  issue (.imax h f) s fun t => .done (arith maxX h f t)

/-- IABS (R99). -/
def execIabs (h : Hdr) (f : FmtA) (s : State) : Host.Outcome State Fault Refusal :=
  issue (.iabs h f) s fun t => .done (arith absX h f t)

/-! ## Comparison and selection -/

/-- The comparison of a lane (R101). -/
def cmpLane (b : Bough) (f : FmtA) (l : Nat) : Bool :=
  intCond (f.sub.toNat % 8) (b.intA f f.ty.width 0 l) (b.intB f f.ty.width 0 l)

/-- ICMP (R101). -/
def execIcmp (h : Hdr) (f : FmtA) (s : State) : Host.Outcome State Fault Refusal :=
  issue (.icmp h f) s fun t => .done (t.writePd h f.pd (cmpLane t.b f))

/-- The selection of a lane (R102). -/
def selLane (b : Bough) (f : FmtA) (l : Nat) : Nat :=
  let p := (b.pred (f.sub.toNat % 8)).getLsbD l
  if p != f.sub.getLsbD 3 then b.srcA f f.ty.regs l else b.srcB f f.ty.regs l

/-- ISEL (R102). -/
def execIsel (h : Hdr) (f : FmtA) (s : State) : Host.Outcome State Fault Refusal :=
  issue (.isel h f) s fun t => .done (t.writeA h f f.ty.regs (selLane t.b f))

/-! ## Logic (R103) -/

/-- A logic instruction of two sources, in its V and I forms. -/
def logic (op : Nat → Nat → Nat) (h : Hdr) (f : FmtAI) (t : State) : State :=
  match f with
  | .a f => t.writeA h f f.ty.regs fun l => op (t.b.srcA f f.ty.regs l) (t.b.srcB f f.ty.regs l)
  | .i f =>
    t.writeI h f f.ty.regs fun l =>
      op (t.b.src f.kndd f.sa f.ty.regs l) (wrap f.ty.width (immInt f.ty f.imm))

/-- AND (R103). -/
def execAnd (h : Hdr) (f : FmtAI) (s : State) : Host.Outcome State Fault Refusal :=
  issue (.andL h f) s fun t => .done (logic (fun a b => a &&& b) h f t)

/-- OR (R103). -/
def execOr (h : Hdr) (f : FmtAI) (s : State) : Host.Outcome State Fault Refusal :=
  issue (.orL h f) s fun t => .done (logic (fun a b => a ||| b) h f t)

/-- XOR (R103). -/
def execXor (h : Hdr) (f : FmtAI) (s : State) : Host.Outcome State Fault Refusal :=
  issue (.xorL h f) s fun t => .done (logic (fun a b => a ^^^ b) h f t)

/-- NOT (R103). -/
def execNot (h : Hdr) (f : FmtA) (s : State) : Host.Outcome State Fault Refusal :=
  issue (.notL h f) s fun t =>
    .done (t.writeA h f f.ty.regs fun l => 2 ^ f.ty.width - 1 - t.b.srcA f f.ty.regs l)

/-- The three-source truth table of TERN (R103). -/
def ternary (table : BitVec 8) (w a b c : Nat) : Nat :=
  ofBits w fun i => table.getLsbD (4 * bit (a.testBit i) + 2 * bit (b.testBit i) + bit (c.testBit i))

/-- TERN (R103). -/
def execTern (h : Hdr) (f : FmtA) (s : State) : Host.Outcome State Fault Refusal :=
  issue (.tern h f) s fun t =>
    .done (t.writeA h f f.ty.regs fun l =>
      let n := f.ty.regs
      ternary f.sub f.ty.width (t.b.srcA f n l) (t.b.srcB f n l) (t.b.srcC f n l))

/-! ## Shifts (R104, R105) -/

/-- a · 2^min(n, w) mod 2^w. -/
def shlN (w a n : Nat) : Nat := a * 2 ^ min n w % 2 ^ w

/-- ⌊a / 2^min(n, w)⌋, a unsigned. -/
def shrN (w a n : Nat) : Nat := a % 2 ^ w / 2 ^ min n w

/-- ⌊a / 2^min(n, w)⌋, a signed. -/
def shaN (w a n : Nat) : Nat := wrap w (intOf true w a / 2 ^ min n w)

/-- A shift: source A by the unsigned 32-bit amount in source B (R95, R104). -/
def shift (op : Nat → Nat → Nat → Nat) (h : Hdr) (f : FmtA) (t : State) : State :=
  t.writeA h f f.ty.regs fun l => op f.ty.width (t.b.srcA f f.ty.regs l) (t.b.srcB f 1 l)

/-- SHL (R104). -/
def execShl (h : Hdr) (f : FmtA) (s : State) : Host.Outcome State Fault Refusal :=
  issue (.shl h f) s fun t => .done (shift shlN h f t)

/-- SHR (R104). -/
def execShr (h : Hdr) (f : FmtA) (s : State) : Host.Outcome State Fault Refusal :=
  issue (.shr h f) s fun t => .done (shift shrN h f t)

/-- SHA (R104). -/
def execSha (h : Hdr) (f : FmtA) (s : State) : Host.Outcome State Fault Refusal :=
  issue (.sha h f) s fun t => .done (shift shaN h f t)

/-- (F · 2^n)[2w−1:w] with F = a:b (R105). -/
def fshlN (w a b n : Nat) : Nat := (a * 2 ^ w + b) * 2 ^ min n w / 2 ^ w % 2 ^ w

/-- ⌊F / 2^n⌋[w−1:0] with F = a:b (R105). -/
def fshrN (w a b n : Nat) : Nat := (a * 2 ^ w + b) / 2 ^ min n w % 2 ^ w

/-- A funnel shift (R105). -/
def funnel (op : Nat → Nat → Nat → Nat → Nat) (h : Hdr) (f : FmtA) (t : State) : State :=
  t.writeA h f f.ty.regs fun l =>
    op f.ty.width (t.b.srcA f f.ty.regs l) (t.b.srcB f f.ty.regs l) (t.b.srcC f 1 l)

/-- FSHL (R105). -/
def execFshl (h : Hdr) (f : FmtA) (s : State) : Host.Outcome State Fault Refusal :=
  issue (.fshl h f) s fun t => .done (funnel fshlN h f t)

/-- FSHR (R105). -/
def execFshr (h : Hdr) (f : FmtA) (s : State) : Host.Outcome State Fault Refusal :=
  issue (.fshr h f) s fun t => .done (funnel fshrN h f t)

/-! ## Counts, reversal, bit fields and bytes (R106-R108) -/

/-- Set bits among the low `w`. -/
def popcount (w x : Nat) : Nat := (List.range w).foldl (fun n i => n + bit (x.testBit i)) 0

/-- Zero bits above the highest set bit; `w` for zero (R106). -/
def clzN (w x : Nat) : Nat := if x % 2 ^ w = 0 then w else w - 1 - (x % 2 ^ w).log2

/-- Bit i goes to bit w − 1 − i (R106). -/
def brevN (w x : Nat) : Nat := ofBits w fun i => x.testBit (w - 1 - i)

/-- POPC (R106). -/
def execPopc (h : Hdr) (f : FmtA) (s : State) : Host.Outcome State Fault Refusal :=
  issue (.popc h f) s fun t =>
    .done (t.writeA h f 1 fun l => popcount f.ty.width (t.b.srcA f f.ty.regs l))

/-- CLZ (R106). -/
def execClz (h : Hdr) (f : FmtA) (s : State) : Host.Outcome State Fault Refusal :=
  issue (.clz h f) s fun t => .done (t.writeA h f 1 fun l => clzN f.ty.width (t.b.srcA f f.ty.regs l))

/-- BREV (R106). -/
def execBrev (h : Hdr) (f : FmtA) (s : State) : Host.Outcome State Fault Refusal :=
  issue (.brev h f) s fun t =>
    .done (t.writeA h f f.ty.regs fun l => brevN f.ty.width (t.b.srcA f f.ty.regs l))

/-- The position and the effective length of a field descriptor (R107). -/
def fieldOf (w d : Nat) : Nat × Nat :=
  let pos := d % 256
  let len := d / 256 % 256
  (pos, if pos < w then min len (w - pos) else 0)

/-- Bits of a word, sign-extended from the top one for an i type; 0 for a length of 0 (R107). -/
def bfxN (signed : Bool) (w a d : Nat) : Nat :=
  let (pos, len) := fieldOf w d
  if len = 0 then 0 else wrap w (intOf signed len (a / 2 ^ pos))

/-- A word with a field replaced (R107). -/
def bfiN (w a d c : Nat) : Nat :=
  let (pos, len) := fieldOf w d
  ofBits w fun i => if pos ≤ i && i < pos + len then a.testBit (i - pos) else c.testBit i

/-- BFX (R107). -/
def execBfx (h : Hdr) (f : FmtA) (s : State) : Host.Outcome State Fault Refusal :=
  issue (.bfx h f) s fun t =>
    .done (t.writeA h f f.ty.regs fun l =>
      bfxN f.ty.signed f.ty.width (t.b.srcA f f.ty.regs l) (t.b.srcB f 1 l))

/-- BFI (R107). -/
def execBfi (h : Hdr) (f : FmtA) (s : State) : Host.Outcome State Fault Refusal :=
  issue (.bfi h f) s fun t =>
    .done (t.writeA h f f.ty.regs fun l =>
      bfiN f.ty.width (t.b.srcA f f.ty.regs l) (t.b.srcB f 1 l) (t.b.srcC f f.ty.regs l))

/-- Byte k of BSEL's result, by its selector (R108). -/
def bselByte (a c sel : Nat) : Nat :=
  let k := sel % 8
  let x := if k < 4 then a / 256 ^ k % 256 else c / 256 ^ (k - 4) % 256
  match sel / 16 % 4 with
  | 0 => x
  | 1 => 0
  | 2 => if x ≥ 128 then 255 else 0
  | _ => 255

/-- The four selected bytes (R108). -/
def bselN (a sel c : Nat) : Nat :=
  (List.range 4).foldl (fun n k => n + 256 ^ k * bselByte a c (sel / 256 ^ k % 256)) 0

/-- BSEL (R108). -/
def execBsel (h : Hdr) (f : FmtA) (s : State) : Host.Outcome State Fault Refusal :=
  issue (.bsel h f) s fun t =>
    .done (t.writeA h f 1 fun l => bselN (t.b.srcA f 1 l) (t.b.srcB f 1 l) (t.b.srcC f 1 l))

/-! ## Moves (R109) -/

/-- MOV (R109). -/
def execMov (h : Hdr) (f : FmtA) (s : State) : Host.Outcome State Fault Refusal :=
  issue (.mov h f) s fun t => .done (t.writeA h f f.ty.regs fun l => t.b.srcB f f.ty.regs l)

/-- IMM as MOVI stores it: extended for an integer type, unchanged for f32, its low half for f16 and
bf16 (R109). -/
def moviValue (f : FmtI) : Nat :=
  match f.ty with
  | .f32 => f.imm.toNat
  | .f16 | .bf16 => f.imm.toNat % 2 ^ 16
  | t => wrap t.width (immInt t f.imm)

/-- MOVI (R109). -/
def execMovi (h : Hdr) (f : FmtI) (s : State) : Host.Outcome State Fault Refusal :=
  issue (.movi h f) s fun t => .done (t.writeI h f f.ty.regs fun _ => moviValue f)

/-- MOVW (R109). -/
def execMovw (h : Hdr) (f : FmtMovw) (s : State) : Host.Outcome State Fault Refusal :=
  issue (.movw h f) s fun t =>
    if f.scalar then .done (t.modB fun b => b.setSreg f.dst.toNat f.imm)
    else .done (t.modB fun b => b.setLanes h.tr f.dst.toNat 2 (t.b.guard h) fun _ => f.imm.toNat)

end Sys2Proof.Machine
end

