-- ==== Sys2Proof/Machine/Lanes.lean ====
section
/-! DEFINITION. Class 0: across lanes and predicates, the loop nest, addresses and the repeat prefix
(spec/04_integer.md R110-R123). -/

namespace Sys2Proof.Machine

/-- LANEID (R110). -/
def execLaneid (h : Hdr) (f : FmtA) (s : State) : Host.Outcome State Fault Refusal :=
  issue (.laneid h f) s fun t => .done (t.writeA h f 1 fun l => l)

/-! ## XLANE (R111) -/

/-- Source A of another lane: by the window where that lane executes, else the banked value (R111). -/
def Bough.srcOf (b : Bough) (exec : Mask) (f : FmtA) (l : Nat) : Nat :=
  if exec.getLsbD l then b.srcA f f.ty.regs l
  else if f.ty.regs = 2 then (b.banked f.sa.toNat l).toNat + 2 ^ 32 * (b.banked (f.sa.toNat + 1) l).toNat
  else (b.banked f.sa.toNat l).toNat

/-- The lane that XLANE names; none when it lies outside the segment (R111). -/
def xlaneSrc (sub : BitVec 8) (l x : Nat) : Option Nat :=
  let w := 32 / 2 ^ (sub.toNat / 4)
  let base := l - l % w
  match sub.toNat % 4 with
  | 0 => some (base + x % w)
  | 1 => some (base + (l % w + x) % w)
  | 2 =>
    let j := (l : Int) + signed32 x
    if (base : Int) ≤ j && j < (base + w : Nat) then some j.toNat else none
  | _ => some (base + ((l % w) ^^^ (x % w)))

/-- The value and the predicate of a lane. -/
def xlane (b : Bough) (exec : Mask) (f : FmtA) (l : Nat) : Nat × Bool :=
  match xlaneSrc f.sub l (b.srcB f 1 l) with
  | some j => (b.srcOf exec f j, exec.getLsbD j)
  | none => (b.srcA f f.ty.regs l, false)

/-- XLANE (R111). -/
def execXlane (h : Hdr) (f : FmtA) (s : State) : Host.Outcome State Fault Refusal :=
  issue (.xlane h f) s fun t =>
    let m := t.b.guard h
    .done ((t.writeA h f f.ty.regs fun l => (xlane t.b m f l).1).writePd h f.pd fun l => (xlane t.b m f l).2)

/-! ## VOTE (R112) -/

/-- SB of a lane for VOTE. -/
def Bough.voteSb (b : Bough) (f : FmtA) (l : Nat) : Nat := b.srcB f f.ty.regs l

/-- Participating lanes whose predicate holds. -/
def Bough.voters (b : Bough) (h : Hdr) (f : FmtA) : Mask :=
  let p := b.pred (f.sub.toNat / 8 % 8)
  b.guard h &&& (if f.sub.getLsbD 6 then ~~~p else p)

/-- The value that DST receives, by mode (R112). -/
def voteValue (b : Bough) (h : Hdr) (f : FmtA) : W64 :=
  let m := b.guard h
  let v := b.voters h f
  match f.sub.toNat % 8 with
  | 0 => BitVec.zeroExtend 64 v
  | 1 => BitVec.ofNat 64 v.list.length
  | 2 => if v ≠ 0 then 1 else 0
  | 3 => if v = m then 1 else 0
  | 4 => if m.list.all fun l => b.voteSb f l == b.voteSb f m.lowest then 1 else 0
  | 5 => extScalar f.ty (b.voteSb f m.lowest)
  | _ =>
    let l := (b.sreg f.sc.toNat).toNat % 32
    let x := if m.getLsbD l then b.voteSb f l
      else if f.ty.regs = 2 then
        (b.banked f.sb.toNat l).toNat + 2 ^ 32 * (b.banked (f.sb.toNat + 1) l).toNat
      else (b.banked f.sb.toNat l).toNat
    extScalar f.ty x

/-- VOTE (R112). -/
def execVote (h : Hdr) (f : FmtA) (s : State) : Host.Outcome State Fault Refusal :=
  issue (.vote h f) s fun t =>
    let v := voteValue t.b h f
    .done ((t.modB fun b => b.setSreg f.dst.toNat v).writePd h f.pd fun _ => v == 1)

/-! ## Predicates (R113) -/

/-- PLOP (R113). -/
def execPlop (h : Hdr) (f : FmtA) (s : State) : Host.Outcome State Fault Refusal :=
  issue (.plop h f) s fun t =>
    let p (r : BitVec 8) (l : Nat) : Nat := bit ((t.b.pred r.toNat).getLsbD l)
    .done (t.writePd h f.pd fun l => f.sub.getLsbD (4 * p f.sa l + 2 * p f.sb l + p f.sc l))

/-- p0 to p6 of a lane with p7 in bit 7 (R113). -/
def Bough.packed (b : Bough) (l : Nat) : Nat := (b.lanePreds l).toNat + 128

/-- PMOV: .pack writes the predicates into DST, .unpack sets them from SA (R113). -/
def execPmov (h : Hdr) (f : FmtA) (s : State) : Host.Outcome State Fault Refusal :=
  issue (.pmov h f) s fun t =>
    if f.sub == 0 then .done (t.writeA h f 1 fun l => t.b.packed l)
    else
      .done ((List.range 7).foldl (fun u k =>
        u.modB fun b => b.setPred k (t.b.guard h) (Mask.ofPred fun l => (t.b.srcA f 1 l).testBit k)) t)

/-! ## The loop nest (R114-R118, R120) -/

/-- FIRST(k, l) (R114). -/
def Bough.lnFirst (b : Bough) (k l : Nat) : W32 :=
  if b.lnMode k = 1 then b.lnStart k + BitVec.ofNat 32 l * b.lnStep k else b.lnStart k

/-- In the body of a region whose source is level k, an instruction that sets level k is illegal
(R120, R151). -/
def State.lnForbidden (s : State) (h : Hdr) (k : Nat) : Bool :=
  match s.regionOf s.b, s.b.refill with
  | some r, some f => !r.task && r.level == k && (s.b.guard h &&& f.body) ≠ 0
  | _, _ => false

/-- The level, mode and values that LNSET writes (R115). -/
def lnset (h : Hdr) (f : FmtY) (t : State) : State :=
  let k := f.sub.toNat % 4
  let mode := f.sub.toNat / 4
  let lo (r : BitVec 6) : W32 := BitVec.truncate 32 (t.ss r)
  let t := t.modB fun b =>
    (((b.setNest (4 * k) (lo f.s1)).setNest (4 * k + 1) (lo f.s2)).setNest (4 * k + 2) (lo f.s3)).setNest
      (4 * k + 3) (BitVec.ofNat 32 mode)
  t.modB fun b => (t.b.guard h).list.foldl (fun b l =>
    b.setInd k l (if mode = 2 then t.b.vreg f.vd.toNat l else t.b.lnFirst k l)) b

/-- LNSET (R115). -/
def execLnset (h : Hdr) (f : FmtY) (s : State) : Host.Outcome State Fault Refusal :=
  issue (.lnset h f) s fun t =>
    if t.lnForbidden h (f.sub.toNat % 4) then .trap cRefill 0 0 else .done (lnset h f t)

/-- The loop of R116 for one lane, from level j on: the bough and whether the lane is live. -/
def lnadvLane (nest : Bool) (l : Nat) : Nat → Nat → Bough → Bough × Bool
  | 0, _, b => (b, false)
  | n + 1, j, b =>
    let inc := if b.lnMode j = 1 then 32 * b.lnStep j else b.lnStep j
    let b := b.setInd j l (b.ind j l + inc)
    if !passedBound (b.ind j l) (b.lnBound j) (b.lnStep j) then (b, true)
    else if !nest || j = 3 then (b, false)
    else lnadvLane nest l n (j + 1) (b.setInd j l (b.lnFirst j l))

/-- LNADV's effect (R116). -/
def lnadv (h : Hdr) (f : FmtY) (t : State) : State :=
  let m := t.b.guard h
  let k := f.sub.toNat % 4
  let go (acc : Bough × Mask) (l : Nat) : Bough × Mask :=
    let (b, live) := lnadvLane (f.sub.getLsbD 2) l 4 k acc.1
    (b, if live then acc.2 ||| (1#32 <<< l) else acc.2)
  let (b, live) := m.list.foldl go (t.b, 0#32)
  t.modB fun _ => b.setPd f.pd m live

/-- LNADV (R116). -/
def execLnadv (h : Hdr) (f : FmtY) (s : State) : Host.Outcome State Fault Refusal :=
  issue (.lnadv h f) s fun t =>
    if t.lnForbidden h (f.sub.toNat % 4) then .trap cRefill 0 0 else .done (lnadv h f t)

/-- The scalar items of LNGET (R117). -/
def lngetScalar (b : Bough) (f : FmtY) : W64 :=
  let n := f.sub.toNat
  let k := n % 4
  let set := f.imm.toNat % 16
  if n < 0x14 then BitVec.signExtend 64 (b.lnStart k)
  else if n < 0x18 then BitVec.signExtend 64 (b.lnBound k)
  else if n < 0x1C then BitVec.signExtend 64 (b.lnStep k)
  else if n < 0x20 then BitVec.zeroExtend 64 (b.lnMode k)
  else b.coefAt set (n - 0x20)

/-- LNGET (R117). -/
def execLnget (h : Hdr) (f : FmtY) (s : State) : Host.Outcome State Fault Refusal :=
  issue (.lnget h f) s fun t =>
    if f.sub.toNat < 4 then
      .done (t.modB fun b =>
        b.setLanes h.tr f.vd.toNat 1 (t.b.guard h) fun l => (t.b.ind f.sub.toNat l).toNat)
    else .done (t.writeSd f (lngetScalar t.b f))

/-- COEF (R118). -/
def execCoef (h : Hdr) (f : FmtY) (s : State) : Host.Outcome State Fault Refusal :=
  issue (.coef h f) s fun t =>
    let k := f.imm.toNat % 16
    if f.sub == 0 then
      .done (t.modB fun b =>
        ((b.setCoef k 0 (t.ss f.s1)).setCoef k 1 (t.ss f.s2)).setCoef k 2 (t.ss f.s3))
    else .done (t.modB fun b => (b.setCoef k 3 (t.ss f.s1)).setCoef k 4 (t.ss f.s2))

/-! ## ADDR and REP -/

/-- An address is valid for its space (R119). -/
def addrValid (sp : Space) (a : W64) : Bool :=
  match sp with
  | .localSp => a.toNat ≤ 0xBFFFF
  | _ => a.toNat < 2 ^ 56

/-- ADDR (R119). -/
def execAddr (h : Hdr) (f : FmtM) (s : State) : Host.Outcome State Fault Refusal :=
  issue (.addr h f) s fun t =>
    .done ((t.modB fun b => b.setLanes h.tr f.dv.toNat 2 (t.b.guard h) fun l => (t.b.addr f l).toNat).writePd
      h f.pd fun l => addrValid f.sp (t.b.addr f l))

/-- The count of REP: IMM32[15:0], or a scalar register (R121, R122). -/
def repCount (f : FmtY) (t : State) : Nat :=
  if f.sub.getLsbD 4 then (t.ss f.s1).toNat else f.imm.toNat % 2 ^ 16

/-- REP (R121, R122): the next instruction is repeated, by the steps that follow. -/
def execRep (h : Hdr) (f : FmtY) (s : State) : Host.Outcome State Fault Refusal :=
  issue (.rep h f) s fun t =>
    let n := repCount f t
    if n > 65535 then .trap cIllegal 0 0
    else
      let r : Rep := { fields := BitVec.ofNat 4 f.sub.toNat, stride := BitVec.ofNat 8 (f.imm.toNat / 2 ^ 16),
                       done := 0, left := n }
      .done (t.modB fun b => { b with rep := some r })

end Sys2Proof.Machine
end

