-- ==== Sys2Proof/Machine/Convert.lean ====
section
/-! DEFINITION. Class 1: conversions, block-scaled conversions and dot products (spec/06_numeric.md
R159-R161, R165-R168, R177-R181). -/

namespace Sys2Proof.Machine

/-! ## CVT (R177) -/

/-- The source type of a conversion. -/
def srcTy (f : FmtA) : Ty := (cvtSrc f).getD .f32

/-- Operand A of a conversion, as bits of its source type. -/
def cvtA (b : Bough) (f : FmtA) (l : Nat) : Nat :=
  operand b.fmt (srcTy f) (f.abs.getLsbD 2) (f.neg.getLsbD 2) (b.srcA f (srcTy f).regs l)

/-- An integer operand of a conversion, by its own type. -/
def cvtInt (b : Bough) (f : FmtA) (l : Nat) : Int :=
  intOf (srcTy f).signed (srcTy f).width (b.srcA f (srcTy f).regs l)

/-- An integer of a type as it stands in its registers: a narrow signed one is sign-extended (R177). -/
def intBits (t : Ty) (x : Int) : Nat := if t.width < 32 then wrap 32 x else wrap t.width x

/-- An integer reduced mod 2^w by its type, as the type reads it. -/
def reduce (t : Ty) (x : Int) : Int := intOf t.signed t.width (wrap t.width x)

/-- An integer clamped to the range of a type. -/
def clampTy (t : Ty) (x : Int) : Int := satInt (typeMin t.signed t.width) (typeMax t.signed t.width) x

/-- CVT.ff (R177). -/
def execCvtFf (h : Hdr) (f : FmtA) (s : State) : Host.Outcome State Fault Refusal :=
  issue (.cvtFf h f) s fun t =>
    let r := roundingOf t.b.fmt f.rm
    .done ((t.writeA h f f.ty.regs fun l =>
      flush (fmtFTZ t.b.fmt) f.ty ((fmtOf f.ty).roundBy r f.sat l ((fmtOf (srcTy f)).val (cvtA t.b f l)))).modB
      fun b => b.advancePhase r)

/-- A value rounded to an integer of a type and saturated; NaN gives 0 (R177). -/
def fpToInt (m : Mode) (t : Ty) : Fp → Int
  | .nan => 0
  | .inf neg => if neg then typeMin t.signed t.width else typeMax t.signed t.width
  | .fin neg n e => clampTy t (roundInt (.by_ m) 0 neg n e)

/-- CVT.fi (R177). -/
def execCvtFi (h : Hdr) (f : FmtA) (s : State) : Host.Outcome State Fault Refusal :=
  issue (.cvtFi h f) s fun t =>
    .done (t.writeA h f f.ty.regs fun l =>
      intBits f.ty (fpToInt (modeOf t.b.fmt f.rm) f.ty ((fmtOf (srcTy f)).val (cvtA t.b f l))))

/-- CVT.if (R177). -/
def execCvtIf (h : Hdr) (f : FmtA) (s : State) : Host.Outcome State Fault Refusal :=
  issue (.cvtIf h f) s fun t =>
    .done (t.writeA h f f.ty.regs fun l =>
      flush (fmtFTZ t.b.fmt) f.ty
        ((fmtOf f.ty).round (modeOf t.b.fmt f.rm) false (ofDyadic false (cvtInt t.b f l) 0)))

/-- CVT.ii (R177). -/
def execCvtIi (h : Hdr) (f : FmtA) (s : State) : Host.Outcome State Fault Refusal :=
  issue (.cvtIi h f) s fun t =>
    .done (t.writeA h f f.ty.regs fun l =>
      intBits f.ty (if f.sat then clampTy f.ty (cvtInt t.b f l) else reduce f.ty (cvtInt t.b f l)))

/-- CVT.pack (R177). -/
def execCvtPack (h : Hdr) (f : FmtA) (s : State) : Host.Outcome State Fault Refusal :=
  issue (.cvtPack h f) s fun t =>
    let r := roundingOf t.b.fmt f.rm
    let one (k raw l e : Nat) : Nat :=
      flush (fmtFTZ t.b.fmt) f.ty ((fmtOf f.ty).roundBy r f.sat ((2 * l + e) % 32)
        (fmtF32.val (operand t.b.fmt .f32 (f.abs.getLsbD k) (f.neg.getLsbD k) raw)))
    .done ((t.writeA h f 1 fun l =>
      one 2 (t.b.srcA f 1 l) l 0 + 2 ^ 16 * one 1 (t.b.srcB f 1 l) l 1).modB fun b => b.advancePhase r)

/-- CVT.unpack (R177). -/
def execCvtUnpack (h : Hdr) (f : FmtA) (s : State) : Host.Outcome State Fault Refusal :=
  issue (.cvtUnpack h f) s fun t =>
    .done (t.writeA h f 2 fun l =>
      elements .f32 true fun e =>
        flush (fmtFTZ t.b.fmt) .f32 (fmtF32.round .rn false ((fmtOf f.ty).val
          (operand t.b.fmt f.ty (f.abs.getLsbD 2) (f.neg.getLsbD 2) (element f.ty (t.b.srcA f 1 l) e)))))

/-! ## Blocks (R159-R161, R178, R179) -/

/-- The value of a nibble (R159). -/
def nibble (n : Nat) : Int := if n < 8 then n else (n : Int) - 16

/-- A whole number as a value. -/
def ofInt (n : Int) : Fp := ofDyadic false n 0

/-- The elements of an O4 block from byte `i` on; `given` says that byte `i` was given up (R159). -/
def o4From (bytes : List Nat) : Bool → List Fp
  | given =>
    match bytes with
    | [] => []
    | b :: rest =>
      if given then .fin false 0 0 :: .fin false 0 0 :: o4From rest false
      else
        let lo := b % 16
        let hi := b / 16
        let x := match rest with
          | n :: _ => fmtE4m3.val n
          | [] => .fin false 0 0
        if lo = 8 then x :: (if hi = 8 then .fin false 0 0 else ofInt (nibble hi)) :: o4From rest true
        else if hi = 8 then ofInt (nibble lo) :: x :: o4From rest true
        else ofInt (nibble lo) :: ofInt (nibble hi) :: o4From rest false

/-- Byte `k` of a number. -/
def byteOf (x k : Nat) : Nat := x / 256 ^ k % 256

/-- The 32 element values of a block, before the scale (R158, R159): the block's bytes as a number. -/
def blockValues (t : Ty) (x : Nat) : List Fp :=
  match t with
  | .o4 => o4From ((List.range 16).map (byteOf x)) false
  | .e2m1 => (List.range 32).map fun i => fmtE2m1.val (x / 16 ^ i % 16)
  | t => (List.range 32).map fun i => (fmtOf t).val (byteOf x i)

/-- An element times its scale, rounded to X19 (R160, R161). -/
def expandX19 (s8 : Nat) (v : Fp) : Nat :=
  if s8 = 0xFF then fmtX19.nan else fmtX19.round .rn false (fpScale ((s8 : Int) - 127) v)

/-- The block of a vector register that UNPK reads: lanes 0 to 7 (R179). -/
def unpkBlock (b : Bough) (exec : Mask) (f : FmtA) : Nat :=
  (List.range 8).foldl (fun n l => n + 2 ^ (32 * l) * b.srcOf exec f l) 0

/-- UNPK (R179). -/
def execUnpk (h : Hdr) (f : FmtA) (s : State) : Host.Outcome State Fault Refusal :=
  issue (.unpk h f) s fun t =>
    let vals := blockValues f.ty (unpkBlock t.b (t.b.guard h) f)
    let s8 := (t.b.sreg f.sb.toNat).toNat % 256
    .done (t.writeA h f 1 fun l =>
      flush (fmtFTZ t.b.fmt) .f32
        (fmtF32.round .rn false (fmtX19.val (expandX19 s8 ((vals[l]?).getD .nan)))))

/-- The greatest exponent offset of a block format (R178). -/
def blockEM : Ty → Int
  | .e4m3 => 8
  | .e5m2 => 15
  | _ => 2

/-- The magnitude of a finite value. -/
def Fp.abs : Fp → Fp
  | .fin _ m e => .fin false m e
  | x => x

/-- The greater of two magnitudes. -/
def maxMag (a b : Fp) : Fp := if a.lt b then b else a

/-- M of R178 over the magnitudes of a block. -/
def blockMax (t : Ty) (xs : List Fp) : Fp :=
  let zero := Fp.fin false 0 0
  let m := xs.foldl maxMag zero
  match t with
  | .o4 =>
    let i := xs.findIdx fun x => x.eqv m
    let r := (xs.eraseIdx i).foldl maxMag zero
    if r.isZero then m else r
  | _ => m

/-- The state of OutlierPack (R178): codes so far, marked bytes, and given-up bytes with their values. -/
structure Pack where
  codes : List Nat
  marked : List Nat
  given : List (Nat × Nat)

/-- One element of OutlierPack: its rounded integer and its E4M3 code. -/
def packStep (p : Pack) (x : Nat × Int × Nat) : Pack :=
  let (l, q, e4) := x
  let i := l / 2
  if p.given.any fun g => g.1 == i then { p with codes := p.codes ++ [0] }
  else if q.natAbs ≤ 7 then { p with codes := p.codes ++ [(q % 16).toNat] }
  else if i < 15 && !p.marked.contains i then
    { codes := p.codes ++ [8], marked := i :: p.marked, given := (i + 1, e4) :: p.given }
  else { p with codes := p.codes ++ [(satInt (-7) 7 q % 16).toNat] }

/-- The bytes of an O4 block as a number (R178). -/
def packO4 (r : Rounding) (ys : List Fp) : Nat :=
  let item (x : Fp × Nat) : Nat × Int × Nat :=
    match x.1 with
    | .fin neg m e => (x.2, roundInt r x.2 neg m e, fmtE4m3.roundBy r true x.2 x.1)
    | _ => (x.2, 0, 0)
  let p := (ys.zipIdx.map item).foldl packStep { codes := [], marked := [], given := [] }
  (List.range 16).foldl (fun n i =>
    let b := match p.given.find? fun g => g.1 == i with
      | some g => g.2
      | none => (p.codes[2 * i]?).getD 0 + 16 * (p.codes[2 * i + 1]?).getD 0
    n + 256 ^ i * b) 0

/-- The scale and the bytes of a block (R178). -/
def packBlock (t : Ty) (r : Rounding) (xs : List Fp) : Nat × Nat :=
  if xs.any fun x => match x with
      | .fin _ _ _ => false
      | _ => true then (0xFF, 0)
  else
    let m := blockMax t (xs.map Fp.abs)
    let e := if m.isZero then 0 else m.exp - blockEM t
    let s8 := (satInt 0 254 (e + 127)).toNat
    let ys := xs.map (fpScale (127 - (s8 : Int)))
    match t with
    | .o4 => (s8, packO4 r ys)
    | t =>
      let w := (fmtOf t).width
      (s8, ys.zipIdx.foldl (fun n x => n + 2 ^ (w * x.2) * (fmtOf t).roundBy r true x.2 x.1) 0)

/-- CVTB and CVTB.rs (R178). -/
def execCvtb (h : Hdr) (f : FmtA) (s : State) : Host.Outcome State Fault Refusal :=
  issue (.cvtb h f) s fun t =>
    let r := if f.rm = .rs then roundingOf t.b.fmt f.rm else .by_ (modeOf t.b.fmt f.rm)
    let xs := lanes.map fun l => fmtF32.val (operand t.b.fmt .f32 false false (t.b.srcA f 1 l))
    let (s8, bytes) := packBlock f.ty r xs
    .done (((t.writeA h f 1 fun l => bytes / 2 ^ (32 * l)).modB fun b =>
      b.setSreg f.sb.toNat (BitVec.ofNat 64 s8)).modB fun b => b.advancePhase r)

/-! ## Dot products (R167, R168, R180, R181) -/

/-- `n` registers of a lane as one number. -/
def Bough.wide (b : Bough) (r : Nat) (l : Nat) : Nat → Nat
  | 0 => 0
  | n + 1 => (b.vreg r l).toNat + 2 ^ 32 * b.wide (r + 1) l n

/-- The products of two lists of values. -/
def products (a b : List Fp) : List Fp := List.zipWith Fp.mul a b

/-- DOT16 (R180). -/
def execDot16 (h : Hdr) (f : FmtA) (s : State) : Host.Outcome State Fault Refusal :=
  issue (.dot16 h f) s fun t =>
    let m := modeOf t.b.fmt f.rm
    let xs (r l : Nat) : List Fp :=
      (List.range 16).map fun i => (fmtOf f.ty).val (byteOf (t.b.wide r l 4) i)
    .done (t.writeA h f 1 fun l =>
      result t.b.fmt .f32 f.sat (fmtF32.round m false
        (dotSum m 25 5 (products (xs f.sa.toNat l) (xs f.sb.toNat l)) (addendF32 t.b f l))))

/-- DOT4 (R181). -/
def execDot4 (h : Hdr) (f : FmtA) (s : State) : Host.Outcome State Fault Refusal :=
  issue (.dot4 h f) s fun t =>
    let m := modeOf t.b.fmt f.rm
    let xs (k r l : Nat) : List Fp :=
      (List.range 4).map fun i =>
        (fmtOf f.ty).val (operand t.b.fmt f.ty (f.abs.getLsbD k) (f.neg.getLsbD k)
          (element f.ty (t.b.wide r l 2) i))
    .done (t.writeA h f 1 fun l =>
      result t.b.fmt .f32 f.sat (fmtF32.round m false
        (dotSum m 32 3 (products (xs 2 f.sa.toNat l) (xs 1 f.sb.toNat l)) (addendF32 t.b f l))))

/-- DOT8 (R181). -/
def execDot8 (h : Hdr) (f : FmtA) (s : State) : Host.Outcome State Fault Refusal :=
  issue (.dot8 h f) s fun t =>
    let xs (signed : Bool) (r l : Nat) : List Int :=
      (List.range 8).map fun i => intOf signed 8 (byteOf (t.b.wide r l 2) i)
    .done (t.writeA h f 1 fun l =>
      let a := xs f.ty.signed f.sa.toNat l
      let b := xs (!f.sub.getLsbD 0) f.sb.toNat l
      satWrap f.sat true 32 ((List.zipWith (fun x y => x * y) a b).foldl (fun s x => s + x)
        (signed32 (t.b.srcC f 1 l))))

end Sys2Proof.Machine
end

