-- ==== Sys2Proof/Machine/AtomOps.lean ====
section
/-! DEFINITION. The steps of an atomic operation (spec/09_atomics.md R266, R267), and level-counter
arithmetic (R278, R280), on the bits of one location. -/

namespace Sys2Proof.Machine

/-! ## ATOM and RED (R267) -/

/-- An operation on the elements of a location: one, or two where the width is twice the element's. -/
def perElement (ty : Ty) (n : Nat) (g : Nat → Nat → Nat) (a b : Nat) : Nat :=
  elements ty (decide (8 * n = 2 * (fmtOf ty).width)) fun h => g (element ty a h) (element ty b h)

/-- One step of an atomic of `n` bytes: the new value, from the old one and a lane's operand (R267). -/
def atomStep (aop : Nat) (ty : Ty) (n old x : Nat) : Nat :=
  let w := 8 * n
  let lt (a b : Nat) : Bool := intOf ty.signed w a < intOf ty.signed w b
  match aop with
  | 0 => (old + x) % 2 ^ w
  | 1 => perElement ty n (fun a b =>
      (fmtOf ty).round .rn false (((fmtOf ty).val a).add .rn ((fmtOf ty).val b))) old x
  | 2 => if lt x old then x else old
  | 3 => if lt old x then x else old
  | 4 => perElement ty n (minMax false true ty) old x
  | 5 => perElement ty n (minMax true true ty) old x
  | 6 => old &&& x
  | 7 => old ||| x
  | 8 => old ^^^ x
  | 9 => x
  | 10 => if old ≥ x then 0 else old + 1
  | _ => if old = 0 || old > x then x else old - 1

/-- The steps of a batch, in lane order: the old value that each lane saw, and the final value (R263). -/
def atomBatch (step : Nat → Nat → Nat) : Nat → List Nat → List Nat × Nat
  | v, [] => ([], v)
  | v, x :: xs =>
    let (olds, w) := atomBatch step (step v x) xs
    (v :: olds, w)

/-- The steps of a CAS batch: (compare, new) by lane (R268). -/
def casBatch : Nat → List (Nat × Nat) → List Nat × Nat
  | v, [] => ([], v)
  | v, x :: xs =>
    let (olds, w) := casBatch (if v = x.1 then x.2 else v) xs
    (v :: olds, w)

/-! ## Level counters (R276-R280) -/

/-- R278, on 64-bit values. -/
def mix64 (x : W64) : W64 :=
  let x := (x ^^^ (x >>> 30)) * 0xBF58476D1CE4E5B9
  let x := (x ^^^ (x >>> 27)) * 0x94D049BB133111EB
  x ^^^ (x >>> 31)

/-- Bits [63:32] of the draw with sequence number `n` for a counter address (R278). -/
def drawOf (seed ctr n : Nat) : Nat :=
  (mix64 (BitVec.ofNat 64 seed ^^^ BitVec.ofNat 64 ctr ^^^ BitVec.ofNat 64 n)).toNat / 2 ^ 32

/-- The top level of a width: code 0 is .w8, 1 is .w4. -/
def lcTop (w : Nat) : Nat := if w = 0 then 255 else 15

/-- ⌊x^(1/2^k)⌋. -/
def iroot (x : Nat) : Nat → Nat
  | 0 => x
  | k + 1 => iroot (isqrt x) k

/-- Fractional bits of the level arithmetic; irrational powers of the base are cut there, which leaves
every comparison and every rounding as the exact reals have it (log 16). -/
def lcQ : Nat := 512

/-- b^L in units of 2^-lcQ, b = 2^(1/2^k). -/
def lcPow (k l : Nat) : Nat :=
  let m := 2 ^ k
  iroot (2 ^ (m * lcQ + l % m)) k * 2 ^ (l / m)

/-- (b^L − 1)/(b − 1) = b^0 + … + b^(L−1), in units of 2^-lcQ. -/
def lcEst (k : Nat) : Nat → Nat
  | 0 => 0
  | l + 1 => lcEst k l + lcPow k l

/-- T(L) = ⌊2^32 · b^−L⌋ (R280), exactly. -/
def lcThreshold (k l : Nat) : Nat :=
  let m := 2 ^ k
  if l > 32 * m then 0 else iroot (2 ^ (32 * m - l)) k

/-- One step of LCADD (R280). -/
def lcaddStep (w k d l : Nat) : Nat := if l < lcTop w && d < lcThreshold k l then l + 1 else l

/-- The whole steps of LCMERGE (R280). -/
def lcWhole (w k : Nat) : Nat → Nat → Nat → Nat × Nat
  | 0, l, r => (l, r)
  | i + 1, l, r => if l < lcTop w && r ≥ lcPow k l then lcWhole w k i (l + 1) (r - lcPow k l) else (l, r)

/-- One step of LCMERGE with a source level (R280). -/
def lcmergeStep (w k d m s : Nat) : Nat :=
  let s := min s (lcTop w)
  let (l, r) := lcWhole w k 4 (max m s) (lcEst k (min m s))
  if l < lcTop w && r > 0 && d < min (2 ^ 32 * r / lcPow k l) (2 ^ 32) then l + 1 else l

/-- What LCREAD returns: the estimate as an f64 (R280). -/
def lcRead (k l : Nat) : Nat := fmtF64.round .rn false (ofDyadic false (lcEst k l) (-(lcQ : Int)))

/-- The byte of a counter address (R279). -/
def lcByte (w ctr : Nat) : Nat := if w = 0 then ctr else ctr / 2

/-- The level that a byte holds for a counter address. -/
def lcLevel (w ctr x : Nat) : Nat := if w = 0 then x else x / 16 ^ (ctr % 2) % 16

/-- A byte with the level of a counter address replaced. -/
def lcPut (w ctr x l : Nat) : Nat :=
  if w = 0 then l else x - lcLevel w ctr x * 16 ^ (ctr % 2) + l * 16 ^ (ctr % 2)

/-- The steps of an LCADD batch, each with a draw. -/
def lcaddBatch (w ctr k seed : Nat) : Nat → Nat → Nat → Nat
  | 0, _, l => l
  | c + 1, n, l => lcaddBatch w ctr k seed c (n + 1) (lcaddStep w k (drawOf seed ctr n) l)

/-- The steps of an LCMERGE batch, each with a draw. -/
def lcmergeBatch (w ctr k seed : Nat) : List Nat → Nat → Nat → Nat
  | [], _, l => l
  | v :: vs, n, l => lcmergeBatch w ctr k seed vs (n + 1) (lcmergeStep w k (drawOf seed ctr n) l v)

/-! ## What a write does to its line -/

/-- The bytes that a write puts into its line, given the line's value and the number of its first draw:
offset, count and value. -/
def WriteKind.out (x : WriteKind) (pa n0 line : Nat) : Nat × Nat × Nat :=
  let at_ (off n : Nat) : Nat := line / 2 ^ (8 * off) % 2 ^ (8 * n)
  match x with
  | .bytes n v => (pa % 128, n, v)
  | .zero => (0, 128, 0)
  | .atom aop ty n vs => (pa % 128, n, (atomBatch (atomStep aop ty n) (at_ (pa % 128) n) vs).2)
  | .lcadd w ctr k seed c =>
    let o := lcByte w ctr % 128
    (o, 1, lcPut w ctr (at_ o 1) (lcaddBatch w ctr k seed c n0 (lcLevel w ctr (at_ o 1))))
  | .lcmerge w ctr k seed vs =>
    let o := lcByte w ctr % 128
    (o, 1, lcPut w ctr (at_ o 1) (lcmergeBatch w ctr k seed vs n0 (lcLevel w ctr (at_ o 1))))

/-- The draws that a write takes (R278). -/
def WriteKind.draws : WriteKind → Nat
  | .lcadd _ _ _ _ c => c
  | .lcmerge _ _ _ _ vs => vs.length
  | _ => 0

/-- The entries that a write makes in a log: one for each lane of a batch (R249). -/
def WriteKind.entries : WriteKind → Nat
  | .atom _ _ _ vs => vs.length
  | .lcadd _ _ _ _ c => c
  | .lcmerge _ _ _ _ vs => vs.length
  | _ => 1

/-- The line after a write. -/
def WriteKind.apply (x : WriteKind) (pa n0 line : Nat) : Nat :=
  let (o, n, v) := x.out pa n0 line
  spliceBytes line o n v

end Sys2Proof.Machine
end

