-- ==== Sys2Proof/Machine/Home.lean ====
section
/-! DEFINITION. A line at its home: writes in its serialisation (spec/08_ordering.md R225), the Heartwood
of deterministic launches (R245-R252), leases (spec/07_memory.md R195, R197), and the L1, die-place and
peer views of a line (R194, R257, R260, R390). -/

namespace Sys2Proof.Machine

/-! ## Leases -/

/-- The home's lease record for a line (R195); 0 where none was granted. -/
def State.leaseOf (s : State) (line : Nat) : Nat :=
  ((s.leases.find? fun e => e.1 == line).map fun e => e.2).getD 0

/-- Grants a lease of a length: its end, and the record raised (R195). -/
def State.grant (s : State) (line len : Nat) : Nat × State :=
  let g := s.time + len
  (g, { s with leases := upsert (fun e => e.1 == line) (line, max (s.leaseOf line) g) s.leases })

/-- The lease length of a launch (R195). -/
def State.leaseLen (s : State) (part launch : Nat) : Nat :=
  let own := ((s.launch part launch).map fun l => l.desc.lease).getD 0
  if own = 0 then (s.part part).leaseLen.toNat else own

/-! ## The Heartwood -/

/-- The value of a line of memory. -/
def State.line (s : State) (k : Nat) : Nat := s.rd (128 * k) 128

/-- The order of application (R249): copse id, bough index, program order, lane order. -/
def Writer.before (a b : Writer) : Bool :=
  a.copse < b.copse || (a.copse == b.copse && (a.idx < b.idx || (a.idx == b.idx &&
    (a.seq < b.seq || (a.seq == b.seq && a.lane ≤ b.lane)))))

/-- Puts a write in its place, after those that come before it or with it. -/
def insertWrite (x : HwWrite) : List HwWrite → List HwWrite
  | [] => [x]
  | y :: r => if y.by_.before x.by_ then y :: insertWrite x r else x :: y :: r

/-- A log in the order of application. -/
def sortWrites (l : List HwWrite) : List HwWrite := l.foldl (fun acc x => insertWrite x acc) []

/-- The entries of a log. -/
def logEntries (l : List HwWrite) : Nat := l.foldl (fun n w => n + w.kind.entries) 0

/-- Applies writes in order to a line; draws are numbered by the phase and the write's position (R249). -/
def applyWrites (phase : Nat) (ws : List HwWrite) (line : Nat) : Nat :=
  (ws.foldl (fun (a : Nat × Nat) w =>
    (a.1 + w.kind.entries, w.kind.apply w.pa (2 ^ 32 * phase + a.1) a.2)) (0, line)).2

/-- The phases that a launch has ended. -/
def State.phaseOf (s : State) (part launch : Nat) : Nat := ((s.launch part launch).map fun l => l.phases).getD 0

/-- The line as a copse of the entry's launch reads it (R248): the current value of a line that is private
to it, and else the phase copy with its own writes. -/
def Heart.view (h : Heart) (phase copse cur : Nat) : Nat :=
  if !h.shared && h.owner == copse then cur
  else applyWrites phase (sortWrites (h.log.filter fun w => w.by_.copse == copse)) h.copy.toNat

/-- The entry of a line, of whichever launch. -/
def State.heartOf (s : State) (line : Nat) : Option Heart := s.heart.find? fun h => h.line == line

def State.putHeart (s : State) (h : Heart) : State :=
  { s with heart := upsert (fun x => x.line == h.line) h s.heart }

/-- The logged writes that a slice holds. -/
def State.logged (s : State) (slice : Nat) : Nat :=
  ((s.heart.filter fun h => homeOf (128 * h.line) == slice).map fun h => logEntries h.log).foldl (· + ·) 0

/-- Neither a slice's own storage nor the partition's spill area has room for one more logged write
(R251). -/
def State.heartFull (s : State) (part line : Nat) : Bool :=
  let slice := homeOf (128 * line)
  let slices := (s.heart.filter fun h => h.part == part).map fun h => homeOf (128 * h.line)
  let spilled := (slices.eraseDups.map fun k => s.logged k - Config.heartRoom k).foldl (· + ·) 0
  s.logged slice ≥ Config.heartRoom slice && spilled ≥ (s.part part).dspsize.toNat / 128

/-- The draw number of a slice's next draw outside a DET launch (R278). -/
def State.drawNo (s : State) (slice : Nat) : Nat :=
  ((s.draws.find? fun e => e.1 == slice).map fun e => e.2).getD 0

/-- Applies a write to memory at once. -/
def State.applyMem (s : State) (x : WriteKind) (pa n0 : Nat) : State :=
  match x with
  | .zero => s.zeroLine (pa / 128)
  | _ =>
    let a := match x with
      | .lcadd w ctr _ _ _ | .lcmerge w ctr _ _ _ => lcByte w ctr
      | _ => pa
    let (o, n, v) := x.out pa n0 (s.line (a / 128))
    s.wr (a / 128 * 128 + o) n v

/-- A race entry (R252): dropped beyond 4,096. -/
def State.addRace (s : State) (part launch : Nat) (e : RaceEnt) : State :=
  s.modLaunch part launch fun l =>
    if l.races.length ≥ 4096 then l.event 3 else { l with races := l.races ++ [e] }

/-- The writes of a launch go into logs: it is deterministic, and it has not been killed (R247, R253). -/
def State.logs (s : State) (by_ : Writer) : Bool :=
  by_.det && (s.launch by_.part by_.launch).any fun l => !l.killed

/-- The number of the next draw that a write takes at a line (R278): in a DET launch the phase's, at the
place that the write has in the line's log, or would have had where it is not logged (log 16), and
else the slice's. A line of a peer has its home in the peer's package, whose count is a free value (log 16). -/
def State.drawAt (s : State) (by_ : Writer) (line : Nat) : Nat :=
  if by_.det then
    2 ^ 32 * s.phaseOf by_.part by_.launch +
      match s.heartOf line with
      | some h => if h.part == by_.part && h.launch == by_.launch then logEntries h.log else 0
      | none => 0
  else if isPeer (128 * line) then (Config.freeWord s.free).toNat % 2 ^ 64
  else s.drawNo (homeOf (128 * line))

/-- The outcome of a write: logged or not, and the state. -/
def State.heartWrite (s : State) (by_ : Writer) (va pa : Nat) (x : WriteKind) (atomic : Bool) :
    Bool × State :=
  let line := pa / 128
  let phase := s.phaseOf by_.part by_.launch
  let n0 := s.drawAt by_ line
  let outside (h : Heart) : State :=
    (s.applyMem x pa n0).putHeart { h with copy := BitVec.ofNat 1024 (x.apply pa n0 h.copy.toNat) }
  match s.heartOf line with
  | none =>
    if !s.logs by_ then (false, s.applyMem x pa n0)
    else if s.heartFull by_.part line then
      (false, (s.applyMem x pa n0).modLaunch by_.part by_.launch fun l => l.event 2)
    else
      let h : Heart :=
        { part := by_.part, launch := by_.launch, line, shared := false, owner := by_.copse,
          copy := BitVec.ofNat 1024 (s.line line), log := [{ by_, pa, kind := x }], writers := [by_.copse],
          atom := atomic || (s.launch by_.part by_.launch).any fun l => l.caught.contains line }
      (true, (s.applyMem x pa n0).putHeart h)
  | some h =>
    if !s.logs by_ then (false, (outside h).foreign h.part h.launch)
    else if !(h.part == by_.part && h.launch == by_.launch) then
      (false, ((outside h).foreign h.part h.launch).foreign by_.part by_.launch)
    else if s.heartFull by_.part line then
      (false, (outside h).modLaunch by_.part by_.launch fun l => l.event 2)
    else
      let shared := h.shared || h.owner != by_.copse
      let s := if shared && !atomic then s else s.applyMem x pa n0
      let met := h.atom || atomic
      let s := if shared && met then s.modLaunch by_.part by_.launch fun l => l.event 0 else s
      let first := !h.writers.contains by_.copse && h.writers.length == 1
      let race := ((s.launch by_.part by_.launch).any fun l => l.desc.racechk) && first
      let s := if race then
          s.addRace by_.part by_.launch
            { va := va / 128 * 128, phase, owner := h.owner, second := by_.copse }
        else s
      (true, s.putHeart
        { h with shared, atom := met, log := h.log ++ [{ by_, pa, kind := x }],
                 writers := if first then h.writers ++ [by_.copse] else h.writers })

/-- A value-returning atomic of a deterministic launch executed on a line and wrote nothing (R247, R268):
NONDET is set if the line is SHARED, or when it becomes so. -/
def State.heartCaught (s : State) (by_ : Writer) (line : Nat) : State :=
  if !s.logs by_ then s
  else
    match s.heartOf line with
    | some h =>
      if h.part == by_.part && h.launch == by_.launch then
        let s := s.putHeart { h with atom := true }
        if h.shared then s.modLaunch by_.part by_.launch fun l => l.event 0 else s
      else s
    | none => s.modLaunch by_.part by_.launch fun l => { l with caught := line :: l.caught }

/-- A home performs a write: its completion time, and the state (R196, R197, R247, R250). -/
def State.homeWrite (s : State) (by_ : Writer) (va pa : Nat) (sysCoh : Bool) (x : WriteKind)
    (atomic : Bool) : Nat × State :=
  let (logged, s) := s.heartWrite by_ va pa x atomic
  let slice := homeOf pa
  let s := if by_.det || x.draws = 0 then s
    else if isPeer pa then s.freeValue
    else { s with draws := upsert (fun e => e.1 == slice) (slice, s.drawNo slice + x.draws) s.draws }
  (if logged || sysCoh then s.time else max s.time (s.leaseOf (pa / 128)), s)

/-- What a read of the home returns to an agent (R225, R248). -/
def State.homeRead (s : State) (part launch copse : Nat) (det : Bool) (pa n : Nat) : Nat :=
  match s.heartOf (pa / 128) with
  | some h =>
    if det && h.part == part && h.launch == launch then
      h.view (s.phaseOf part launch) copse (s.line h.line) / 2 ^ (8 * (pa % 128)) % 2 ^ (8 * n)
    else s.rd pa n
  | none => s.rd pa n

/-- A read of the home meets an uncorrectable error (R202, R356): its machine check. A read that a Heartwood
entry answers does not read the line's storage. -/
def State.homeCheck (s : State) (part launch : Nat) (det : Bool) (pa n : Nat) : Option Nat :=
  if det && (s.heartOf (pa / 128)).any (fun h => h.part == part && h.launch == launch) then none
  else (s.badAt pa n).map fun x => checkOf 0x40 x

/-! ## Who writes -/

/-- The launch is deterministic (R82). -/
def State.isDet (s : State) (part launch : Nat) : Bool := (s.launch part launch).any fun l => l.desc.det

/-- A writer: a bough, at a place of its program order. -/
def State.writer (s : State) (b : Bough) (seq : Nat) : Writer :=
  { part := b.part, launch := b.launch, copse := b.cid, idx := b.idx, det := s.isDet b.part b.launch, seq,
    lane := 0 }

/-- A writer outside every launch: the host, a peer, or the device itself. -/
def outsider (part : Nat) : Writer := { part, launch := 0, copse := 0, idx := 0, det := false, seq := 0, lane := 0 }

end Sys2Proof.Machine
end

