-- ==== Sys2Proof/Machine/Memory.lean ====
section
/-! DEFINITION. Class 3, lane by lane: loads, stores, prefetches, zero lines and probes
(spec/07_memory.md R185-R189, R194-R208, R226), the steps that carry them out, and the bank roles
(R191-R193). -/

namespace Sys2Proof.Machine

/-! ## Translation of the lanes (R188, R202) -/

/-- One access: its lane (32 for the one access of AM = 01), its addresses, its bytes and leaf entry. -/
structure Piece where
  lane : Nat
  va : Nat
  pa : Nat
  n : Nat
  off : Nat
  pte : W64
  deriving DecidableEq, Repr

/-- The accesses that make up `n` bytes at an address: one if it is aligned, else single bytes (R202). -/
def piecesOf (a n : Nat) : List (Nat × Nat × Nat) :=
  if a % n = 0 then [(a, n, 0)] else (List.range n).map fun i => ((a + i) % 2 ^ 64, 1, i)

/-- The lanes and addresses of a format-M instruction: one access for AM = 01 (R202). -/
def Bough.accesses (b : Bough) (f : FmtM) (g : Mask) : List (Nat × Nat) :=
  if f.am = .uniform then [(32, (b.addr f 0).toNat)] else g.list.map fun l => (l, (b.addr f l).toNat)

/-- What translating the lanes gives: the accesses that go on, the lanes that fault (with cause and
address), and the pages that need a walk. -/
structure Xlated where
  good : List Piece
  bad : List (Nat × Nat × Nat)
  miss : List Nat
  deriving DecidableEq, Repr

/-- Translates one lane's bytes; any access of it that faults makes the lane fault. -/
def State.xlateLane (s : State) (b : Bough) (write : Bool) (n : Nat) (x : Xlated) (la : Nat × Nat) : Xlated :=
  let rs := (piecesOf la.2 n).map fun p => (p, s.xlate b p.1 write)
  let miss := rs.filterMap fun r => if r.2 = .miss then some (r.1.1 / 2 ^ 16) else none
  let fault := rs.findSome? fun r => match r.2 with
    | .fault c => some (c, r.1.1)
    | _ => none
  if miss ≠ [] then { x with miss := x.miss ++ miss }
  else
    match fault with
    | some (c, va) => { x with bad := x.bad ++ [(la.1, c, va)] }
    | none => { x with good := x.good ++ rs.filterMap fun r => match r.2 with
        | .ok pa pte _ => some { lane := la.1, va := r.1.1, pa, n := r.1.2.1, off := r.1.2.2, pte }
        | _ => none }

def State.xlateLanes (s : State) (b : Bough) (write : Bool) (n : Nat) (as_ : List (Nat × Nat)) : Xlated :=
  as_.foldl (fun x la => s.xlateLane b write n x la) { good := [], bad := [], miss := [] }

/-- The lanes that a list of lane numbers stands for. -/
def laneMask (g : Mask) (ls : List Nat) : Mask :=
  if ls.contains 32 then g else Mask.ofPred fun l => ls.contains l

/-- The end of an instruction in which lanes fault: they park (R131), or a machine check ends the launch. -/
def faultRes (s t : State) (m : Mask) (cause va : Nat) : Res :=
  if isCheck cause then .go (s.takeCheck cause (BitVec.ofNat 64 va))
  else .done (s.faultLanes t m cause (BitVec.ofNat 64 va))

/-- The common course of a GLOBAL access (R188): the walks are waited for, a peer without a link is a
machine check (R390), the lanes that fault park, and `eff` acts for the others; a machine check of any lane ends
the launch (R356), and no lane parks then. `own` gives a fault of the instruction's own for an access. -/
def access (s t : State) (write : Bool) (n : Nat) (as_ : List (Nat × Nat)) (g : Mask)
    (own : Piece → Option Nat) (eff : State → List Piece → Mask → State) : Res :=
  let x := s.xlateLanes s.b write n as_
  if x.miss ≠ [] then .hold .walk (s.requestWalks s.b.uid s.b.part s.b.core x.miss.eraseDups)
  else
    match x.good.find? fun p => s.unreachable s.b.part p.pa with
    | some p => .go (s.machineCheck 0x43 (peerDetail p.pa) (BitVec.ofNat 64 p.va))
    | none =>
      let mine := x.good.filterMap fun p => (own p).map fun c => (p.lane, c, p.va)
      let bad := x.bad ++ mine
      let good := x.good.filter fun p => !bad.any fun e => e.1 == p.lane
      let m := laneMask g (bad.map fun e => e.1)
      let t := if good = [] then t else eff t good (g &&& ~~~m)
      let faults := m.list.filterMap fun l => bad.find? fun e => e.1 == l || e.1 == 32
      match (faults.find? fun e => isCheck e.2.1).or faults.head? with
      | none => .done t
      | some e => faultRes s t m e.2.1 e.2.2

/-! ## Loads -/

/-- Accesses to a page or a window that never use the L1 (R246, R276, R381). -/
def State.bypasses (s : State) (b : Bough) (p : Piece) : Bool :=
  pteLC p.pte || isPeer p.pa || isHost p.pa || s.isDet b.part b.launch

/-- Two runs of bytes overlap. -/
def bytesMeet (a n b m : Nat) : Bool := a < b + m && b < a + n

/-- The bytes that a store covers. -/
def Store.span (x : Store) : Nat × Nat :=
  match x.kind with
  | .bytes n _ => (x.pa, n)
  | .zero => (x.pa / 128 * 128, 128)
  | .atom _ _ n _ => (x.pa, n)
  | .lcadd w ctr _ _ _ => (lcByte w ctr, 1)
  | .lcmerge w ctr _ _ _ => (lcByte w ctr, 1)

/-- A store or an atomic of a core, issued before `seq` and not acknowledged, overlaps bytes: a load of
them waits (R226, R269). -/
def State.unacked (s : State) (core seq pa n : Nat) : Bool :=
  s.stores.any (fun x => x.core == core && x.by_.seq < seq && bytesMeet x.span.1 x.span.2 pa n) ||
  s.acks.any (fun x => x.core == core && bytesMeet x.pa x.n pa n) ||
  s.atoms.any fun x => x.core == core && x.id < seq && x.aop != 14 &&
    x.groups.any fun g => !g.done && bytesMeet g.pa x.size pa n

/-- A later store of the same bough has changed the L1's bytes already (R196). -/
def State.overtaken (s : State) (x : Load) (a : LoadAcc) : Bool :=
  s.stores.any fun y => y.uid == x.uid && y.by_.seq > x.id && bytesMeet y.span.1 y.span.2 a.pa a.n

/-- An older load of the same bough has no answer yet for bytes of an access: they are read in program order
(R234). -/
def State.readsBefore (s : State) (x : Load) (a : LoadAcc) : Bool :=
  s.loads.any fun y => y.uid == x.uid && y.id < x.id && !y.ro && y.n != 0 &&
    y.acc.any fun c => c.got.isNone && bytesMeet c.pa c.n a.pa a.n

/-- The L1 answers an access, if it may (R194, R195); the sector becomes the most recently used. -/
def State.l1Answer (s : State) (x : Load) (a : LoadAcc) : Option (Nat × State) :=
  if a.raw || s.unacked x.core x.id a.pa a.n || s.overtaken x a || s.readsBefore x a then none
  else
    ((s.core x.core).l1Hit s.time a.pa).map fun e =>
      (e.read a.pa a.n, s.modCore x.core fun c => c.l1Fill e)

/-- The L1 may keep a sector that it fetches: no write of the core to its bytes is on its way, so that a fill never
overwrites a byte that a store of the core has written and no copy is from before an atomic of the core (R196, R269). -/
def State.mayKeep (s : State) (core sec : Nat) : Bool :=
  let meets (pa n : Nat) : Bool := bytesMeet pa n (32 * sec) 32
  !s.stores.any (fun x => x.core == core && meets x.span.1 x.span.2) &&
  !s.acks.any (fun x => x.core == core && meets x.pa x.n) &&
  !s.atoms.any fun x => x.core == core && x.aop != 14 && x.groups.any fun g =>
    !g.done && g.place != 0 && meets g.pa x.size

/-- The home answers an access (R195): the bytes, and the lease and the fill that go with them. -/
def State.homeAnswer (s : State) (x : Load) (a : LoadAcc) : Nat × State :=
  let v := s.homeRead x.part x.launch x.cid (s.isDet x.part x.launch) a.pa a.n
  let s := s.fillLine a.pa
  if a.raw then (v, s)
  else
    let (g, s) := if a.sysCoh then (0, s) else s.grant (a.pa / 128) (s.leaseLen x.part x.launch)
    if !x.fill || !s.mayKeep x.core (a.pa / 32) then (v, s)
    else
      (v, s.modCore x.core fun c =>
        c.l1Fill { pa := a.pa / 32, bytes := BitVec.ofNat 256 (s.rd (a.pa / 32 * 32) 32), until_ := g,
                   sysCoh := a.sysCoh })

/-- Records the answer to access j of load k. -/
def State.setGot (s : State) (k j v : Nat) : State :=
  { s with loads := s.loads.map fun x =>
      if x.id == k then
        { x with acc := (x.acc.zipIdx).map fun e => if e.2 == j then { e.1 with got := some v } else e.1 }
      else x }

/-- A load starts: its transient results take their places in the window, and what the L1 can answer is
answered (R92, R195). -/
def State.startLoad (t : State) (x : Load) : State :=
  let (id, t) := t.fresh
  let x := { x with id, tok := t.b.itok }
  let t := if x.tr then t.modB fun b => b.setLanes true x.dv ((x.n + 3) / 4) x.mask fun _ => 0 else t
  let (t, acc) := x.acc.foldl (fun (r : State × List LoadAcc) a =>
    match a.got, r.1.l1Answer x a with
    | none, some (v, t) => (t, r.2 ++ [{ a with got := some v }])
    | _, _ => (r.1, r.2 ++ [a])) (t, [])
  { t with loads := t.loads ++ [{ x with acc }] }

/-- The scope of an acquire, as a load holds it. -/
def acqOf (f : FmtM) : Nat := if !f.ord then 0 else if f.sc = .sys then 2 else 1

/-- A load of a bough, with no access yet. -/
def Bough.newLoad (b : Bough) (h : Hdr) (f : FmtM) (m : Mask) : Load :=
  { id := 0, uid := b.uid, core := b.core, part := b.part, launch := b.launch, cid := b.cid, tok := 0, pc := b.pc,
    dv := f.dv.toNat, n := f.sz.bytes, ty := f.ty, tr := h.tr, mask := m, ro := false, acq := acqOf f,
    fill := f.ch != 1, repdone := b.repdone, ords := b.ordinals, acc := [] }

/-- The access that a piece makes. -/
def State.accOf (s : State) (b : Bough) (p : Piece) : LoadAcc :=
  { lane := p.lane, pa := p.pa, n := p.n, off := p.off, raw := s.bypasses b p, sysCoh := pteSysCoh p.pte,
    va := p.va, got := none }

/-- A LOCAL access names a register of the bough that something in flight will write (R90). -/
def State.windowBusy (s : State) (n : Nat) (as_ : List (Nat × Nat)) : Bool :=
  as_.any fun la => (List.range n).any fun i =>
    let a := la.2 + i
    s.b.regbase ≤ a && a < s.b.regbase + 128 * s.b.nregs &&
      (s.pendingVec s.b).any fun y => overlap ((a - s.b.regbase) / 128, 1) y

/-- LD (R202, R203). -/
def execLd (h : Hdr) (f : FmtM) (s : State) : Host.Outcome State Fault Refusal :=
  issue (.ld h f) s fun t =>
    let g := s.b.guard h
    let as_ := t.b.accesses f g
    let n := f.sz.bytes
    let x := s.b.newLoad h f g
    if f.sp = .localSp then
      if s.windowBusy n as_ then .hold .scoreboard s
      else
        .done (t.startLoad { x with acc := as_.map fun la =>
          { lane := la.1, pa := la.2, n, off := 0, raw := true, sysCoh := false, va := la.2,
            got := some (t.localRdN s.b.core s.b.part s.b.launch s.b.cid la.2 n) } })
    else
      access s t false n as_ g (fun _ => none) fun t ps m =>
        t.startLoad { x with mask := m, acc := ps.map fun p => s.accOf s.b p }

/-- A read by the read-only path meets an uncorrectable error (R356). -/
def State.roCheck (s : State) (p : Piece) : Option Nat :=
  if s.roBad s.b.core p.pa then some (checkOf 0x40 p.pa) else none

/-- LDRO (R204): each access is answered by the read-only path as it issues. -/
def execLdro (h : Hdr) (f : FmtM) (s : State) : Host.Outcome State Fault Refusal :=
  issue (.ldro h f) s fun t =>
    let g := s.b.guard h
    access s t false f.sz.bytes (t.b.accesses f g) g s.roCheck fun t ps m =>
      let (t, acc) := ps.foldl (fun (r : State × List LoadAcc) p =>
        let (v, t) := r.1.roRead s.b.core p.pa p.n
        (t, r.2 ++ [{ s.accOf s.b p with raw := true, got := some v }])) (t, [])
      t.startLoad { s.b.newLoad h f g with ro := true, mask := m, acc }

/-- PREF.l1 (R205): a load miss of the addressed sectors that returns to no register. -/
def execPrefL1 (h : Hdr) (f : FmtM) (s : State) : Host.Outcome State Fault Refusal :=
  issue (.prefL1 h f) s fun t =>
    let (t, acc) := (t.b.accesses f (s.b.guard h)).foldl (fun (r : State × List LoadAcc) la =>
      match r.1.xlateNow s.b.core s.b.part la.2 false with
      | (.ok pa pte _, t) =>
        let p : Piece := { lane := la.1, va := la.2, pa := pa / 32 * 32, n := 32, off := 0, pte }
        (t, if t.bypasses s.b p then r.2 else r.2 ++ [t.accOf s.b p])
      | (_, t) => (t, r.2)) (t, [])
    .done (if acc = [] then t
           else t.startLoad { s.b.newLoad h f 0 with n := 0, tr := false, acq := 0, fill := true, acc })

/-- PREF.die (R205): each lane's line comes into its home's data storage; a lane whose address has no
translation does nothing. -/
def execPrefDie (h : Hdr) (f : FmtM) (s : State) : Host.Outcome State Fault Refusal :=
  issue (.prefDie h f) s fun t =>
    .done ((t.b.accesses f (s.b.guard h)).foldl (fun t la =>
      match t.xlateNow s.b.core s.b.part la.2 false with
      | (.ok pa _ _, t) => t.fillLine pa
      | (_, t) => t) t)

/-- The home answers access j of load k, or its data hold an uncorrectable error, which is a machine check
but for a prefetch (R202, R205). -/
def State.homeGives (s : State) (x : Load) (k j : Nat) (a : LoadAcc) : State :=
  match s.homeCheck x.part x.launch (s.isDet x.part x.launch) a.pa a.n with
  | none => let (v, s) := s.homeAnswer x a; s.setGot k j v
  | some c =>
    if x.n = 0 then s.setGot k j 0
    else if s.doomed x.part x.launch then s
    else
      let m := if a.lane = 32 then x.mask else 1#32 <<< a.lane
      let u := s.dataCheck x.uid c x.pc m a.va x.repdone x.ords
      if u.doomed x.part x.launch then u else u.setGot k j 0

/-- LEASE_GRANT (R195, R226): access j of load k is answered, once no earlier store of the core to its
bytes, and no earlier load of the bough of them, is outstanding. -/
def execLeaseGrant (k j : Nat) (s : State) : Host.Outcome State Fault Refusal :=
  match s.loads.find? fun x => x.id == k with
  | none => .next s
  | some x =>
    match x.acc[j]? with
    | none => .next s
    | some a =>
      if a.got.isSome || s.unacked x.core x.id a.pa a.n || s.readsBefore x a then .next s
      else
        match s.l1Answer x a with
        | some (v, s) => .next (s.setGot k j v)
        | none => .next (s.homeGives x k j a)

/-- A loaded value as the registers take it (R201). -/
def extendLoad (ty : Ty) (n v : Nat) : Nat := if n < 4 && ty.signed then wrap 32 (intOf true (8 * n) v) else v

/-- The value that a load returns to a lane. -/
def Load.value (x : Load) (l : Nat) : Nat :=
  extendLoad x.ty x.n ((x.acc.filter fun a => a.lane == l || a.lane == 32).foldl (fun v a =>
    v + (a.got.getD 0) * 2 ^ (8 * a.off)) 0)

/-- A late result is written: to the banks, or to what the window still holds of it (R92). -/
def Bough.lateWrite (b : Bough) (tr : Bool) (r l : Nat) : Nat → Nat → Bough
  | 0, _ => b
  | n + 1, v =>
    let w := BitVec.ofNat 32 v
    let b := if tr then
        { b with fw := b.fw.map fun e => if e.lane == l && e.reg == r then { e with val := w } else e }
      else b.setVreg false r l w
    b.lateWrite tr (r + 1) l n (v / 2 ^ 32)

/-- LOAD_DATA_RETURN of a load (R202): every access has been answered. -/
def State.loadReturn (s : State) (x : Load) : State :=
  let s := { s with loads := s.loads.filter fun y => y.id != x.id }
  let s := s.modBough x.uid fun b => x.mask.list.foldl (fun b l =>
    b.lateWrite x.tr x.dv l ((x.n + 3) / 4) (x.value l)) b
  let s := if x.acq = 2 then s.modCore x.core fun c => c.cinvSys else s
  s.settleTok x.uid x.tok

/-! ## Stores -/

/-- The L1 of a core as a store leaves it at issue: its live bytes updated in place (R196). -/
def State.l1Store (s : State) (core pa n v : Nat) : State := s.modCore core fun c => c.l1Update s.time pa n v

/-- An atomic of the core has yet to act on the L1's copy of some bytes: a store of them issues after it, for
the L1 performs what it holds in one order (R257, R269). -/
def State.l1Busy (s : State) (core : Nat) (ps : List Piece) (n : Nat) : Bool :=
  s.atoms.any fun x => x.core == core && x.groups.any fun g =>
    !g.done && g.place == 0 && ps.any fun p => bytesMeet g.pa x.size (p.pa / n * n) (max n p.n)

/-- A write leaves for its home, in the bough's program order (R196). -/
def State.sendStore (s : State) (b : Bough) (p : Piece) (kind : WriteKind) : State :=
  let (id, s) := s.fresh
  let x : Store :=
    { id, uid := b.uid, core := b.core, by_ := s.writer b id, tok := s.b.itok, va := p.va, pa := p.pa,
      sysCoh := pteSysCoh p.pte || isHost p.pa, kind, thru := 0 }
  { s with stores := s.stores ++ [x] }

/-- The low `n` bytes of the source registers of a lane, for the bytes that a piece covers. -/
def Bough.storeData (b : Bough) (f : FmtM) (l : Nat) : Nat :=
  b.wide f.dv.toNat l f.sz.regs % 2 ^ (8 * f.sz.bytes)

/-- The lane whose value an access stores: of AM = 01 the highest executing one (R202). -/
def storeLane (g : Mask) (l : Nat) : Nat := if l = 32 then (g.list.getLast?).getD 0 else l

/-- ST (R202, R203). -/
def execSt (h : Hdr) (f : FmtM) (s : State) : Host.Outcome State Fault Refusal :=
  issue (.st h f) s fun t =>
    let g := s.b.guard h
    let as_ := t.b.accesses f g
    let n := f.sz.bytes
    let data (l : Nat) : Nat := t.b.storeData f (storeLane g l)
    if f.ord && !s.releaseReady s.b (f.sc == .core) then .hold .fence s
    else if f.sp = .localSp then
      if s.windowBusy n as_ then .hold .scoreboard s
      else
        .done (as_.foldl (fun t la =>
          t.localWrN s.b.core s.b.part s.b.launch s.b.cid la.2 n (data la.1)) t)
    else if s.l1Busy s.b.core (s.xlateLanes s.b true n as_).good 1 then .hold .scoreboard s
    else
      access s t true n as_ g (fun _ => none) fun t ps _ =>
        ps.foldl (fun t p =>
          let v := data p.lane / 2 ^ (8 * p.off) % 2 ^ (8 * p.n)
          (t.sendStore s.b p (.bytes p.n v)).l1Store s.b.core p.pa p.n v) t

/-- The first piece of each line. -/
def firstOfLine : List Nat → List Piece → List Piece
  | _, [] => []
  | seen, p :: ps =>
    if seen.contains (p.pa / 128) then firstOfLine seen ps
    else p :: firstOfLine (p.pa / 128 :: seen) ps

/-- ZLINE (R206): every line named is zeroed once. -/
def execZline (h : Hdr) (f : FmtM) (s : State) : Host.Outcome State Fault Refusal :=
  issue (.zline h f) s fun t =>
    let g := s.b.guard h
    let as_ := t.b.accesses f g
    if s.l1Busy s.b.core (s.xlateLanes s.b true 1 as_).good 128 then .hold .scoreboard s
    else
    access s t true 1 as_ g (fun _ => none) fun t ps _ =>
      (firstOfLine [] ps).foldl (fun t p =>
        (t.sendStore s.b { p with pa := p.pa / 128 * 128 } .zero).l1Store s.b.core (p.pa / 128 * 128) 128 0) t

/-- Something of the same bough that precedes a write to its line is outstanding: the home performs one
bough's writes, and answers its reads, in program order (R196, R224). The writes of one instruction, to which the
manual gives no order, go in lane order, and those of one lane in rising order of their bytes (log 59). -/
def State.mustWait (s : State) (uid seq line : Nat) : Bool :=
  s.stores.any (fun y => y.uid == uid && y.by_.seq < seq && y.pa / 128 == line) ||
  s.loads.any (fun y => y.uid == uid && y.id < seq && y.acc.any fun a => a.got.isNone && a.pa / 128 == line) ||
  s.atoms.any fun y => y.uid == uid && y.id < seq && y.groups.any fun g => !g.done && g.pa / 128 == line

/-- An earlier result that the same core or die place writes through to some of a write's bytes is outstanding:
the place's results reach the home in its own order (R260, R262). -/
def State.thruBefore (s : State) (x : Store) : Bool :=
  x.thru != 0 && s.stores.any fun y => y.thru == x.thru && y.id < x.id && bytesMeet y.span.1 y.span.2 x.span.1 x.span.2

/-- The acknowledgement of a write that a home has performed. -/
def State.sendAck (s : State) (uid core launch tok pa n done : Nat) : State :=
  let (id, s) := s.fresh
  { s with acks := s.acks ++ [{ id, uid, tok, pa, n, core, done, launch }] }

/-- STORE_PERFORM (R196, R247, R250). -/
def execStorePerform (k : Nat) (s : State) : Host.Outcome State Fault Refusal :=
  match s.stores.find? fun x => x.id == k with
  | none => .next s
  | some x =>
    if s.mustWait x.uid x.by_.seq (x.pa / 128) || s.thruBefore x then .next s
    else
      let s := { s with stores := s.stores.filter fun y => y.id != k }
      let (done, s) := s.homeWrite x.by_ x.va x.pa x.sysCoh x.kind false
      .next (s.sendAck x.uid x.core (lkey x.by_.part x.by_.launch) x.tok x.span.1 x.span.2 done)

/-- STORE_ACKNOWLEDGEMENT (R196, R228); the WH of a saved bough moves in its context too (R270). -/
def execStoreAcknowledgement (k : Nat) (s : State) : Host.Outcome State Fault Refusal :=
  match s.acks.find? fun x => x.id == k with
  | none => .next s
  | some x =>
    let s := { s with acks := s.acks.filter fun y => y.id != k }
    let s := s.modBough x.uid fun b => { b with wh := max b.wh x.done }
    let s := s.modCore x.core fun c => { c with wh := max c.wh x.done }
    let raise (l : Launch) : Launch :=
      if lkey l.part l.id == x.launch then { l with wlast := max l.wlast x.done } else l
    let s := { s with launches := s.launches.map raise }
    .next ((s.settleTok x.uid x.tok).refreshBlock x.uid)

/-! ## Walks -/

/-- WALK_COMPLETE (R188, R375): a translation is installed, or the boughs that wait for it learn of the
fault, which their instruction then raises. -/
def execWalkComplete (k : Nat) (s : State) : Host.Outcome State Fault Refusal :=
  match s.walks.find? fun w => w.id == k with
  | none => .next s
  | some w =>
    if !s.walkRuns w then .next s
    else
    let va := w.va * 2 ^ 16
    let s := { s with walks := s.walks.filter fun x => x.id != k }
    let (r, s) : WalkRes × State :=
      match s.walk w.part va with
      | .fail c => ({ va := w.va, cause := c, pte := 0, size := 0 }, s)
      | .leaf pte size =>
        let e : TlbEnt := { part := w.part, va := va / 2 ^ pageShift size * 2 ^ pageShift size, size, pte }
        let cores := (w.joined.filterMap fun u => (s.bough u).map fun b => b.core).eraseDups
        ({ va := w.va, cause := 0, pte, size }, cores.foldl (fun s c => s.tlbFill c e) s)
    .next (s.modBoughs (fun b => w.joined.contains b.uid) fun b =>
      { b with walkRes := r :: b.walkRes, wait := if b.wait = .walk then .none else b.wait })

/-! ## XPROBE (R207) -/

/-- What XPROBE reports of an address. -/
def State.probe (s : State) (core part va : Nat) (write : Bool) : Nat × State :=
  match s.xlateNow core part va false with
  | (.ok _ pte size, s) =>
    let w := pteWritable pte
    (joinBits [(1, bit (!write || w)), (1, bit w), (3, 0), (2, size), (1, bit (pteSysCoh pte)),
      (1, bit (pteSysAtom pte)), (1, bit (pteLC pte)), (2, pteApl pte)], s)
  | (_, s) => (joinBits [(5, 0), (2, 3)], s)

/-- XPROBE (R207). -/
def execXprobe (h : Hdr) (f : FmtM) (s : State) : Host.Outcome State Fault Refusal :=
  issue (.xprobe h f) s fun t =>
    let g := s.b.guard h
    let b := t.b
    let (t, rs) := (g.list).foldl (fun (r : State × List (Nat × Nat)) l =>
      let (v, t) := r.1.probe s.b.core s.b.part (b.addr f l).toNat (f.aop == 1)
      (t, r.2 ++ [(l, v)])) (t, [])
    let v (l : Nat) : Nat := ((rs.find? fun e => e.1 == l).map fun e => e.2).getD 0
    .done (t.modB fun b => (b.setLanes h.tr f.dv.toNat 1 g v).setPd f.pd g (Mask.ofPred fun l => v l % 2 == 1))

/-! ## CINV (R208) -/

/-- CINV.sys (R208). -/
def execCinvSys (h : Hdr) (f : FmtY) (s : State) : Host.Outcome State Fault Refusal :=
  issue (.cinvSys h f) s fun t => .done (t.modCore s.b.core fun c => c.cinvSys)

/-- CINV.ro (R208). -/
def execCinvRo (h : Hdr) (f : FmtY) (s : State) : Host.Outcome State Fault Refusal :=
  issue (.cinvRo h f) s fun t => .done (t.modCore s.b.core fun c => { c with roc := [] })

/-! ## Bank roles (R191-R193) -/

/-- The role codes of R191. -/
def roleOf : Nat → Role
  | 0 => .reg
  | 1 => .scr
  | 2 => .cac
  | _ => .fif

/-- The role codes of R191. -/
def Role.code : Role → Nat
  | .reg => 0
  | .scr => 1
  | .cac => 2
  | .fif => 3

/-- A copse, named over all launches. -/
def Bough.own (b : Bough) : Nat × Nat := (lkey b.part b.launch, b.cid)

/-- Drops what the L1 can no longer hold (R192, R194). -/
def Core.trim (c : Core) : Core := c.l1.reverse.foldl (fun c x => c.l1Fill x) { c with l1 := [] }

/-- A bank holds part of a bound queue of its copse (R345). -/
def State.queueIn (s : State) (b : Bough) (bank : Nat) : Bool :=
  (s.copseOf b).any fun c => c.queues.any fun q =>
    q.2.bound && c.fif + q.2.first ≤ bank && bank < c.fif + q.2.first + q.2.banks

/-- A change of role is refused (R192). -/
def State.roleRefused (s : State) (b : Bough) (bank : Nat) (new : Role) : Bool :=
  let c := s.core b.core
  let old := c.role bank
  old == .reg || new == .reg || ((old == .scr || old == .fif) && c.owner bank != some b.own) ||
  (old == .cac && new != .cac && c.cacBanks.length ≤ 2) || (old == .fif && s.queueIn b bank)

/-- A change of role is made (R192). -/
def Core.changeRole (c : Core) (own : Nat × Nat) (bank : Nat) (new : Role) : Core :=
  let old := c.role bank
  if old = new then c
  else if new = .cac then (c.freeBank bank).trim
  else if old = .cac then { (c.setRole bank new (some own)).trim with store := Sparse.drop c.store (0x4000 * bank) 0x4000 }
  else c.setRole bank new (some own)

/-- An engine operation of the core that has not written its token names LOCAL bytes of a bank, or is of the
same copse and its record is not read, so that it may (R193). -/
def Core.engineUses (c : Core) (own : Nat × Nat) (bank : Nat) : Bool :=
  c.ops.any fun o => (!o.haveRec && (lkey o.part o.launch, o.cid) == own) || o.rec_.any fun r => r.localSp && bytesMeet r.base r.len (0x4000 * bank) 0x4000

/-- A queued matrix instruction of the core has LOCAL accesses to make in a bank: it was issued under the bank's
old role and performs them under it (R193, R301). -/
def Core.matUses (c : Core) (bank : Nat) : Bool :=
  c.mq.any fun o => (matSpans o.instr o.vals).any fun x => bytesMeet x.1 x.2 (0x4000 * bank) 0x4000

/-- BANKROLE (R192, R193). -/
def execBankrole (h : Hdr) (f : FmtY) (s : State) : Host.Outcome State Fault Refusal :=
  issue (.bankrole h f) s fun t =>
    let bank := f.imm.toNat % 64
    let new := roleOf (f.imm.toNat / 256 % 4)
    if s.roleRefused s.b bank new then
      if f.pd = none then .trap cRegister (0x100 + bank) 0
      else .done (t.writePd h f.pd fun _ => false)
    else if (s.core s.b.core).engineUses s.b.own bank || s.matLocal s.b.uid || (s.core s.b.core).matUses bank then
      .hold .drain s
    else
      .done ((t.modCore s.b.core fun c => c.changeRole s.b.own bank new).writePd h f.pd fun _ => true)

/-- What BANKQ reads (R191). -/
def State.bankQuery (s : State) (sub bank : Nat) : Nat :=
  let c := s.core s.b.core
  let mine (k : Nat) : Bool := c.owner k == some s.b.own
  match sub with
  | 0 => joinBits [(2, (c.role bank).code), (1, bit (mine bank)),
      (1, bit ((s.boughsOf s.b.part s.b.launch s.b.cid).any fun x => x.usesBank s.b.core bank))]
  | 1 => ofBits 48 fun k => c.role k == .cac
  | _ => ofBits 48 fun k => (c.role k == .scr || c.role k == .fif) && mine k

/-- BANKQ (R191). -/
def execBankq (h : Hdr) (f : FmtY) (s : State) : Host.Outcome State Fault Refusal :=
  issue (.bankq h f) s fun t =>
    .done (t.writeSd f (BitVec.ofNat 64 (s.bankQuery f.sub.toNat f.imm.toNat)))

end Sys2Proof.Machine
end

