-- ==== Sys2Proof/Machine/Atomic.lean ====
section
/-! DEFINITION. Class 4: atomics, compare-and-swap and level counters (spec/09_atomics.md R257-R271,
R276-R281), and the step that applies a batch at its place (R263). -/

namespace Sys2Proof.Machine

/-! ## Places (R257-R261) -/

/-- What an atomic asks of its place: AOP as `Atom.aop` numbers it, type and scope. -/
structure AtomReq where
  aop : Nat
  ty : Ty
  size : Nat
  sc : Scope
  ret : Bool
  lcw : Nat
  deriving DecidableEq, Repr

def AtomReq.isLc (r : AtomReq) : Bool := r.aop ≥ 13

/-- An atomic that becomes a PCI Express AtomicOp (R261). -/
def AtomReq.hostOk (r : AtomReq) : Bool :=
  r.aop == 12 || (r.aop == 0 && r.ty.int) || (r.aop == 9 && r.ret)

/-- The fault of the instruction's own for an access (R261, R279). -/
def AtomReq.fault (r : AtomReq) (p : Piece) : Option Nat :=
  if isHost p.pa && !r.hostOk then some 0x04
  else if r.isLc && (!pteLC p.pte || bit (pteLCW p.pte) != r.lcw) then some 0x05
  else none

/-- The place of an access: 0 core, 1 die, 2 home (R257, R259). -/
def State.placeOf (s : State) (b : Bough) (r : AtomReq) (p : Piece) : Nat :=
  let die := if dieOf p.pa = b.core / 256 then 2 else 1
  if pteSysCoh p.pte || pteSysAtom p.pte || pteLC p.pte || isPeer p.pa || isHost p.pa ||
      s.isDet b.part b.launch || r.isLc then 2
  else if (s.part b.part).atomplace.getLsbD 0 && pteApl p.pte ≠ 0 then
    match pteApl p.pte with
    | 1 => 0
    | 2 => die
    | _ => 2
  else
    match r.sc with
    | .core => 0
    | .die => die
    | _ => 2

/-! ## The aggregator (R263) -/

/-- Adds a lane to its group, or opens one. -/
def addLane (g : AtomGrp) (l : AtomLane) : List AtomGrp → List AtomGrp
  | [] => [{ g with lanes := [l] }]
  | x :: r =>
    if x.pa == g.pa && x.place == g.place && x.ctr == g.ctr then { x with lanes := x.lanes ++ [l] } :: r
    else x :: addLane g l r

/-- The groups of the lanes' accesses: by location and place, lanes in increasing order. -/
def State.groupLanes (s : State) (b : Bough) (r : AtomReq) (ps : List Piece) (ctr : Piece → Nat)
    (v cmp : Nat → Nat) : List AtomGrp :=
  ps.foldl (fun gs p =>
    addLane { pa := p.pa, va := p.va, sysCoh := pteSysCoh p.pte || isHost p.pa, place := s.placeOf b r p,
              ctr := ctr p, lanes := [], done := false }
      { lane := p.lane, v := v p.lane, cmp := cmp p.lane, old := 0 } gs) []

/-- At issue an atomic at the die or home place drops the core's L1 copies of what it touches (R269). -/
def State.dropSectors (s : State) (core : Nat) (size : Nat) (gs : List AtomGrp) : State :=
  let keeps (x : Sector) : Bool := !gs.any fun g => g.place != 0 && bytesMeet (32 * x.pa) 32 g.pa size
  s.modCore core fun c => { c with l1 := c.l1.filter keeps }

/-- An atomic starts. -/
def State.startAtom (t : State) (x : Atom) : State :=
  let (id, t) := t.fresh
  let x := { x with id, by_ := t.writer t.b id, tok := t.b.itok }
  let m := Mask.ofPred fun l => x.groups.any fun g => g.lanes.any fun a => a.lane == l
  let t := if x.tr then t.modB fun b => b.setLanes true x.dv ((x.n + 3) / 4) m fun _ => 0 else t
  { t.dropSectors x.core x.size x.groups with atoms := t.atoms ++ [x] }

/-- An atomic of a bough, without its groups. -/
def Bough.newAtom (b : Bough) (h : Hdr) (f : FmtM) (r : AtomReq) : Atom :=
  { id := 0, uid := b.uid, core := b.core, by_ := outsider b.part, tok := 0, pc := b.pc, dv := f.dv.toNat, n := r.size,
    tr := h.tr, pd := none, acq := 0, ret := r.ret, aop := r.aop, ty := r.ty, size := r.size, lcw := r.lcw,
    lck := b.lcb.toNat % 4, seed := b.lcseed.toNat, repdone := b.repdone, ords := b.ordinals, groups := [] }

/-- The lanes' addresses, aligned down to the width (R266). -/
def Bough.atomAddrs (b : Bough) (f : FmtM) (size : Nat) (g : Mask) : List (Nat × Nat) :=
  g.list.map fun l => let a := (b.addr f l).toNat; (l, a - a % size)

/-- ATOM and RED (R267). -/
def atomic (ret : Bool) (h : Hdr) (f : FmtM) (s t : State) : Res :=
  let g := s.b.guard h
  let b := t.b
  let size := f.sz.bytes
  let r : AtomReq := { aop := f.aop.toNat, ty := f.ty, size, sc := f.sc, ret, lcw := 0 }
  if !ret && f.ord && !s.releaseReady s.b (f.sc == .core) then .hold .fence s
  else
    access s t true size (b.atomAddrs f size g) g r.fault fun t ps _ =>
      let v (l : Nat) : Nat := b.wide f.dv.toNat l f.sz.regs % 2 ^ (8 * size)
      t.startAtom { s.b.newAtom h f r with
        acq := if ret then acqOf f else 0, groups := s.groupLanes s.b r ps (fun _ => 0) v fun _ => 0 }

/-- ATOM (R267). -/
def execAtom (h : Hdr) (f : FmtM) (s : State) : Host.Outcome State Fault Refusal :=
  issue (.atom h f) s fun t => atomic true h f s t

/-- RED (R267, R269, R270). -/
def execRed (h : Hdr) (f : FmtM) (s : State) : Host.Outcome State Fault Refusal :=
  issue (.red h f) s fun t => atomic false h f s t

/-- CAS (R268). -/
def execCas (h : Hdr) (f : FmtM) (s : State) : Host.Outcome State Fault Refusal :=
  issue (.cas h f) s fun t =>
    let g := s.b.guard h
    let b := t.b
    let size := f.sz.bytes
    let r : AtomReq := { aop := 12, ty := f.ty, size, sc := f.sc, ret := true, lcw := 0 }
    access s t true size (b.atomAddrs f size g) g r.fault fun t ps _ =>
      let v (l : Nat) : Nat := b.wide (f.dv.toNat + f.sz.regs) l f.sz.regs
      let cmp (l : Nat) : Nat := b.wide f.dv.toNat l f.sz.regs
      t.startAtom { s.b.newAtom h f r with
        acq := acqOf f, pd := f.pd, groups := s.groupLanes s.b r ps (fun _ => 0) v cmp }

/-! ## Level-counter instructions (R279-R281) -/

/-- The counter addresses of the lanes and the bytes that they lie in (R279). -/
def Bough.counters (b : Bough) (f : FmtM) (g : Mask) : List (Nat × Nat) :=
  g.list.map fun l => (l, lcByte (f.aop.toNat % 2) (b.addr f l).toNat)

/-- LCADD, LCREAD and LCMERGE (R279). -/
def levelCounter (aop : Nat) (h : Hdr) (f : FmtM) (s t : State) : Res :=
  let g := s.b.guard h
  let b := t.b
  let w := f.aop.toNat % 2
  let ret := aop == 14
  let r : AtomReq := { aop, ty := .i8, size := 1, sc := f.sc, ret, lcw := w }
  if !ret && f.ord && !s.releaseReady s.b (f.sc == .core) then .hold .fence s
  else
    access s t (!ret) 1 (b.counters f g) g r.fault fun t ps _ =>
      let ctr (p : Piece) : Nat :=
        if w = 0 then p.pa else 2 * p.pa + (b.addr f p.lane).toNat % 2
      t.startAtom { s.b.newAtom h f r with
        n := 8, acq := if ret then acqOf f else 0,
        groups := s.groupLanes s.b r ps ctr (fun l => (b.vreg f.dv.toNat l).toNat % 256) fun _ => 0 }

/-- LCADD (R280). -/
def execLcadd (h : Hdr) (f : FmtM) (s : State) : Host.Outcome State Fault Refusal :=
  issue (.lcadd h f) s fun t => levelCounter 13 h f s t

/-- LCREAD (R280). -/
def execLcread (h : Hdr) (f : FmtM) (s : State) : Host.Outcome State Fault Refusal :=
  issue (.lcread h f) s fun t => levelCounter 14 h f s t

/-- LCMERGE (R280). -/
def execLcmerge (h : Hdr) (f : FmtM) (s : State) : Host.Outcome State Fault Refusal :=
  issue (.lcmerge h f) s fun t => levelCounter 15 h f s t

/-- LCBASE (R281). -/
def execLcbase (h : Hdr) (f : FmtY) (s : State) : Host.Outcome State Fault Refusal :=
  issue (.lcbase h f) s fun t =>
    .done ((t.writeSd f s.b.lcb).modB fun b => { b with lcb := BitVec.ofNat 64 (f.imm.toNat % 4) })

/-- LCSEED (R281). -/
def execLcseed (h : Hdr) (f : FmtY) (s : State) : Host.Outcome State Fault Refusal :=
  issue (.lcseed h f) s fun t =>
    .done ((t.writeSd f s.b.lcseed).modB fun b => { b with lcseed := s.ss f.s1 })

/-! ## The batch at its place (R260, R263) -/

/-- What a batch does to the location's value: the old value by lane, and the new one if it writes. -/
def Atom.batch (x : Atom) (g : AtomGrp) (v : Nat) : List Nat × Option Nat :=
  if x.aop = 12 then
    let ps := g.lanes.map fun l => (l.cmp, l.v)
    let (olds, w) := casBatch v ps
    (olds, if (olds.zip ps).any fun e => e.1 == e.2.1 then some w else none)
  else
    let (olds, w) := atomBatch (atomStep x.aop x.ty x.size) v (g.lanes.map fun l => l.v)
    (olds, some w)

/-- The group has been applied: its lanes hold their old values. -/
def State.grpDone (s : State) (k j : Nat) (olds : List Nat) : State :=
  let mark (e : AtomGrp × Nat) : AtomGrp :=
    if e.2 == j then
      { e.1 with done := true, lanes := (e.1.lanes.zip olds).map fun z => { z.1 with old := z.2 } }
    else e.1
  let upd (x : Atom) : Atom := if x.id == k then { x with groups := x.groups.zipIdx.map mark } else x
  let s := { s with atoms := s.atoms.map upd }
  { s with atoms := s.atoms.filter fun x => x.ret || x.groups.any fun g => !g.done }

/-- The old values of a batch that keeps none. -/
def AtomGrp.zeros (g : AtomGrp) : List Nat := g.lanes.map fun _ => 0

/-- The write of a batch that returns nothing, as the home performs it. -/
def Atom.homeKind (x : Atom) (g : AtomGrp) : WriteKind :=
  let vs := g.lanes.map fun l => l.v
  match x.aop with
  | 13 => .lcadd x.lcw g.ctr x.lck x.seed vs.length
  | 15 => .lcmerge x.lcw g.ctr x.lck x.seed vs
  | _ => .atom x.aop x.ty x.size vs

/-- The home performs a batch that returns nothing: in a DET launch lane by lane, each lane's step an entry of
the log at its own place (R249). -/
def State.batchWrite (s : State) (x : Atom) (g : AtomGrp) : Nat × State :=
  if x.by_.det then
    g.lanes.foldl (fun r l =>
      let (e, s) := r.2.homeWrite { x.by_ with lane := l.lane } g.va g.pa g.sysCoh
        (x.homeKind { g with lanes := [l] }) false
      (max r.1 e, s)) (0, s)
  else s.homeWrite x.by_ g.va g.pa g.sysCoh (x.homeKind g) false

/-- A batch at the home (R247, R267, R280). -/
def State.batchHome (s : State) (x : Atom) (j : Nat) (g : AtomGrp) : State :=
  let s := s.fillLine g.pa
  let lk := lkey x.by_.part x.by_.launch
  if x.aop = 14 then
    let v := s.homeRead x.by_.part x.by_.launch x.by_.copse x.by_.det g.pa 1
    s.grpDone x.id j (g.lanes.map fun _ => lcRead x.lck (lcLevel x.lcw g.ctr v))
  else if !x.ret then
    let (e, s) := s.batchWrite x g
    (s.grpDone x.id j g.zeros).sendAck x.uid x.core lk x.tok g.pa x.size e
  else
    let (olds, w) := x.batch g (s.rd g.pa x.size)
    match w with
    | none => (s.heartCaught x.by_ (g.pa / 128)).grpDone x.id j olds
    | some w =>
      let (e, s) := s.homeWrite x.by_ g.va g.pa g.sysCoh (.bytes x.size w) true
      (s.grpDone x.id j olds).sendAck x.uid x.core lk x.tok g.pa x.size e

/-- The place whose copy a batch works on, as `Store.thru` names it. -/
def Atom.through (x : Atom) (g : AtomGrp) : Nat := if g.place = 0 then x.core + 1 else 2 ^ 20 + x.core / 256

/-- A result is written through to the home as a store of the bough (R260). -/
def State.writeThrough (s : State) (x : Atom) (g : AtomGrp) (w : Nat) : State :=
  let (id, s) := s.fresh
  { s with stores := s.stores ++ [{ id, uid := x.uid, core := x.core, by_ := { x.by_ with seq := x.id },
                                    tok := x.tok, va := g.va, pa := g.pa, sysCoh := g.sysCoh,
                                    kind := .bytes x.size w, thru := x.through g }] }

/-- After a batch on a place's copy. -/
def State.batchOver (s : State) (x : Atom) (j : Nat) (g : AtomGrp) (olds : List Nat) (w : Option Nat) : State :=
  let s := match w with
    | some w => s.writeThrough x g w
    | none => s
  s.grpDone x.id j olds

/-- A place that holds no copy has still to wait before it fetches one: a write of the core to the location is on its
way, or of the die place to the line (R196, R260, log 59). -/
def State.fetchHeld (s : State) (x : Atom) (g : AtomGrp) : Bool :=
  if g.place = 0 then
    s.stores.any (fun y => y.core == x.core && bytesMeet y.span.1 y.span.2 g.pa x.size) ||
      s.acks.any fun y => y.core == x.core && bytesMeet y.pa y.n g.pa x.size
  else s.stores.any fun y => y.thru == x.through g && bytesMeet y.span.1 y.span.2 (g.pa / 128 * 128) 128

/-- A batch at the core place, on the L1's copy; a miss fetches the sector, which is what an L1 fills and leases, with
a lease (R194, R257, R260). -/
def State.batchCore (s : State) (x : Atom) (j : Nat) (g : AtomGrp) : State :=
  let put (s : State) (sec until_ : Nat) (w : Option Nat) : State :=
    s.modCore x.core fun c => c.l1Fill
      { pa := g.pa / 32, until_, sysCoh := false,
        bytes := BitVec.ofNat 256 (match w with
          | some w => spliceBytes sec (g.pa % 32) x.size w
          | none => sec) }
  match (s.core x.core).l1Hit s.time g.pa with
  | some e =>
    let (olds, w) := x.batch g (e.read g.pa x.size)
    (put s e.bytes.toNat e.until_ w).batchOver x j g olds w
  | none =>
    if s.fetchHeld x g then s
    else
    let sec := s.rd (g.pa / 32 * 32) 32
    let keep := s.mayKeep x.core (g.pa / 32)
    let (e, s) := (s.fillLine g.pa).grant (g.pa / 128) (s.leaseLen x.by_.part x.by_.launch)
    let (olds, w) := x.batch g (sec / 2 ^ (8 * (g.pa % 32)) % 2 ^ (8 * x.size))
    (if keep then put s sec e w else s).batchOver x j g olds w

/-- A batch at a die place that is not the home, on the slice's copy (R257, R260). -/
def State.batchDie (s : State) (x : Atom) (j : Nat) (g : AtomGrp) : State :=
  let die := x.core / 256
  let keep (s : State) (line until_ : Nat) (w : Option Nat) : State :=
    let y : DieCopy :=
      { die, pa := g.pa / 128, until_, bytes := BitVec.ofNat 1024 (match w with
          | some w => spliceBytes line (g.pa % 128) x.size w
          | none => line) }
    { s with dcopies := upsert (fun z => z.die == die && z.pa == g.pa / 128) y s.dcopies }
  match s.dcopies.find? fun z => z.die == die && z.pa == g.pa / 128 && s.time < z.until_ with
  | some z =>
    let (olds, w) := x.batch g (z.bytes.toNat / 2 ^ (8 * (g.pa % 128)) % 2 ^ (8 * x.size))
    (keep s z.bytes.toNat z.until_ w).batchOver x j g olds w
  | none =>
    if s.fetchHeld x g then s
    else
      let line := s.line (g.pa / 128)
      let (e, s) := (s.fillLine g.pa).grant (g.pa / 128) (s.leaseLen x.by_.part x.by_.launch)
      let (olds, w) := x.batch g (s.rd g.pa x.size)
      (keep s line e w).batchOver x j g olds w

/-- The machine check of a batch that reads a line with an uncorrectable error (R202, R356); a copy that the
L1 or a slice holds has none. -/
def State.batchCheck (s : State) (x : Atom) (g : AtomGrp) : Option Nat :=
  let held : Bool := match g.place with
    | 0 => ((s.core x.core).l1Hit s.time g.pa).isSome
    | 1 => s.dcopies.any fun z => z.die == x.core / 256 && z.pa == g.pa / 128 && s.time < z.until_
    | _ => false
  if held then none else s.homeCheck x.by_.part x.by_.launch x.by_.det g.pa x.size

/-- ATOMIC_BATCH (R263): group g of atomic k, once what its bough sent to the line before has been
performed (R196, R269). -/
def execAtomicBatch (k g : Nat) (s : State) : Host.Outcome State Fault Refusal :=
  match s.atoms.find? fun x => x.id == k with
  | none => .next s
  | some x =>
    match x.groups[g]? with
    | none => .next s
    | some y =>
      if y.done || s.mustWait x.uid x.id (y.pa / 128) then .next s
      else
        match s.batchCheck x y with
        | some c =>
          let m := Mask.ofPred fun l => y.lanes.any fun a => a.lane == l
          if s.doomed x.by_.part x.by_.launch then .next s
          else
            let u := s.dataCheck x.uid c x.pc m y.va x.repdone x.ords
            .next (if u.doomed x.by_.part x.by_.launch then u else u.grpDone k g y.zeros)
        | none =>
          match y.place with
          | 0 => .next (s.batchCore x g y)
          | 1 => .next (s.batchDie x g y)
          | _ => .next (s.batchHome x g y)

/-! ## Return (R267, R268) -/

/-- The old values of a value-returning atomic are written (R267, R268, R280). -/
def State.atomReturn (s : State) (x : Atom) : State :=
  let s := { s with atoms := s.atoms.filter fun y => y.id != x.id }
  let ls := x.groups.flatMap fun g => g.lanes
  let m := Mask.ofPred fun l => ls.any fun a => a.lane == l
  let won := Mask.ofPred fun l => ls.any fun a => a.lane == l && a.old == a.cmp
  let s := s.modBough x.uid fun b =>
    (ls.foldl (fun b a => b.lateWrite x.tr x.dv a.lane ((x.n + 3) / 4) a.old) b).setPd x.pd m won
  let s := if x.acq = 2 then s.modCore x.core fun c => c.cinvSys else s
  s.settleTok x.uid x.tok

/-- LOAD_DATA_RETURN (R202, R267): the values of load, or value-returning atomic, k arrive. -/
def execLoadDataReturn (k : Nat) (s : State) : Host.Outcome State Fault Refusal :=
  match s.loads.find? fun x => x.id == k with
  | some x => if x.acc.all fun a => a.got.isSome then .next (s.loadReturn x) else .next s
  | none =>
    match s.atoms.find? fun x => x.id == k with
    | some x => if x.ret && x.groups.all fun g => g.done then .next (s.atomReturn x) else .next s
    | none => .next s

end Sys2Proof.Machine
end

