-- ==== Sys2Proof/Machine/Engine.lean ====
section
/-! DEFINITION. Engine operations (spec/07_memory.md R209-R222): issue, footprint records, the order of
R211, the bytes an engine reads and writes, and the copy, fill, gather, scatter and collective units. -/

namespace Sys2Proof.Machine

/-- The end of a unit of an engine operation: done, or stopped with a status, or a translation fault. -/
inductive UnitRes where
  | ok (s : State) (o : EngOp)
  | stop (status : Nat) (s : State)
  | fault (cause va : Nat)
  deriving Repr

/-- Continues after a unit that went well. -/
def UnitRes.andThen (r : UnitRes) (f : State → EngOp → UnitRes) : UnitRes :=
  match r with
  | .ok s o => f s o
  | r => r

/-! ## Operations in the scheduler -/

/-- An operation by its number, with its core. -/
def State.engOp (s : State) (k : Nat) : Option (Nat × EngOp) :=
  s.cores.findSome? fun e => (e.2.ops.find? fun o => o.id == k).map fun o => (e.1, o)

def State.setOp (s : State) (core : Nat) (o : EngOp) : State :=
  s.modCore core fun c => { c with ops := c.ops.map fun x => if x.id == o.id then o else x }

/-- Two regions share a byte (R211). -/
def FpRegion.meets (a b : FpRegion) : Bool := a.localSp == b.localSp && bytesMeet a.base a.len b.base b.len

/-- B waits for A (R211). A footprint that has not been read yet may hold anything. -/
def EngOp.blocks (a b : EngOp) : Bool :=
  !a.haveRec || a.rec_.any fun x => b.rec_.any fun y => (x.write || y.write) && x.meets y

/-- A copy or a fill of no bytes, which is complete at once (R219). -/
def EngOp.empty (o : EngOp) : Bool :=
  match o.instr with
  | .acopy _ _ _ _ | .afill _ _ => o.units == 0
  | _ => false

/-- An operation may start (R211, R212): no earlier operation of the core blocks it, and the earlier
writes of its bough have been acknowledged. -/
def State.mayStart (s : State) (core : Nat) (o : EngOp) : Bool :=
  !((s.core core).ops.takeWhile fun x => x.id != o.id).any (fun x => x.blocks o) &&
  !s.stores.any (fun x => x.uid == o.uid && x.by_.seq < o.id) && !s.acks.any (fun x => x.uid == o.uid) &&
  !(s.core core).mq.any (fun x => x.uid == o.uid && x.id < o.id && isMatLocal x.instr) &&
  !s.atoms.any fun x => x.uid == o.uid && x.id < o.id && !x.ret

/-- PROGRESS of an operation (R213): bytes for OPFILL, else the units done. -/
def EngOp.progress (o : EngOp) : Nat :=
  match o.instr with
  | .opfill _ _ f => o.done * 2 ^ (f.imm.toNat / 128 % 4)
  | _ => o.done

/-! ## Footprint records (R210) -/

/-- A region of the record; none where it is used and not valid. -/
def regionOf (i x : Nat) : Option FpRegion :=
  let base := x % 2 ^ 64
  let len := x / 2 ^ 64 % 2 ^ 32
  let loc := x.testBit 96
  if x / 2 ^ 97 ≠ 0 || (len ≠ 0 && base + len > (if loc then 0xC0000 else 2 ^ 56)) then none
  else some { write := i ≥ 4, localSp := loc, base, len }

/-- The used regions of a record of 128 bytes; none where the record is invalid. -/
def recordOf (x : Nat) : Option (List FpRegion) :=
  match (List.range 8).mapM fun i => regionOf i (x / 2 ^ (128 * i) % 2 ^ 128) with
  | none => none
  | some rs =>
    let used := rs.filter fun r => r.len ≠ 0
    if used.isEmpty then none else some used

/-- `n` 8-byte words by the read-only path. -/
def State.roWords (s : State) (core part va : Nat) : Nat → Except (Nat × Nat) Nat × State
  | 0 => (.ok 0, s)
  | n + 1 =>
    match s.xlateNow core part va false with
    | (.ok pa _ _, s) =>
      if s.roAway core part pa then (.error (peerCause pa, va), s)
      else if s.roBad core pa then (.error (checkOf 0x42 pa, va), s)
      else
        let (v, s) := s.roRead core pa 8
        match State.roWords s core part (va + 8) n with
        | (.ok w, s) => (.ok (v + 2 ^ 64 * w), s)
        | r => r
    | (.fault c, s) => (.error (c, va), s)
    | (.miss, s) => (.error (0x01, va), s)

/-- The engine number of a fault record (R359). -/
def engineCode : Instr → Nat
  | .opfill _ _ _ => 2
  | .attn _ _ _ => 3
  | .kvgather _ _ => 4
  | .acoll _ _ => 5
  | _ => 1

/-- An engine meets a translation fault (R215): a record, and the operation waits for the reply, or the
launch is killed where nobody can reply (R358). An uncorrectable error, or a peer without a live link, is a machine
check, which ends the operation with its status and then the launch (R213, R357, R390). -/
def State.engineFault (s : State) (core : Nat) (o : EngOp) (cause va : Nat) : State :=
  let b := (s.bough o.uid).getD { Bough.blank with part := o.part, launch := o.launch, cid := o.cid, core }
  let (seq, s) := s.recordFault b
    { cls := if isCheck cause then 2 else 0, cause := cause % 2 ^ 8, detail := cause / 2 ^ 8, addr := BitVec.ofNat 64 va, pc := o.pc, mask := 0,
      engine := engineCode o.instr, ordinal := none, task := none, repdone := 0, time := s.time }
  if isCheck cause then
    (s.setOp core { o with haveRec := true, status := if cause % 2 ^ 8 = 0x43 then 0x05 else 0x04 }).checkKill
      o.part o.launch o.uid seq
  else if s.noQueue o.part then s.killLaunch o.part o.launch 1 seq 0
  else
    (s.modPart o.part fun p =>
      { p with pending := p.pending ++ [{ seq, launch := o.launch, uid := o.uid, eng := o.id }] }).setOp core
      { o with seq }

/-- The record is read (R210): an invalid or misaligned one ends the operation, and one of no bytes is complete
(R219). -/
def State.readRecord (s : State) (core : Nat) (o : EngOp) : State :=
  if o.haveRec || o.status != 0xFF then s
  else if o.fpAddr.toNat % 8 ≠ 0 then s.setOp core { o with haveRec := true, status := 0x02 }
  else
    match s.roWords core o.part o.fpAddr.toNat 16 with
    | (.error e, s) => s.engineFault core o e.1 e.2
    | (.ok x, s) =>
      match recordOf x with
      | none => s.setOp core { o with haveRec := true, status := 0x02 }
      | some r => s.setOp core { o with haveRec := true, rec_ := r, status := if o.empty then 0x00 else 0xFF }

/-! ## Bytes -/

/-- An operation whose page has its reads checked against the read regions alone (R221, R321, R326). -/
def EngOp.readsOnly (o : EngOp) : Bool :=
  match o.instr with
  | .acoll _ _ | .kvgather _ _ | .attn _ _ _ => true
  | _ => false

/-- A byte lies in a region of the record that may be written, or may be read (R211). -/
def EngOp.allowed (o : EngOp) (write loc : Bool) (a : Nat) : Bool :=
  o.rec_.any fun r => (if write then r.write else !r.write || !o.readsOnly) && r.localSp == loc && r.base ≤ a &&
    a < r.base + r.len

/-- The writer of an operation: its bough's copse, at the operation's place of issue (R245). -/
def State.opWriter (s : State) (o : EngOp) : Writer :=
  { part := o.part, launch := o.launch, copse := o.cid, idx := ((s.bough o.uid).map fun b => b.idx).getD 0,
    det := s.isDet o.part o.launch, seq := o.id, lane := 0 }

/-- An engine reads a byte, by virtual address or in LOCAL space (R211, R212, R215). -/
def State.engRead (s : State) (core : Nat) (o : EngOp) (loc : Bool) (a : Nat) : Except (UnitRes) Nat × State :=
  if !o.allowed false loc a then (.error (.stop 0x02 s), s)
  else if loc then (.ok (s.localRd core o.part o.launch o.cid a).toNat, s)
  else
    match s.xlateNow core o.part a false with
    | (.ok pa _ _, s) =>
      let det := s.isDet o.part o.launch
      if s.unreachable o.part pa then (.error (.fault (peerCause pa) a), s)
      else
        match s.homeCheck o.part o.launch det pa 1 with
        | some c => (.error (.fault c a), s)
        | none => (.ok (s.homeRead o.part o.launch o.cid det pa 1), s.fillLine pa)
    | (.fault c, s) => (.error (.fault c a), s)
    | (.miss, s) => (.error (.fault 0x01 a), s)

/-- An engine writes a byte. With `line` the whole line of the byte is zeroed instead (R199, R219). -/
def State.engWrite (s : State) (core : Nat) (o : EngOp) (loc : Bool) (a v : Nat) (line : Bool) : UnitRes :=
  if !o.allowed true loc a then .stop 0x02 s
  else if loc then .ok (s.localWr core o.part o.launch o.cid a (BitVec.ofNat 8 v)) o
  else
    match s.xlateNow core o.part a true with
    | (.ok pa pte _, s) =>
      if s.unreachable o.part pa then .fault (peerCause pa) a
      else
        let coh := pteSysCoh pte || isHost pa
        let (e, s) :=
          if line then s.homeWrite (s.opWriter o) a (pa / 128 * 128) coh .zero false
          else s.homeWrite (s.opWriter o) a pa coh (.bytes 1 v) false
        .ok s { o with wend := max o.wend e }
    | (.fault c, _) => .fault c a
    | (.miss, _) => .fault 0x01 a

/-- Copies `n` bytes from one space to another, none of them if one is not allowed or not mapped. -/
def State.engCopy (s : State) (core : Nat) (o : EngOp) (sl dl : Bool) (a d n : Nat) : UnitRes :=
  let (r, s) := (List.range n).foldl (fun (acc : Except UnitRes (List Nat) × State) i =>
    match acc with
    | (.error e, s) => (.error e, s)
    | (.ok l, s) =>
      match s.engRead core o sl (a + i) with
      | (.ok v, s) => (.ok (l ++ [v]), s)
      | (.error e, s) => (.error e, s)) (.ok [], s)
  match r with
  | .error e => e
  | .ok l =>
    match (l.zipIdx).foldl (fun (acc : UnitRes) x => acc.andThen fun s o =>
      s.engWrite core o dl (d + x.2) x.1 false) (.ok s o) with
    | .ok s o => .ok s o
    | .stop st _ => .stop st s
    | r => r

/-! ## The copy engine's units (R219) -/

/-- Unit `done` of ACOPY: one byte. -/
def unitCopy (sl dl : Bool) (core : Nat) (s : State) (o : EngOp) : UnitRes :=
  let j := o.done
  let src := o.pa.toNat + j
  let dst := o.pb.toNat + j
  match s.engRead core o sl src with
  | (.error e, _) => e
  | (.ok v, s) =>
    let v := ((o.keep.find? fun e => e.1 == j).map fun e => e.2).getD v
    let ahead := sl == dl && src < dst && dst < o.pa.toNat + o.units
    let o' := { o with keep := o.keep.filter fun e => e.1 != j }
    let o' := if !ahead then o' else
      match (s.engRead core { o with rec_ := o.rec_ } dl dst).1 with
      | .ok old =>
        if o.keep.any fun e => e.1 == dst - o.pa.toNat then o'
        else { o' with keep := o'.keep ++ [(dst - o.pa.toNat, old)] }
      | .error _ => o'
    s.engWrite core o' dl dst v false

/-- Unit `done` of AFILL: one byte; the last byte of a whole line of zeros zeroes the line. -/
def unitFill (loc : Bool) (core : Nat) (s : State) (o : EngOp) : UnitRes :=
  let a := o.pa.toNat + o.done
  let v := o.pb.toNat / 2 ^ (8 * (o.done % 8)) % 256
  s.engWrite core o loc a v (!loc && o.pb == 0 && a % 128 == 127 && o.pa.toNat + 127 ≤ a)

/-- Unit `done` of AGATHER or ASCATTER: one lane. -/
def unitLane (gather : Bool) (size : Nat) (core : Nat) (s : State) (o : EngOp) : UnitRes :=
  let a := ((o.vx[o.done]?).getD 0)
  if a.getLsbD 63 then .ok s o
  else if gather then s.engCopy core o false true a.toNat (o.pb.toNat + o.done * size) size
  else s.engCopy core o true false (o.pa.toNat + o.done * size) a.toNat size

/-! ## Collectives (R220-R222) -/

/-- The type of an element, by IMM24[3:0] (R220). -/
def collTy (f : FmtE) : Ty := (Ty.ofCode (f.imm.toNat % 16)).getD .i32

def collComm (f : FmtE) : Nat := f.imm.toNat / 16 % 4096

/-- Op of the tree (R221). -/
def collOp (red : Nat) (ty : Ty) (a b : Nat) : Nat :=
  let w := ty.width
  match red with
  | 0 =>
    match ty with
    | .f16 | .bf16 | .f32 | .f64 =>
      (fmtOf ty).round .rn false (((fmtOf ty).val a).add .rn ((fmtOf ty).val b))
    | _ => (a + b) % 2 ^ w
  | r =>
    match ty with
    | .f16 | .bf16 | .f32 | .f64 => minMax (r == 2) true ty a b
    | _ =>
      let lt := intOf ty.signed w a < intOf ty.signed w b
      if r = 1 then (if lt then a else b) else (if lt then b else a)

/-- ⌈log2 n⌉. -/
def clog2 (n : Nat) : Nat := if n ≤ 1 then 0 else (n - 1).log2 + 1

/-- T(lo, hi) over the contributions (R221). -/
def collTree (op : Nat → Nat → Nat) (x : Nat → Nat) : Nat → Nat → Nat → Nat
  | 0, lo, _ => x lo
  | fuel + 1, lo, hi =>
    if hi - lo ≤ 1 then x lo
    else
      let mid := lo + 2 ^ (clog2 (hi - lo) - 1)
      op (collTree op x fuel lo mid) (collTree op x fuel mid hi)

/-- The rank table of a communicator as a partition recorded it. -/
def State.comm (s : State) (part id : Nat) : Option Comm := s.comms.find? fun c => c.part == part && c.id == id

/-- The rank of a partition of this package, whose peer index is 31 (R220, R384). -/
def Comm.rankOf (c : Comm) (part : Nat) : Option Nat := c.ranks.findIdx? fun r => r.1 == 31 && r.2 == part

/-- Elements that a rank contributes (R221). -/
def collSrc (sub n c rank : Nat) : Nat :=
  if sub % 8 = 4 then n * c else if sub % 8 = 2 && rank ≠ 0 then 0 else c

/-- Elements that a rank receives (R221). -/
def collDst (sub n c rank : Nat) : Nat :=
  if sub % 8 = 3 then n * c else if sub % 8 = 1 && rank ≠ 0 then 0 else c

/-- The element of a contribution: of this package as it was read, of another as it is (log 17). -/
def State.contribution (s : State) (part : Nat) (c : Comm) (k r i : Nat) (w : Nat) : Nat :=
  match c.ranks[r]? with
  | some (31, p) =>
    (((s.colls.find? fun x => x.comm == c.id && x.k == k && x.part == p).bind fun x => x.words[i]?)).getD 0
  | _ => Config.peerElem part c.id k r i % 2 ^ w

/-- The value of destination element i at a rank (R221). -/
def State.collValue (s : State) (part : Nat) (c : Comm) (k sub : Nat) (ty : Ty) (cnt rank i : Nat) : Nat :=
  let n := c.ranks.length
  let x (r j : Nat) : Nat := s.contribution part c k r j ty.width
  let tree (j : Nat) : Nat := collTree (collOp (sub / 8) ty) (fun r => x r j) n 0 n
  match sub % 8 with
  | 2 => x 0 i
  | 3 => x (i / cnt) (i % cnt)
  | 4 => tree (rank * cnt + i)
  | _ => tree i

/-- The ranks of this package have all contributed to the k-th collective. -/
def State.collReady (s : State) (c : Comm) (k : Nat) : Bool :=
  c.ranks.all fun r => r.1 != 31 || s.colls.any fun x => x.comm == c.id && x.k == k && x.part == r.2

/-- A participant differs in what it asked for (R222). -/
def State.collMismatch (s : State) (part : Nat) (c : Comm) (k sub ty cnt : Nat) : Bool :=
  s.colls.any (fun x => x.comm == c.id && x.k == k && c.ranks.contains (31, x.part) &&
    !(x.sub == sub && x.ty == ty && x.count == cnt && x.size == c.ranks.length)) ||
  (c.ranks.zipIdx).any fun r => r.1.1 != 31 && !Config.peerAgrees part c.id k r.2

/-- A peer of the communicator cannot be reached (R222, R390). -/
def State.collCut (s : State) (part : Nat) (c : Comm) : Bool :=
  c.ranks.any fun r => r.1 != 31 && s.unreachable part (0x100000000000 + r.1 * 2 ^ 40)

/-- Reads `n` elements of `w` bytes. -/
def State.readElems (s : State) (core : Nat) (o : EngOp) (a w n : Nat) : Except UnitRes (List Nat) × State :=
  (List.range n).foldl (fun (acc : Except UnitRes (List Nat) × State) i =>
    match acc with
    | (.error e, s) => (.error e, s)
    | (.ok l, s) =>
      let (r, s) := (List.range w).foldl (fun (acc : Except UnitRes Nat × State) k =>
        match acc with
        | (.error e, s) => (.error e, s)
        | (.ok v, s) =>
          match s.engRead core o false (a + i * w + k) with
          | (.ok y, s) => (.ok (v + y * 2 ^ (8 * k)), s)
          | (.error e, s) => (.error e, s)) (.ok 0, s)
      match r with
      | .ok v => (.ok (l ++ [v]), s)
      | .error e => (.error e, s)) (.ok [], s)

/-- ACOLL before its first element: its source, which must lie in read regions, is contributed (R221). `aux`
holds k. -/
def collStart (f : FmtE) (core : Nat) (s : State) (o : EngOp) : UnitRes :=
  match s.comm o.part (collComm f), o.aux with
  | some c, [k] =>
    match c.rankOf o.part with
    | none => .stop 0x02 s
    | some rank =>
      if o.rec_.any fun r => r.localSp then .stop 0x02 s
      else
        let n := c.ranks.length
        let w := (collTy f).width / 8
        match s.readElems core o o.pa.toNat w (collSrc f.sub.toNat n o.pc_.toNat rank) with
        | (.error e, _) => e
        | (.ok words, s) =>
          .ok { s with colls := s.colls ++ [{ comm := c.id, k, part := o.part, rank, size := n,
                                              sub := f.sub.toNat, ty := f.imm.toNat % 16,
                                              count := o.pc_.toNat, words, doneBy := [] }] }
            { o with units := collDst f.sub.toNat n o.pc_.toNat rank, words := [1] }
  | _, _ => .stop 0x02 s

/-- Unit `done` of ACOLL: one destination element. -/
def unitColl (f : FmtE) (core : Nat) (s : State) (o : EngOp) : UnitRes :=
  match s.comm o.part (collComm f), o.aux with
  | some c, [k] =>
    match c.rankOf o.part with
    | none => .stop 0x02 s
    | some rank =>
      let w := (collTy f).width / 8
      let v := s.collValue o.part c k f.sub.toNat (collTy f) o.pc_.toNat rank o.done
      match (List.range w).foldl (fun (acc : UnitRes) i => acc.andThen fun s o =>
        s.engWrite core o false (o.pb.toNat + o.done * w + i) (v / 2 ^ (8 * i) % 256) false) (.ok s o) with
      | .stop st _ => .stop st s
      | r => r
  | _, _ => .stop 0x02 s

/-- A partition has finished with a collective; contributions that nobody needs any more go. -/
def State.collDone (s : State) (part id k : Nat) : State :=
  let mark (x : Coll) : Coll :=
    if x.comm == id && x.k == k then { x with doneBy := part :: x.doneBy } else x
  let gone (x : Coll) : Bool :=
    match s.comm x.part x.comm with
    | some c => c.ranks.all fun r => r.1 != 31 || x.doneBy.contains r.2
    | none => true
  { s with colls := (s.colls.map mark).filter fun x => !gone x }

/-! ## Pre-emption (R216) -/

/-- An operation stands where pre-emption may stop it: it has not started, it waits for a reply, or its
progress is at a 4 KiB boundary, at 64 bytes of a fill (R292), or between two of its page's units. -/
def EngOp.atBoundary (o : EngOp) : Bool :=
  !o.started || o.seq != 0 ||
    match o.instr with
    | .acopy _ _ _ _ | .afill _ _ => o.done % 4096 == 0
    | .opfill _ _ _ => o.progress % 64 == 0
    | .acoll _ f => o.done * ((collTy f).width / 8) % 4096 == 0
    | _ => true

/-! ## Issue (R209) -/

/-- An engine operation at issue: it is handed to the scheduler, which holds 32, and its record is read.
`set` fills in what the instruction's own page adds. -/
def engineIssue (i : Instr) (f : FmtE) (set : EngOp → EngOp) (s t : State) : Res :=
  if (s.core s.b.core).ops.length ≥ 32 then .hold .drain s
  else
    let (id, t) := t.fresh
    let o : EngOp := set
      { id, uid := s.b.uid, launch := s.b.launch, cid := s.b.cid, part := s.b.part, pc := s.b.pc, instr := i,
        pa := s.ss f.pa, pb := s.ss f.pb, pc_ := s.ss f.pc, vx := [], vmask := s.b.emr, aux := [],
        fpAddr := s.ss f.fp, haveRec := false, rec_ := [], tok := t.b.itok, units := 0, done := 0,
        started := false, seq := 0, status := 0xFF, wend := 0, words := [], keep := [], pins := [] }
    .done ((t.modCore s.b.core fun c => { c with ops := c.ops ++ [o] }).readRecord s.b.core o)

/-- A length of 2^32 or more ends the operation at once (R219). -/
def withLength (n : Nat) (o : EngOp) : EngOp := if n ≥ 2 ^ 32 then { o with status := 0x02 } else { o with units := n }

/-- The pairs of VX by lane. -/
def Bough.pairs (b : Bough) (r : BitVec 8) : List W64 := lanes.map fun l => b.vreg64 r.toNat l

/-- ACOPY (R219). -/
def execAcopy (sl dl : Bool) (h : Hdr) (f : FmtE) (s : State) : Host.Outcome State Fault Refusal :=
  issue (.acopy sl dl h f) s fun t =>
    engineIssue (.acopy sl dl h f) f (withLength (s.ss f.pc).toNat) s t

/-- AFILL (R219). -/
def execAfill (h : Hdr) (f : FmtE) (s : State) : Host.Outcome State Fault Refusal :=
  issue (.afill h f) s fun t => engineIssue (.afill h f) f (withLength (s.ss f.pc).toNat) s t

/-- AGATHER (R219). -/
def execAgather (h : Hdr) (f : FmtE) (s : State) : Host.Outcome State Fault Refusal :=
  issue (.agather h f) s fun t =>
    engineIssue (.agather h f) f (fun o => { o with units := 32, vx := t.b.pairs f.vx }) s t

/-- ASCATTER (R219). -/
def execAscatter (h : Hdr) (f : FmtE) (s : State) : Host.Outcome State Fault Refusal :=
  issue (.ascatter h f) s fun t =>
    engineIssue (.ascatter h f) f (fun o => { o with units := 32, vx := t.b.pairs f.vx }) s t

/-- ACOLL (R220, R222): it counts as the k-th of its communicator where the table lists the partition. R222 leaves
open which of the other operations that end with status 0x02 count: one whose count is 0 or 2^32 and more does not,
and one that is refused for its record, a LOCAL region or its source does (log 17). -/
def execAcoll (h : Hdr) (f : FmtE) (s : State) : Host.Outcome State Fault Refusal :=
  issue (.acoll h f) s fun t =>
    let c := (s.ss f.pc).toNat
    let ok := c ≠ 0 && c < 2 ^ 32 && (s.comm s.b.part (collComm f)).any fun x => (x.rankOf s.b.part).isSome
    if !ok then engineIssue (.acoll h f) f (fun o => { o with status := 0x02 }) s t
    else
      let key := (s.b.part, collComm f)
      let k := ((s.collK.find? fun e => e.1 == key).map fun e => e.2).getD 0
      let t' := { t with collK := upsert (fun e => e.1 == key) (key, k + 1) t.collK }
      engineIssue (.acoll h f) f (fun o => { o with aux := [k], units := 1 }) s t'

/-- TOKTEST (R217). -/
def execToktest (h : Hdr) (f : FmtY) (s : State) : Host.Outcome State Fault Refusal :=
  issue (.toktest h f) s fun t =>
    let busy := (s.cores.flatMap fun e => e.2.ops).find? fun o => o.uid == s.b.uid &&
      match o.instr.view with
      | some (_, .e g) | some (_, .attn g _) => g.tk == f.s1
      | _ => false
    match busy with
    | none => .done ((t.writeSd f (s.ss f.s1)).writePd h f.pd fun _ => true)
    | some o =>
      .done ((t.writeSd f (BitVec.ofNat 64 (0xFF * 2 ^ 32 + o.progress % 2 ^ 32))).writePd h f.pd fun _ => false)

end Sys2Proof.Machine
end

