-- ==== Sys2Proof/Machine/Matrix.lean ====
section
/-! DEFINITION. Class 5, the matrix instructions (spec/10_matrix.md R282-R288, R295-R305) and SMERGE
(spec/11_attention.md R327, R328): operand slots, accumulator tiles, the matrix order, and what each
instruction does when it begins. -/

namespace Sys2Proof.Machine

/-! ## Slots and tiles -/

/-- A number from bytes, the lowest first. -/
def leNum : List Byte → Nat
  | [] => 0
  | b :: r => b.toNat + 256 * leNum r

/-- `k` runs of `n` elements of a list. -/
def chunks {α : Type} (n : Nat) : Nat → List α → List (List α)
  | 0, _ => []
  | k + 1, l => l.take n :: chunks n k (l.drop n)

/-- The first byte of a slot: 8,192 data bytes and 512 scale bytes (R282). -/
def slotBase (k : Nat) : Nat := 8704 * k

/-- The first byte of a tile: 65,536 bytes and 1,024 of its side area (R286, R322). -/
def tileBase (t : Nat) : Nat := 66560 * t

/-- Data row r of a slot, as a number of 64 bytes. -/
def Core.slotRow (c : Core) (k r : Nat) : Nat := Sparse.getLE c.slots (slotBase k + 64 * r) 64

/-- The scale bytes of a row. -/
def Core.slotScale (c : Core) (k r : Nat) : Nat := Sparse.getLE c.slots (slotBase k + 8192 + 4 * r) 4

/-- The bytes of a value of the accumulator type. -/
def accBytes (fmt : W32) : Nat := if fmtAcc fmt = 1 then 8 else 4

/-- The tiles that a value of the accumulator type lies in: ACC, or the pair for f64 (R286). -/
def accTiles (fmt : W32) (acc : Nat) : List Nat := if fmtAcc fmt = 1 then [acc, acc + 1] else [acc]

/-- The 128 rows of 128 values of a tile, or of a pair. -/
def Core.tileRows (c : Core) (fmt : W32) (acc : Nat) : List (List Nat) :=
  let bytes := (accTiles fmt acc).flatMap fun t => Sparse.list c.tiles (tileBase t) 65536
  chunks 128 128 ((chunks (accBytes fmt) 16384 bytes).map leNum)

/-- Writes the 128 rows. -/
def Core.setTileRows (c : Core) (fmt : W32) (acc : Nat) (rows : List (List Nat)) : Core :=
  let bytes := rows.flatten.flatMap fun v => leBytes (accBytes fmt) v
  { c with tiles := ((accTiles fmt acc).zip (chunks 65536 2 bytes)).foldl (fun m x =>
      Sparse.putList m (tileBase x.1) x.2) c.tiles }

/-- A value of the accumulator type. -/
def accVal (fmt : W32) (v : Nat) : Fp :=
  match fmtAcc fmt with
  | 0 => fmtF32.val v
  | 1 => fmtF64.val v
  | _ => ofInt (signed32 v)

/-- SUM and REF of the rows of a tile's side area (R322). -/
def Core.sideRows (c : Core) (t : Nat) : List (Nat × Nat) :=
  (chunks 8 128 (Sparse.list c.tiles (tileBase t + 65536) 1024)).map fun l => (leNum (l.take 4), leNum (l.drop 4))

def Core.setSideRows (c : Core) (t : Nat) (rows : List (Nat × Nat)) : Core :=
  let bytes := rows.flatMap fun x => leBytes 4 x.1 ++ leBytes 4 x.2
  { c with tiles := Sparse.putList c.tiles (tileBase t + 65536) bytes }

/-! ## Matrix order (R287) -/

/-- Slots by number, tiles from 16 on. -/
def tileRes (ts : List Nat) : List Nat := ts.map fun t => 16 + t

/-- The resources that an instruction reads (R287, R326). -/
def matReads (fmt : W32) (i : Instr) : List Nat :=
  match i with
  | .mma _ _ f => [f.sla.toNat, f.slb.toNat] ++ tileRes (accTiles fmt f.acc.toNat)
  | .mmas _ _ f =>
    [f.sla.toNat, f.sla.toNat + 1, f.slb.toNat, f.slb.toNat + 1] ++ tileRes (accTiles fmt f.acc.toNat)
  | .accst _ _ f => tileRes [f.acc.toNat]
  | .acccvt _ _ f | .accscale _ f => tileRes (accTiles fmt f.acc.toNat)
  | .attn _ _ f => (List.range 4).map (fun i => f.sla.toNat + i) ++ tileRes [f.acc.toNat]
  | .smerge _ f => if f.sub == 1 then tileRes [f.acc.toNat] else []
  | _ => []

/-- The resources that an instruction writes; `slots` are those that an OPREL releases. -/
def matWrites (fmt : W32) (slots : List Nat) (i : Instr) : List Nat :=
  match i with
  | .opfill _ _ f => [f.sla.toNat]
  | .mma _ _ f | .mmas _ _ f | .accscale _ f => tileRes (accTiles fmt f.acc.toNat)
  | .accld _ _ f | .acczero _ f | .attn _ _ f => tileRes [f.acc.toNat]
  | .acccvt _ _ f => if f.sub.getLsbD 6 then [] else [f.sla.toNat]
  | .smerge _ f => if f.sub == 1 then [] else tileRes [f.acc.toNat]
  | .oprel _ _ => slots
  | _ => []

/-- The slots that must be owned by the issuing copse (R283). -/
def matNames (i : Instr) : List Nat :=
  match i with
  | .opfill _ _ f => [f.sla.toNat]
  | .mma _ _ f => [f.sla.toNat, f.slb.toNat]
  | .mmas _ _ f => [f.sla.toNat, f.sla.toNat + 1, f.slb.toNat, f.slb.toNat + 1]
  | .acccvt _ _ f => if f.sub.getLsbD 6 then [] else [f.sla.toNat]
  | .attn _ _ f => (List.range 4).map fun i => f.sla.toNat + i
  | _ => []

/-- Two lists share an element. -/
def shares (a b : List Nat) : Bool := a.any fun x => b.contains x

/-- An earlier instruction with reads and writes holds a later one (R287). -/
def resHold (r1 w1 r2 w2 : List Nat) : Bool := shares w1 r2 || shares w1 w2 || shares r1 w2

/-- The queued matrix instructions that an unended OPFILL or ATTN issued before them holds, by itself or through
other instructions (R287). The queue stands in the order of issue. -/
def Core.engineHeld (c : Core) : List MatOp :=
  c.mq.foldl (fun held m =>
    let r := matReads m.fmt m.instr
    let w := matWrites m.fmt m.slots m.instr
    if held.any (fun o => resHold (matReads o.fmt o.instr) (matWrites o.fmt o.slots o.instr) r w) ||
        c.ops.any fun o => o.id < m.id && o.status == 0xFF && resHold (matReads 0 o.instr) (matWrites 0 [] o.instr) r w
    then held ++ [m] else held) []

/-- Puts a matrix instruction into a queue, in the order of issue. -/
def insertMat (m : MatOp) : List MatOp → List MatOp
  | [] => [m]
  | o :: r => if m.id < o.id then m :: o :: r else o :: insertMat m r

/-- An earlier matrix instruction, OPFILL or ATTN of the core holds instruction `id` (R287). -/
def Core.matHeld (c : Core) (id : Nat) (fmt : W32) (slots : List Nat) (i : Instr) : Bool :=
  let r := matReads fmt i
  let w := matWrites fmt slots i
  c.mq.any (fun o => o.id < id && resHold (matReads o.fmt o.instr) (matWrites o.fmt o.slots o.instr) r w) ||
  c.ops.any fun o => o.id < id && resHold (matReads 0 o.instr) (matWrites 0 [] o.instr) r w

/-- A slot is owned by the bough's copse, and no earlier OPREL of the copse names it (R283). -/
def State.ownsSlot (s : State) (b : Bough) (k : Nat) : Bool :=
  let c := s.core b.core
  c.slotOwn.contains (k, b.own) &&
    !c.mq.any fun o => o.part == b.part && o.launch == b.launch && o.cid == b.cid &&
      match o.instr with
      | .oprel _ _ => o.slots.contains k
      | _ => false

/-- The bits of tiles in a written mask (R286). -/
def tileMask (ws : List Nat) : BitVec 4 :=
  (List.range 4).foldl (fun m t => if ws.contains (16 + t) then m ||| (1#4 <<< t) else m) 0#4

/-- ACCZERO.rel, which clears a bit of the written mask where every other writer sets it (R302). -/
def isTileRel (i : Instr) : Bool :=
  match i with
  | .acczero _ f => f.sub == 1
  | _ => false

/-- The copse's written mask as the issue of an instruction leaves it (R286, R302). -/
def State.markTiles (s : State) (i : Instr) (fmt : W32) : State :=
  let m := if isTileRel i then 0#4 else tileMask (matWrites fmt [] i)
  s.modCopse s.b.part s.b.launch s.b.cid fun c => { c with written := c.written ||| m }

/-- The copse's written mask after an ACCZERO.rel has zeroed its tile: the bit is clear, unless an instruction of
the copse that was issued later, and so set it then, still waits to write the tile (R286, R302, log 19). -/
def State.relTile (s : State) (core : Nat) (o : MatOp) (t : Nat) : State :=
  let c := s.core core
  let later := c.mq.any (fun x => x.id > o.id && x.part == o.part && x.launch == o.launch && x.cid == o.cid &&
      !isTileRel x.instr && (matWrites x.fmt [] x.instr).contains (16 + t)) ||
    c.ops.any fun x => x.id > o.id && x.part == o.part && x.launch == o.launch && x.cid == o.cid &&
      (matWrites 0 [] x.instr).contains (16 + t)
  if later then s
  else s.modCopse o.part o.launch o.cid fun c => { c with written := c.written &&& ~~~(1#4 <<< t) }

/-- A matrix instruction at issue: its slots are checked, and it takes its place in the queue of 16 with
what it reads at issue (R283, R287). -/
def matIssue (i : Instr) (vals : List W64) (lanesIn : List W32) (slots : List Nat) (s t : State) : Res :=
  let c := s.core s.b.core
  if !(matNames i).all fun k => s.ownsSlot s.b k then .trap cUnclaimed 0 0
  else if c.mq.length ≥ 16 then .hold .drain s
  else if (s.b.windowRegs (matSpans i vals)).any fun x => (s.pendingVec s.b).any fun y => overlap x y then
    .hold .scoreboard s
  else
    let (id, t) := t.fresh
    let o : MatOp :=
      { id, uid := s.b.uid, part := s.b.part, launch := s.b.launch, cid := s.b.cid, instr := i, fmt := s.b.fmt,
        vals, lanesIn, slots, tok := t.b.itok }
    .done ((t.modCore s.b.core fun c => { c with mq := c.mq ++ [o] }).markTiles i s.b.fmt)

/-! ## OPCLAIM and OPREL (R284) -/

/-- The set bits of a 16-bit mask. -/
def slotsOf (m : Nat) : List Nat := (List.range 16).filter fun k => m.testBit k

/-- A mask of slots. -/
def slotMask (l : List Nat) : Nat := ofBits 16 fun k => l.contains k

/-- A slot that no copse owns. -/
def Core.freeSlot (c : Core) (k : Nat) : Bool := !c.slotOwn.any fun e => e.1 == k

/-- The slots that a claim of a bough would give it; none where it cannot be met (R284). -/
def State.claim (s : State) (b : Bough) (f : FmtY) : Option (List Nat) :=
  let c := s.core b.core
  if f.sub == 0 then
    let l := slotsOf f.imm.toNat
    if l.all fun k => c.freeSlot k || s.ownsSlot b k then some l else none
  else
    let l := (List.range 16).filter fun k => c.freeSlot k
    if l.length ≥ f.imm.toNat then some (l.take f.imm.toNat) else none

/-- Slots become owned by a bough's copse; those that were free read as zero (R283). -/
def State.takeSlots (s : State) (b : Bough) (l : List Nat) : State :=
  s.modCore b.core fun c =>
    l.foldl (fun c k =>
      if c.freeSlot k then
        { c with slotOwn := c.slotOwn ++ [(k, b.own)], slots := Sparse.drop c.slots (slotBase k) 8704 }
      else c) c

/-- A claim waits before another: it is older (R284). -/
def Bough.claimsBefore (x y : Bough) : Bool := x.waitSince < y.waitSince || (x.waitSince == y.waitSince && x.uid ≤ y.uid)

/-- Puts a bough behind those whose claims are older. -/
def insertClaim (x : Bough) : List Bough → List Bough
  | [] => [x]
  | y :: r => if y.claimsBefore x then y :: insertClaim x r else x :: y :: r

/-- The boughs whose waiting claims are met before one of `b`, oldest first: all that wait on its core, or
where it waits itself those that are older (R284). -/
def State.claimsAhead (s : State) (b : Bough) : List Bough :=
  (s.boughs.filter fun x => x.core == b.core && x.status == .running && x.wait == .opclaim && x.uid != b.uid &&
    (b.wait != .opclaim || x.claimsBefore b)).foldl (fun l x => insertClaim x l) []

/-- The state in which a bough's claim is looked at: those ahead of it that can be met have been. -/
def State.claimView (s : State) (b : Bough) : State :=
  (s.claimsAhead b).foldl (fun s x =>
    match x.instrAt with
    | some (.opclaim _ f) =>
      match s.claim x f with
      | some l => s.takeSlots x l
      | none => s
    | _ => s) s

/-- OPCLAIM (R284). -/
def execOpclaim (h : Hdr) (f : FmtY) (s : State) : Host.Outcome State Fault Refusal :=
  issue (.opclaim h f) s fun t =>
    match (s.claimView s.b).claim s.b f with
    | some l =>
      .done (((t.takeSlots s.b l).writeSd f (BitVec.ofNat 64 (slotMask l))).writePd h f.pd fun _ => true)
    | none =>
      if f.pd = none then .hold .opclaim s
      else .done ((t.writeSd f 0).writePd h f.pd fun _ => false)

/-- OPREL (R284): the slots become free when the instruction begins, after every earlier one that names
them (R287). -/
def execOprel (h : Hdr) (f : FmtY) (s : State) : Host.Outcome State Fault Refusal :=
  issue (.oprel h f) s fun t =>
    let l := (slotsOf f.imm.toNat).filter fun k => s.ownsSlot s.b k
    match matIssue (.oprel h f) [] [] l s t with
    | .done t => .done (t.writeSd f (BitVec.ofNat 64 (slotMask l)))
    | r => r

/-- Slots of a copse become free. -/
def Core.releaseSlots (c : Core) (own : Nat × Nat) (l : List Nat) : Core :=
  { c with slotOwn := c.slotOwn.filter fun e => !(e.2 == own && l.contains e.1) }

/-! ## Products (R296-R299) -/

/-- The bits of an element by its AFMT code. -/
def elemBits (code : Nat) : Nat :=
  match code with
  | 0 | 1 => 8
  | 2 | 3 | 4 => 4
  | 5 | 6 => 16
  | 7 => 32
  | _ => 64

/-- The type of an AFMT code, for the floating-point formats. -/
def elemTy (code : Nat) : Ty :=
  match code with
  | 0 => .e4m3
  | 1 => .e5m2
  | 2 => .e2m1
  | 3 => .o4
  | 5 => .bf16
  | 6 => .f16
  | 7 => .f32
  | _ => .f64

/-- The elements of a data row (R282, R298): a narrow one times its block's scale, as X19. -/
def rowElems (code : Nat) (scaled : Bool) (row scales : Nat) : List Fp :=
  let w := elemBits code
  if code ≤ 3 then
    (List.range (16 / w)).flatMap fun k =>
      let c := if scaled then byteOf scales k else 127
      (blockValues (elemTy code) (row / 2 ^ (32 * w * k) % 2 ^ (32 * w))).map fun v => fmtX19.val (expandX19 c v)
  else
    (List.range (512 / w)).map fun k =>
      let x := row / 2 ^ (w * k) % 2 ^ w
      if code = 4 then ofInt (nibble x) else (fmtOf (elemTy code)).val x

/-- The integer that a value is. -/
def Fp.int : Fp → Int
  | .fin neg m e => scaled neg m e 0
  | _ => 0

/-- Step of R298: the products of a step and the accumulator, none at the start of an overwriting one.
A sum that adds nothing adds −0, which changes no sum. -/
def mmaStep (fmt : W32) (r : MmaRow) (ps : List Fp) (acc : Option Nat) : Nat :=
  match fmtAcc fmt with
  | 0 =>
    fmtF32.round .rn false (dotSum .rn r.w r.g ps ((acc.map fmtF32.val).getD (.fin true 0 0)))
  | 1 =>
    fmtF64.round .rn false (((ps.head?).getD .nan).add .rn ((acc.map fmtF64.val).getD (.fin true 0 0)))
  | _ => wrap 32 ((ps.map Fp.int).foldl (fun s x => s + x) (signed32 (acc.getD 0)))

/-- One element of the product: the steps in increasing order. -/
def mmaCell (fmt : W32) (r : MmaRow) (steps : List (List Fp)) (acc : Option Nat) : Nat :=
  (steps.foldl (fun acc ps => some (mmaStep fmt r ps acc)) acc).getD 0

/-- The rows of a slot as elements. -/
def Core.slotElems (c : Core) (k code : Nat) (scaled : Bool) : List (List Fp) :=
  (List.range 128).map fun r => rowElems code scaled (c.slotRow k r) (c.slotScale k r)

/-- MMA (R297, R298). -/
def Core.mma (c : Core) (ovr : Bool) (fmt : W32) (f : FmtE) : Core :=
  match mmaRow fmt with
  | none => c
  | some r =>
    let a := (c.slotElems f.sla.toNat (fmtA fmt) (fmtSCA fmt)).map (chunks r.ks (r.k / r.ks))
    let b := (c.slotElems f.slb.toNat (fmtB fmt) (fmtSCB fmt)).map (chunks r.ks (r.k / r.ks))
    let rows := List.zipWith (fun x cs =>
      List.zipWith (fun y v =>
        mmaCell fmt r (List.zipWith products x y) (if ovr then none else some v)) b cs) a
      (c.tileRows fmt f.acc.toNat)
    c.setTileRows fmt f.acc.toNat rows

/-- The indices of the stored elements of a row of A (R299). -/
def sparseIndex (meta_ n : Nat) : List Nat := (List.range n).map fun j => meta_ / 2 ^ (3 * j) % 8

/-- The steps of a sparse row: each stored element, with the logical position it stands for (R299). -/
def sparseSteps (r : MmaRow) (q : Nat) (stored : List Fp) (meta_ : Nat) : List (List (Fp × Nat)) :=
  let n := 2 * r.k / 8 * q
  let items := (((stored.take n).zip (sparseIndex meta_ n)).zipIdx).map fun x =>
    (x.1.1, 8 * (x.2 / q) + x.1.2)
  chunks (r.ks / 8 * q) (2 * r.k / r.ks) items

/-- MMAS (R299). -/
def Core.mmas (c : Core) (ovr : Bool) (fmt : W32) (f : FmtE) : Core :=
  match mmaRow fmt with
  | none => c
  | some r =>
    let q := if fmtSparse fmt = 1 then 2 else 4
    let a := ((c.slotElems f.sla.toNat (fmtA fmt) (fmtSCA fmt)).zipIdx).map fun x =>
      sparseSteps r q x.1 (c.slotRow (f.sla.toNat + 1) x.2)
    let b := List.zipWith (fun x y => x ++ y) (c.slotElems f.slb.toNat (fmtB fmt) (fmtSCB fmt))
      (c.slotElems (f.slb.toNat + 1) (fmtB fmt) (fmtSCB fmt))
    let rows := List.zipWith (fun x cs =>
      List.zipWith (fun y v =>
        mmaCell fmt r (x.map fun ps => ps.map fun p => p.1.mul ((y[p.2]?).getD .nan))
          (if ovr then none else some v)) b cs) a (c.tileRows fmt f.acc.toNat)
    c.setTileRows fmt f.acc.toNat rows

/-- MMA and MMA.ovr (R297). -/
def execMma (ovr : Bool) (h : Hdr) (f : FmtE) (s : State) : Host.Outcome State Fault Refusal :=
  issue (.mma ovr h f) s fun t => matIssue (.mma ovr h f) [] [] [] s t

/-- MMAS and MMAS.ovr (R299). -/
def execMmas (ovr : Bool) (h : Hdr) (f : FmtE) (s : State) : Host.Outcome State Fault Refusal :=
  issue (.mmas ovr h f) s fun t => matIssue (.mmas ovr h f) [] [] [] s t

/-! ## Moving and zeroing (R300-R302) -/

/-- The first row and the rows of ACCLD and ACCST. -/
def accRow0 (f : FmtE) : Nat := f.imm.toNat % 128
def accRows (f : FmtE) : Nat := f.imm.toNat / 128 + 1

/-- Word c of row r of a tile lies at this byte (R286). -/
def wordAt (t r c : Nat) : Nat := tileBase t + 4 * (128 * r + c)

/-- The address of word c of the i-th row of a LOCAL block of words (R301, R327). -/
def localWord (pa pb : W64) (i c : Nat) : Nat := (pa.toNat / 4 * 4 + i * (pb.toNat / 4 * 4) + 4 * c) % 2 ^ 64

/-- The words that ACCLD reads from registers at issue, row by row. -/
def Bough.accWords (b : Bough) (f : FmtE) : List W32 :=
  (List.range (accRows f)).flatMap fun i =>
    (List.range 128).map fun c => b.vreg (f.vx.toNat + 4 * i + c / 32) (c % 32)

/-- ACCLD and ACCLD.local (R300, R301). -/
def execAccld (loc : Bool) (h : Hdr) (f : FmtE) (s : State) : Host.Outcome State Fault Refusal :=
  issue (.accld loc h f) s fun t =>
    matIssue (.accld loc h f) [s.ss f.pa, s.ss f.pb] (if loc then [] else t.b.accWords f) [] s t

/-- ACCST and ACCST.local (R300, R301). -/
def execAccst (loc : Bool) (h : Hdr) (f : FmtE) (s : State) : Host.Outcome State Fault Refusal :=
  issue (.accst loc h f) s fun t => matIssue (.accst loc h f) [s.ss f.pa, s.ss f.pb] [] [] s t

/-- ACCZERO (R302). -/
def execAcczero (h : Hdr) (f : FmtE) (s : State) : Host.Outcome State Fault Refusal :=
  issue (.acczero h f) s fun t => matIssue (.acczero h f) [] [] [] s t

/-- Words of LOCAL space as a matrix instruction reads them. -/
def State.matLocalRd (s : State) (core : Nat) (o : MatOp) (a n : Nat) : Nat :=
  s.localRdN core o.part o.launch o.cid a n

def State.matLocalWr (s : State) (core : Nat) (o : MatOp) (a n v : Nat) : State :=
  s.localWrN core o.part o.launch o.cid a n v

/-- ACCLD begins: words into consecutive rows of a tile. -/
def State.accLoad (s : State) (core : Nat) (o : MatOp) (loc : Bool) (f : FmtE) : State :=
  let word (i c : Nat) : Nat :=
    if loc then s.matLocalRd core o (localWord ((o.vals[0]?).getD 0) ((o.vals[1]?).getD 0) i c) 4
    else ((o.lanesIn[128 * i + c]?).getD 0).toNat
  let bytes := (List.range (accRows f)).flatMap fun i => (List.range 128).flatMap fun c => leBytes 4 (word i c)
  s.modCore core fun k => { k with tiles := Sparse.putList k.tiles (wordAt f.acc.toNat (accRow0 f) 0) bytes }

/-- ACCST begins: words of consecutive rows to registers or LOCAL space. -/
def State.accStore (s : State) (core : Nat) (o : MatOp) (loc : Bool) (f : FmtE) : State :=
  let word (i c : Nat) : Nat := Sparse.getLE (s.core core).tiles (wordAt f.acc.toNat (accRow0 f + i) c) 4
  let cells := (List.range (accRows f)).flatMap fun i => (List.range 128).map fun c => (i, c)
  if loc then
    cells.foldl (fun t x =>
      t.matLocalWr core o (localWord ((o.vals[0]?).getD 0) ((o.vals[1]?).getD 0) x.1 x.2) 4 (word x.1 x.2)) s
  else
    s.modBough o.uid fun b => cells.foldl (fun b x =>
      b.setVreg false (f.vx.toNat + 4 * x.1 + x.2 / 32) (x.2 % 32) (BitVec.ofNat 32 (word x.1 x.2))) b

/-- Every word of a tile and its side area become zero (R302). -/
def Core.zeroTile (c : Core) (t : Nat) : Core := { c with tiles := Sparse.drop c.tiles (tileBase t) 66560 }

/-! ## ACCCVT (R303, R304) -/

/-- How ACCCVT rounds: dither with .rs and SE = 1, else the mode of FMT.RM with rs read as rn. -/
def cvtRounding (rs : Bool) (fmt : W32) : Rounding :=
  if rs then (if fmtSE fmt then .dither (fmtPhase fmt) else .by_ .rn) else .by_ (modeOfCode (fmtRM fmt))

/-- ACCCVT and ACCCVT.rs (R303). -/
def execAcccvt (rs : Bool) (h : Hdr) (f : FmtE) (s : State) : Host.Outcome State Fault Refusal :=
  issue (.acccvt rs h f) s fun t =>
    match matIssue (.acccvt rs h f) [s.ss f.pa, s.ss f.pb, s.ss f.pc] [] [] s t with
    | .done t => .done (if rs then t.modB fun b => b.advancePhase (cvtRounding rs s.b.fmt) else t)
    | r => r

/-- One output row of ACCCVT: its 64 bytes and its scale bytes, as numbers. -/
def cvtRow (rs : Bool) (fmt : W32) (code g : Nat) (row : List Nat) : Nat × Nat :=
  let r := cvtRounding rs fmt
  let w := elemBits code
  let n := 512 / w
  let xs := ((row.drop (g * n)).take n).map (accVal fmt)
  if code ≤ 3 then
    ((chunks 32 (n / 32) xs).zipIdx).foldl (fun acc x =>
      let (s8, bytes) := packBlock (elemTy code) r x.1
      (acc.1 + 2 ^ (32 * w * x.2) * bytes, acc.2 + 256 ^ x.2 * s8)) (0, 0)
  else
    (xs.zipIdx.foldl (fun acc x => acc + 2 ^ (16 * x.2) * (fmtOf (elemTy code)).roundBy r false x.2 x.1) 0, 0)

/-- ACCCVT begins (R304). -/
def State.accConvert (s : State) (core : Nat) (o : MatOp) (rs : Bool) (f : FmtE) : State :=
  let code := f.sub.toNat % 16
  let out := ((s.core core).tileRows o.fmt f.acc.toNat).map (cvtRow rs o.fmt code (f.sub.toNat / 16 % 4))
  if f.sub.getLsbD 6 then
    let v (k : Nat) : Nat := ((o.vals[k]?).getD 0).toNat
    let blocks := if code ≤ 3 then 16 / elemBits code else 0
    (out.zipIdx).foldl (fun t x =>
      let t := t.matLocalWr core o ((v 0 + x.2 * v 1) % 2 ^ 64) 64 x.1.1
      t.matLocalWr core o ((v 2 + blocks * x.2) % 2 ^ 64) blocks x.1.2) s
  else
    let data := out.flatMap fun x => leBytes 64 x.1
    let scales := out.flatMap fun x => leBytes 4 x.2
    s.modCore core fun c =>
      let m := Sparse.putList c.slots (slotBase f.sla.toNat) data
      { c with slots := Sparse.putList m (slotBase f.sla.toNat + 8192) scales }

/-! ## ACCSCALE (R305) -/

/-- ACCSCALE and ACCSCALE.u (R305). -/
def execAccscale (h : Hdr) (f : FmtE) (s : State) : Host.Outcome State Fault Refusal :=
  issue (.accscale h f) s fun t =>
    let ns := (List.range 128).map fun r =>
      if f.sub == 1 then BitVec.truncate 32 (s.ss f.pa) else t.b.vreg (f.vx.toNat + r / 32) (r % 32)
    matIssue (.accscale h f) [] ns [] s t

/-- C[r][c] times 2^n_r, rounded in the accumulator type. -/
def Core.scaleRows (c : Core) (o : MatOp) (acc : Nat) : Core :=
  let fm := if fmtAcc o.fmt = 1 then fmtF64 else fmtF32
  c.setTileRows o.fmt acc (List.zipWith (fun (row : List Nat) (n : W32) =>
    row.map fun v => fm.round .rn false (fpScale n.toInt (fm.val v))) (c.tileRows o.fmt acc) o.lanesIn)

/-! ## SMERGE (R327, R328) -/

/-- REF of a row that has none (R322). -/
def noRef : Nat := 0x80000000

/-- Rounds to f32 in rn. -/
def rnd32 (x : Fp) : Nat := fmtF32.round .rn false x

/-- An f32 times 2^n, rounded. -/
def scale32 (v : Nat) (n : Int) : Nat := rnd32 (fpScale n (fmtF32.val v))

/-- The sum of two f32 values, rounded. -/
def add32 (a b : Nat) : Nat := rnd32 ((fmtF32.val a).add .rn (fmtF32.val b))

/-- A row divided by its SUM, where SUM is not zero (R325, R328). -/
def finRow (row : List Nat) (sum : Nat) : List Nat :=
  if (fmtF32.val sum).isZero then row
  else row.map fun v => rnd32 ((fmtF32.val v).div keepBits (fmtF32.val sum))

/-- Merges the splits of one row: words, SUM and REF of each, in split order (R328). -/
def mergeRow (fin : Bool) (xs : List (List Nat × Nat × Nat)) : List Nat × Nat × Nat :=
  let vs := xs.filter fun x => x.2.2 != noRef
  match vs.map fun x => signed32 x.2.2 with
  | [] => (List.replicate 128 0, 0, noRef)
  | r :: rs =>
    let rmax := rs.foldl max r
    let part (x : List Nat × Nat × Nat) : List Nat × Nat :=
      let d := signed32 x.2.2 - rmax
      (x.1.map fun v => scale32 v d, scale32 x.2.1 d)
    match vs.map part with
    | [] => (List.replicate 128 0, 0, noRef)
    | p :: ps =>
      let (row, sum) := ps.foldl (fun a b => (List.zipWith add32 a.1 b.1, add32 a.2 b.2)) p
      (if fin then finRow row sum else row, sum, wrap 32 rmax)

/-- SMERGE (R327). -/
def execSmerge (h : Hdr) (f : FmtE) (s : State) : Host.Outcome State Fault Refusal :=
  issue (.smerge h f) s fun t => matIssue (.smerge h f) [s.ss f.pa, s.ss f.pb] [] [] s t

/-- Row q of split i as it lies in LOCAL space. -/
def State.splitRow (s : State) (core : Nat) (o : MatOp) (pa pb : W64) (i q : Nat) : List Nat × Nat × Nat :=
  let w (c : Nat) : Nat := s.matLocalRd core o (localWord pa pb i c) 4
  ((List.range 128).map fun c => w (128 * q + c), w (16384 + 2 * q), w (16385 + 2 * q))

/-- SMERGE begins (R327, R328). -/
def State.merge (s : State) (core : Nat) (o : MatOp) (f : FmtE) : State :=
  let pa := (o.vals[0]?).getD 0
  let pb := (o.vals[1]?).getD 0
  let t := f.acc.toNat
  if f.sub == 1 then
    let word (j : Nat) : Nat := Sparse.getLE (s.core core).tiles (tileBase t + 4 * j) 4
    (List.range 16640).foldl (fun u j => u.matLocalWr core o (localWord pa pb 0 j) 4 (word j)) s
  else
    let rows := (List.range 128).map fun q =>
      mergeRow (f.sub.getLsbD 2) ((List.range (f.imm.toNat % 16 + 1)).map fun i => s.splitRow core o pa pb i q)
    s.modCore core fun c =>
      (c.setTileRows 0 t (rows.map fun x => x.1)).setSideRows t (rows.map fun x => x.2)

/-! ## MATRIX_BEGIN (R287) -/

/-- What a matrix instruction does when it begins. -/
def State.matEffect (s : State) (core : Nat) (o : MatOp) : State :=
  match o.instr with
  | .oprel _ _ => s.modCore core fun c => c.releaseSlots (lkey o.part o.launch, o.cid) o.slots
  | .mma ovr _ f => s.modCore core fun c => c.mma ovr o.fmt f
  | .mmas ovr _ f => s.modCore core fun c => c.mmas ovr o.fmt f
  | .accld loc _ f => s.accLoad core o loc f
  | .accst loc _ f => s.accStore core o loc f
  | .acczero _ f =>
    let z := s.modCore core fun c => c.zeroTile f.acc.toNat
    if f.sub == 1 then z.relTile core o f.acc.toNat else z
  | .acccvt rs _ f => s.accConvert core o rs f
  | .accscale _ f => s.modCore core fun c => c.scaleRows o f.acc.toNat
  | .smerge _ f => s.merge core o f
  | _ => s

/-- A matrix instruction of any core, by its number. -/
def State.matOp (s : State) (k : Nat) : Option (Nat × MatOp) :=
  s.cores.findSome? fun e => (e.2.mq.find? fun o => o.id == k).map fun o => (e.1, o)

/-- MATRIX_BEGIN (R287): the instruction is performed, if no earlier one holds it. Its flag clears by its
completion (R39). -/
def execMatrixBegin (k : Nat) (s : State) : Host.Outcome State Fault Refusal :=
  match s.matOp k with
  | none => .next s
  | some (core, o) =>
    if (s.core core).matHeld o.id o.fmt o.slots o.instr then .next s
    else
      let s := s.matEffect core o
      let s := s.modCore core fun c => { c with mq := c.mq.filter fun x => x.id != k }
      if o.tok = 0 then .next s
      else
        let (id, s) := s.fresh
        .next { s with infl := s.infl ++ [{ id, uid := o.uid, tok := o.tok }] }

/-! ## BANKCNT (R295) -/

/-- BANKCNT (R295). -/
def execBankcnt (h : Hdr) (f : FmtY) (s : State) : Host.Outcome State Fault Refusal :=
  issue (.bankcnt h f) s fun t =>
    .done ((t.writeSd f s.b.bankcnt).modB fun b => if f.sub == 1 then { b with bankcnt := 0 } else b)

end Sys2Proof.Machine
end

