-- ==== Sys2Proof/Machine/Fill.lean ====
section
/-! DEFINITION. Filling operand slots (spec/10_matrix.md R289-R294): layout records, the address generator,
OPFILL and its bank conflicts, and LAYOUT. -/

namespace Sys2Proof.Machine

/-! ## Layout records (R289, R290) -/

/-- STR_j, in bytes. -/
def layStr (x j : Nat) : Int := signed32 (x / 2 ^ (32 * j) % 2 ^ 32)

/-- EXT_j + 1. -/
def layExt (x j : Nat) : Nat := x / 2 ^ (128 + 16 * j) % 2 ^ 16 + 1

/-- The elements of a fill. -/
def layCount (x : Nat) : Nat := layExt x 0 * layExt x 1 * layExt x 2 * layExt x 3

/-- The source address of element p (R290). -/
def layAddr (base : W64) (x p : Nat) : Nat :=
  let i0 := p % layExt x 0
  let i1 := p / layExt x 0 % layExt x 1
  let i2 := p / (layExt x 0 * layExt x 1) % layExt x 2
  let i3 := p / (layExt x 0 * layExt x 1 * layExt x 2)
  ((base.toNat + (layStr x 0 * i0 + layStr x 1 * i1 + layStr x 2 * i2 + layStr x 3 * i3)) % (2 ^ 64 : Int)).toNat

/-- The record and the size of the fill hold (R292): zero bits, whole rows, and room from row0 on. -/
def layOk (x z row0 : Nat) (scale : Bool) : Bool :=
  let u := if scale then 4 else 64
  let cap := if scale then 512 else 8192
  let t := z * layCount x
  x / 2 ^ 192 == 0 && t % u == 0 && row0 * u + t ≤ cap

/-! ## Bank conflicts (R293) -/

/-- The most rows of one bank among distinct rows. -/
def mostInBank (rows : List Nat) : Nat :=
  (rows.map fun r => (rows.filter fun q => q / 128 == r / 128).length).foldl max 0

/-- The conflicts of one beat: the most distinct rows that it touches in one bank, less 1. -/
def beatConflicts (as_ : List Nat) : Nat :=
  mostInBank (((as_.filter fun a => a < 0xC0000).map fun a => a / 128).eraseDups) - 1

/-- The conflicts of the first `n` elements of a fill from LOCAL space, beat by beat (R293). -/
def fillConflicts (base : W64) (x z n : Nat) : Nat :=
  let as_ := (List.range n).map fun p => layAddr base x p
  ((chunks (128 / z) (n * z / 128 + 1) as_).map beatConflicts).foldl (· + ·) 0

/-! ## OPFILL (R291, R292) -/

/-- z of OPFILL. -/
def fillZ (f : FmtE) : Nat := 2 ^ (f.imm.toNat / 128 % 4)

def fillScale (f : FmtE) : Bool := f.imm.getLsbD 9

def fillRow0 (f : FmtE) : Nat := f.imm.toNat % 128

/-- The layout record of an OPFILL is read, once its footprint record has been (R292). -/
def State.readLayout (s : State) (k : Nat) : State :=
  match s.engOp k with
  | none => s
  | some (core, o) =>
    match o.instr with
    | .opfill _ _ f =>
      if !o.haveRec || o.status != 0xFF || o.seq != 0 || o.aux != [] then s
      else if o.pb.toNat % 8 ≠ 0 then s.setOp core { o with status := 0x02 }
      else
        match s.roWords core o.part o.pb.toNat 4 with
        | (.error e, s) => s.engineFault core o e.1 e.2
        | (.ok x, s) =>
          if layOk x (fillZ f) (fillRow0 f) (fillScale f) then
            s.setOp core { o with aux := [x], units := layCount x }
          else s.setOp core { o with status := 0x02 }
    | _ => s

/-- OPFILL.local and OPFILL.global (R291). -/
def execOpfill (glob : Bool) (h : Hdr) (f : FmtE) (s : State) : Host.Outcome State Fault Refusal :=
  issue (.opfill glob h f) s fun t =>
    if !(matNames (.opfill glob h f)).all fun k => s.ownsSlot s.b k then .trap cUnclaimed 0 0
    else
      match engineIssue (.opfill glob h f) f (fun o => o) s t with
      | .done u => .done (u.readLayout t.nuid)
      | r => r

/-- Bytes `a` to `a + n - 1`, as an engine reads them. -/
def State.engBytes (s : State) (core : Nat) (o : EngOp) (loc : Bool) (a : Nat) :
    Nat → Except UnitRes (List Byte) × State
  | 0 => (.ok [], s)
  | n + 1 =>
    match s.engRead core o loc a with
    | (.error e, s) => (.error e, s)
    | (.ok v, s) =>
      match State.engBytes s core o loc (a + 1) n with
      | (.ok l, s) => (.ok (BitVec.ofNat 8 v :: l), s)
      | r => r

/-- Unit `done` of OPFILL: one element. -/
def unitOpfill (glob : Bool) (f : FmtE) (core : Nat) (s : State) (o : EngOp) : UnitRes :=
  let z := fillZ f
  let a := layAddr o.pa ((o.aux[0]?).getD 0) o.done
  if a % z ≠ 0 then .stop 0x02 s
  else
    match s.engBytes core o (!glob) a z with
    | (.error e, _) => e
    | (.ok l, s) =>
      let at_ := slotBase f.sla.toNat +
        (if fillScale f then 8192 + 4 * fillRow0 f else 64 * fillRow0 f) + o.done * z
      .ok (s.modCore core fun c => { c with slots := Sparse.putList c.slots at_ l }) o

/-! ## LAYOUT (R294) -/

/-- What LAYOUT gives for a record; none where a check fails. -/
def layResult (x z : Nat) (scale : Bool) (base : W64) : Option Nat :=
  if layOk x z 0 scale && (List.range (layCount x)).all fun p => layAddr base x p % z == 0 then
    some (joinBits [(32, z * layCount x), (32, fillConflicts base x z (layCount x))])
  else none

/-- LAYOUT (R294): the record is read as LDRO reads. -/
def execLayout (h : Hdr) (f : FmtY) (s : State) : Host.Outcome State Fault Refusal :=
  issue (.layout h f) s fun t =>
    let va := (s.ss f.s1).toNat
    let out (t : State) (r : Option Nat) : State :=
      (t.writeSd f (BitVec.ofNat 64 (r.getD 0))).writePd h f.pd fun _ => r.isSome
    if va % 8 ≠ 0 then .done (out t none)
    else
      access s t false 32 [(32, va)] (s.b.guard h) s.roCheck fun t ps _ =>
        let (t, x) := ps.foldl (fun (r : State × Nat) p =>
          let (v, t) := r.1.roRead s.b.core p.pa p.n
          (t, r.2 + v * 2 ^ (8 * p.off))) (t, 0)
        out t (layResult x (2 ^ (f.imm.toNat % 4)) (f.imm.getLsbD 2) (s.ss f.s2))

end Sys2Proof.Machine
end

