-- ==== Sys2Proof/Machine/Attention.lean ====
section
/-! DEFINITION. ATTN (spec/11_attention.md R320, R322-R326). -/

namespace Sys2Proof.Machine

/-- The key row and the value row of token row u of lane l's block in a region (R320). -/
def kRow (base : W64) (l u : Nat) : Nat := base.toNat + 0x4000 * ((u + l) % 32) + 256 * l

def vRow (base : W64) (l u : Nat) : Nat := kRow base l u + 0x2000

/-- A region base that R319 allows. -/
def regionOk (base : W64) : Bool := base.toNat % 0x4000 == 0 && base.toNat ≤ 0x40000

/-- ATTN (R323). `aux` captures the positions of query row 0 and of token 0. -/
def execAttn (full : Option AttnMask) (h : Hdr) (f : FmtE) (s : State) : Host.Outcome State Fault Refusal :=
  issue (.attn full h f) s fun t =>
    if !(matNames (.attn full h f)).all fun k => s.ownsSlot s.b k then .trap cUnclaimed 0 0
    else
      let nt := (s.ss f.pb).toNat
      let bad := nt < 1 || nt > 512 || !regionOk (s.ss f.pa)
      let pos := match full with
        | some m => [(s.ss m.qs).toNat % 2 ^ 32, (s.ss m.ks).toNat % 2 ^ 32]
        | none => [0, 0]
      match engineIssue (.attn full h f) f (fun o =>
          { o with aux := pos, units := ceil16 nt, status := if bad then 0x02 else 0xFF }) s t with
      | .done t => .done (t.markTiles (.attn full h f) 0)
      | r => r

/-- Token j is visible to query row q (R324). -/
def visible (full : Option AttnMask) (aux : List Nat) (q j : Nat) : Bool :=
  match full with
  | none => true
  | some m =>
    let qp := ((aux[0]?).getD 0 + q / 2 ^ m.g.toNat) % 2 ^ 32
    let kp := ((aux[1]?).getD 0 + j) % 2 ^ 32
    !m.causal || (kp ≤ qp && (m.win == 0 || qp - kp < m.win.toNat))

/-- 128 bf16 elements of a number of 256 bytes. -/
def bf16Row (x : Nat) : List Fp := (List.range 128).map fun d => fmtBf16.val (x / 2 ^ (16 * d) % 2 ^ 16)

/-- Query row q: four slots of 32 elements (R325). -/
def Core.queryRow (c : Core) (sla q : Nat) : List Fp :=
  bf16Row ((List.range 4).foldl (fun n i => n + 2 ^ (512 * i) * c.slotRow (sla + i) q) 0)

/-- Dot(q, j) (R325). -/
def attnDot (q k : List Fp) : Nat :=
  ((chunks 8 16 q).zip (chunks 8 16 k)).foldl (fun acc x =>
    rnd32 (dotSum .rn 32 4 (products x.1 x.2) (fmtF32.val acc))) 0

/-- 0x3FB8_AA3B, L2E of R325. -/
def l2e : Fp := fmtF32.val 0x3FB8AA3B

/-- t[j] (R325). -/
def attnScore (scale : Nat) (q k : List Fp) : Fp :=
  let a := rnd32 ((fmtF32.val (attnDot q k)).mul (fmtF32.val scale))
  fmtF32.val (rnd32 ((fmtF32.val a).mul l2e))

/-- ⌈x⌉ of a finite value, saturated as R325 says. -/
def ceilSat (x : Fp) : Int :=
  match x with
  | .fin neg m e => satInt (-2 ^ 31 + 1) (2 ^ 31 - 1) (roundInt (.by_ .ru) 0 neg m e)
  | _ => 0

/-- One query row over one block: its scores with the value rows of their tokens; the row's words, SUM
and REF before and after (R325). -/
def attnRow (ts : List (Fp × List Fp)) (row : List Nat) (sum ref : Nat) : List Nat × Nat × Nat :=
  let js := ts.filter fun x => x.1 != .inf true
  if js = [] then (row, sum, ref)
  else if js.any fun x => x.1 == .nan || x.1 == .inf false then
    (row.map fun _ => fmtF32.nan, fmtF32.nan, if ref = noRef then 0 else ref)
  else
    let m := (js.map fun x => ceilSat x.1).foldl max (-2 ^ 31 + 1)
    let r := signed32 ref
    let up := decide (ref ≠ noRef) && decide (m > r)
    let row := if up then row.map fun v => scale32 v (r - m) else row
    let sum := if up then scale32 sum (r - m) else sum
    let r := if ref = noRef || up then m else r
    let ps := js.map fun x => fmtF32.val (rnd32 (fpExp2 (x.1.add .rn (ofInt (-r)))))
    let sum := rnd32 (dotSum .rn 52 5 ps (fmtF32.val sum))
    let row := (row.zipIdx).map fun v =>
      let vs := js.map fun x => (x.2[v.2]?).getD .nan
      rnd32 (dotSum .rn 52 5 (products ps vs) (fmtF32.val v.1))
    (row, sum, wrap 32 r)

/-- The key and value rows of the tokens of a block that some query row sees, as the engine reads them. -/
def State.attnTokens (s : State) (core : Nat) (o : EngOp) (see : Nat → Bool) :
    List Nat → Except UnitRes (List (Nat × List Fp × List Fp))
  | [] => .ok []
  | j :: js =>
    if !see j then s.attnTokens core o see js
    else
      match (s.engBytes core o true (kRow o.pa (j / 16) (j % 16)) 256).1,
            (s.engBytes core o true (vRow o.pa (j / 16) (j % 16)) 256).1 with
      | .error e, _ => .error e
      | _, .error e => .error e
      | .ok k, .ok v =>
        match s.attnTokens core o see js with
        | .error e => .error e
        | .ok l => .ok ((j, bf16Row (leNum k), bf16Row (leNum v)) :: l)

/-- Unit `done` of ATTN: one block of 16 tokens, with .init before the first and .fin after the last. -/
def unitAttn (full : Option AttnMask) (f : FmtE) (core : Nat) (s : State) (o : EngOp) : UnitRes :=
  let nq := f.imm.toNat % 128 + 1
  let t := f.acc.toNat
  let b := o.done
  let nt := o.pb.toNat
  let js := (List.range 16).filterMap fun i => if 16 * b + i < nt then some (16 * b + i) else none
  let see (j : Nat) : Bool := (List.range nq).any fun q => visible full o.aux q j
  match s.attnTokens core o see js with
  | .error (.stop st _) => .stop st s
  | .error e => e
  | .ok toks =>
    let c := s.core core
    let first := f.sub.getLsbD 0 && b == 0
    let last := f.sub.getLsbD 1 && b + 1 == o.units
    let step (x : (List Nat × Nat × Nat) × Nat) : List Nat × Nat × Nat :=
      let q := x.2
      if q ≥ nq then x.1
      else
        let old := if first then (List.replicate 128 0, 0, noRef) else x.1
        let qs := c.queryRow f.sla.toNat q
        let mine := toks.filter fun y => visible full o.aux q y.1
        let new := attnRow (mine.map fun y => (attnScore (o.pc_.toNat % 2 ^ 32) qs y.2.1, y.2.2)) old.1
          old.2.1 old.2.2
        if last then (finRow new.1 new.2.1, new.2) else new
    let rows := (((c.tileRows 0 t).zip (c.sideRows t)).zipIdx).map step
    .ok (s.modCore core fun c =>
      (c.setTileRows 0 t (rows.map fun x => x.1)).setSideRows t (rows.map fun x => x.2)) o

end Sys2Proof.Machine
end

