-- ==== Sys2Proof/Machine/Barrier.lean ====
section
/-! DEFINITION. Copse and launch barriers (spec/09_atomics.md R272-R274), fences
(spec/08_ordering.md R229, R230), and the phases of a deterministic launch (R249, R255, R256). -/

namespace Sys2Proof.Machine

/-! ## Copse barriers (R272, R273) -/

/-- The bough arrives at a barrier of its copse, whose generations are then evaluated again. -/
def State.arrive (s : State) (id count : Nat) : State :=
  (s.modCopse s.b.part s.b.launch s.b.cid fun c =>
    let x := c.bar id
    c.setBar id
      { x with target := if x.arr.isEmpty then (if count = 0 then barAll else count) else x.target,
               arr := x.arr ++ [s.b.uid] }).settleBars s.b.part s.b.launch s.b.cid

/-- A barrier of the bough's copse. -/
def State.barOf (s : State) (id : Nat) : Bar :=
  ((s.copseOf s.b).map fun c => c.bar id).getD { gen := 0, target := 0, arr := [] }

/-- BAR (R273). -/
def execBar (h : Hdr) (f : FmtY) (s : State) : Host.Outcome State Fault Refusal :=
  issue (.bar h f) s fun t =>
    let id := f.imm.toNat % 16
    let c := f.imm.toNat / 16 % 64
    if s.b.arrived then
      if (s.barOf id).gen > s.b.arrGen then .done (t.modB fun b => { b with arrived := false })
      else .hold (.barrier id) s
    else if !s.releaseReady s.b true then .hold .fence s
    else if (s.barOf id).arr.contains s.b.uid then .hold (.barrier id) s
    else
      let gen := (s.barOf id).gen
      let s' := s.arrive id c
      if (s'.barOf id).gen > gen then .done (t.arrive id c)
      else .hold (.barrier id) (s'.modB fun b => { b with arrived := true, arrGen := gen })

/-- BAR.arrive (R273). -/
def execBarArrive (h : Hdr) (f : FmtY) (s : State) : Host.Outcome State Fault Refusal :=
  issue (.barArrive h f) s fun t =>
    let id := f.imm.toNat % 16
    let c := f.imm.toNat / 16 % 64
    if !s.releaseReady s.b true then .hold .fence s
    else if (s.barOf id).arr.contains s.b.uid then .hold (.barrier id) s
    else
      let gen := (s.barOf id).gen
      .done ((t.arrive id c).modB fun b =>
        { b with lastArr := Sparse.set b.lastArr id (BitVec.ofNat 32 (gen + 1)) })

/-- BAR.wait (R273): for the generation of the bough's most recent BAR.arrive. -/
def execBarWait (h : Hdr) (f : FmtY) (s : State) : Host.Outcome State Fault Refusal :=
  issue (.barWait h f) s fun t =>
    let id := f.imm.toNat % 16
    let g := (Sparse.get s.b.lastArr id).toNat
    if g = 0 || (s.barOf id).gen ≥ g then .done t else .hold (.barrier id) s

/-! ## The launch-wide barrier (R274) -/

/-- The bough arrives at its launch's barrier. -/
def State.garrive (s : State) : State :=
  (s.modLaunch s.b.part s.b.launch fun l => { l with garr := l.garr ++ [s.b.uid] }).settleGbar
    s.b.part s.b.launch

/-- The generation of the launch's barrier. -/
def State.ggenOf (s : State) : Nat := ((s.launchOf s.b).map fun l => l.ggen).getD 0

/-- GBAR and DETPHASE: arrival, and departure with the number of the generation that completed. -/
def launchBarrier (depart : State → State) (f : FmtY) (s t : State) : Res :=
  let leave (t : State) (gen : Nat) : State := depart (t.writeSd f (BitVec.ofNat 64 gen))
  if s.b.arrived then
    if s.ggenOf > s.b.arrGen then
      .done (leave (t.modB fun b => { b with arrived := false }) s.b.arrGen)
    else .hold .gbar s
  else if !s.releaseReady s.b false then .hold .fence s
  else
    let gen := s.ggenOf
    if s.garrive.ggenOf > gen then .done (leave t.garrive gen)
    else .hold .gbar (s.garrive.modB fun b => { b with arrived := true, arrGen := gen })

/-- GBAR (R274). -/
def execGbar (h : Hdr) (f : FmtY) (s : State) : Host.Outcome State Fault Refusal :=
  issue (.gbar h f) s fun t => launchBarrier (fun t => t) f s t

/-- DETPHASE (R255): the predicate holds when no event of R256 other than RLOST occurred in the phase. -/
def execDetphase (h : Hdr) (f : FmtY) (s : State) : Host.Outcome State Fault Refusal :=
  issue (.detphase h f) s fun t =>
    launchBarrier (fun t =>
      let ev := ((t.launchOf t.b).map fun l => l.lastev).getD 0
      t.writePd h f.pd fun _ => ev &&& 7 == 0) f s t

/-- What DETQ reads (R256). -/
def detItem (l : Launch) (sub k : Nat) : Nat :=
  if !l.desc.det then 0
  else
    match sub with
    | 0 => joinBits [(4, l.evAll.toNat), (4, 0), (4, l.lastev.toNat), (20, 0), (32, l.phases)]
    | 1 => l.races.length
    | 2 => ((l.races[k]?).map fun e => e.va % 2 ^ 56 + 2 ^ 56 * (e.phase % 256)).getD 0
    | _ => ((l.races[k]?).map fun e => joinBits [(32, e.owner), (32, e.second)]).getD 0

/-- DETQ (R256). -/
def execDetq (h : Hdr) (f : FmtY) (s : State) : Host.Outcome State Fault Refusal :=
  issue (.detq h f) s fun t =>
    .done (t.writeSd f (BitVec.ofNat 64
      (((s.launchOf s.b).map fun l => detItem l f.sub.toNat (f.imm.toNat % 4096)).getD 0)))

/-! ## Phase ends (R249) -/

/-- The entries of a launch are applied to their lines and freed; answers the latest lease end of those
lines. -/
def State.applyPhase (s : State) (p l : Nat) : Nat × State :=
  let phase := s.phaseOf p l
  let mine := s.heart.filter fun h => h.part == p && h.launch == l
  let s := mine.foldl (fun s h =>
    s.wr (128 * h.line) 128 (applyWrites phase (sortWrites h.log) h.copy.toNat)) s
  ((mine.map fun h => s.leaseOf h.line).foldl max 0,
   { s with heart := s.heart.filter fun h => !(h.part == p && h.launch == l) })

/-- The phase number moves on and its events are kept as LASTEV (R249, R256). -/
def Launch.endPhase (l : Launch) : Launch :=
  { l with phases := l.phases + 1, lastev := l.evNow, evNow := 0, phaseWait := none }

/-- PHASE_END (R249) at a barrier of a deterministic launch: the entries are applied at once, and once
the lease wait is over the boughs of the generation depart. The launch is named over all partitions. -/
def execPhaseEnd (launch : Nat) (s : State) : Host.Outcome State Fault Refusal :=
  let p := launch / 2 ^ 32
  let id := launch % 2 ^ 32
  match s.launch p id with
  | none => .next s
  | some l =>
    if !l.desc.det || !s.gbarComplete l then .next s
    else
      match l.phaseWait with
      | none =>
        let (e, s) := s.applyPhase p id
        .next (s.modLaunch p id fun l => { l with phaseWait := some (e + 2), caught := [] })
      | some e =>
        if s.time < e then .next s
        else .next (s.modLaunch p id fun l => { l.endPhase with ggen := l.ggen + 1, garr := [] })

/-! ## Fences (R230) -/

/-- The effect of a FENCE once its waits are over. -/
def fence (acq rel : Bool) (f : FmtY) (s t : State) : Res :=
  let scope := f.sub.toNat % 8
  if !s.loadsDone s.b.uid || (rel && !s.releaseReady s.b (scope == 0)) then .hold .fence s
  else .done (if acq && scope = 3 then t.modCore s.b.core fun c => c.cinvSys else t)

/-- FENCE.acq (R229, R230). -/
def execFenceAcq (h : Hdr) (f : FmtY) (s : State) : Host.Outcome State Fault Refusal :=
  issue (.fenceAcq h f) s fun t => fence true false f s t

/-- FENCE.rel (R229, R230). -/
def execFenceRel (h : Hdr) (f : FmtY) (s : State) : Host.Outcome State Fault Refusal :=
  issue (.fenceRel h f) s fun t => fence false true f s t

/-- FENCE.acqrel (R229, R230). -/
def execFenceAcqrel (h : Hdr) (f : FmtY) (s : State) : Host.Outcome State Fault Refusal :=
  issue (.fenceAcqrel h f) s fun t => fence true true f s t

end Sys2Proof.Machine
end

