-- ==== Sys2Proof/Machine/KvCache.lean ====
section
/-! DEFINITION. The key-value instructions (spec/11_attention.md R307, R311-R321): KVAPPEND, SEQCOMMIT,
SEQINFO and KVGATHER. -/

namespace Sys2Proof.Machine

/-- The address of the K or V row of (u, h) in page n (R307, R308). -/
def State.kvAddr (s : State) (part n u h : Nat) (v : Bool) : Nat :=
  ((s.part part).poolbase.toNat + 65536 * n + 256 * (16 * h + u) + (if v then 32768 else 0)) % 2 ^ 64

/-! ## KVAPPEND (R313-R315) -/

/-- The 128-byte writes of an append: address and value, token by token, head by head, K before V. -/
def State.kvWrites (s : State) (part : Nat) (e : SeqEnt) (pages : List (Nat × Nat)) (n : Nat)
    (keys vals : Nat → Nat → Nat) : List (Nat × Nat) :=
  (List.range n).flatMap fun k => (List.range 8).flatMap fun h =>
    let p := e.len + k
    let page := ((pages.find? fun x => x.1 == p / 16).map fun x => x.2).getD 0
    [(false, keys k h), (true, vals k h)].flatMap fun x =>
      let a := s.kvAddr part page (p % 16) h x.1
      [(a, x.2 % 2 ^ 1024), (a + 128, x.2 / 2 ^ 1024)]

/-- Translates every write of an append; the first that fails gives its cause and address. -/
def State.kvXlate (s : State) (core part : Nat) : List (Nat × Nat) → Except (Nat × Nat) (List (Piece × Nat)) × State
  | [] => (.ok [], s)
  | (a, v) :: ws =>
    match s.xlateNow core part a true with
    | (.ok pa pte _, s) =>
      match State.kvXlate s core part ws with
      | (.ok l, s) => (.ok (({ lane := 0, va := a, pa, n := 128, off := 0, pte }, v) :: l), s)
      | r => r
    | (.fault c, s) => (.error (c, a), s)
    | (.miss, s) => (.error (0x01, a), s)

/-- The pages that an append writes, by page-list index. -/
def State.kvPages (s : State) (core part : Nat) (e : SeqEnt) (l n : Nat) : Except (Nat × Nat) (List (Nat × Nat)) :=
  let is := (List.range ((e.len + n - 1) / 16 + 1 - e.len / 16)).map fun i => e.len / 16 + i
  (s.pages core part e (is.map fun i => (l, i))).map fun ps => is.zip ps

/-- The bough parks whole with a fault of the instruction (R311, R314, R315), or takes a machine check. -/
def parkAll (s t : State) (cause addr detail : Nat) : Res :=
  if isCheck cause then .go (s.takeCheck cause (BitVec.ofNat 64 addr))
  else .done (s.faultLanes t s.b.emr cause (BitVec.ofNat 64 addr) detail)

/-- KVAPPEND (R314). -/
def execKvappend (h : Hdr) (f : FmtE) (s : State) : Host.Outcome State Fault Refusal :=
  issue (.kvappend h f) s fun t =>
    let core := s.b.core
    let part := s.b.part
    let l := f.imm.toNat % 256
    let n := f.imm.toNat / 256 % 16 + 1
    let pd := Pd.ofCode (f.imm.toNat / 2 ^ 12)
    let pd : Pd := pd.getD none
    let kb := (s.ss f.pb).toNat
    let vb := (s.ss f.pc).toNat
    let spans := [(kb, 2048 * n), (vb, 2048 * n)]
    let setP (t : State) (v : Bool) : State :=
      t.modB fun b => b.setPd pd 0xFFFFFFFF#32 (Mask.ofPred fun _ => v)
    let loc (base k hd : Nat) : Nat :=
      s.localRdN core part s.b.launch s.b.cid ((base + 2048 * k + 256 * hd) % 2 ^ 64) 256
    if (s.b.windowRegs spans).any fun x => (s.pendingVec s.b).any fun y => overlap x y then .hold .scoreboard s
    else
      match s.seqRead core part (s.ss f.pa).toNat with
      | .error e => parkAll s t e.1 e.2 0
      | .ok e =>
        match s.kvCheck core part e l n with
        | .error x => parkAll s t x.1 x.2 0
        | .ok (.inl cause) => if pd = none then parkAll s t cause 0 l else .done (setP t false)
        | .ok (.inr need) =>
          match t.kvAlloc s.b.lk core part e l need with
          | .error x => parkAll s t x.1 x.2 0
          | .ok u =>
            match u.kvPages core part e l n with
            | .error x => parkAll s u x.1 x.2 0
            | .ok pages =>
              match u.kvXlate core part (u.kvWrites part e pages n (loc kb) (loc vb)) with
              | (.error x, u) => parkAll s u x.1 x.2 0
              | (.ok ws, u) =>
                match ws.find? fun w => s.unreachable part w.1.pa with
                | some w => .go (s.machineCheck 0x43 (peerDetail w.1.pa) (BitVec.ofNat 64 w.1.va))
                | none =>
                  if s.l1Busy core (ws.map fun w => w.1) 128 then .hold .scoreboard s
                  else
                  .done (setP (ws.foldl (fun u w =>
                    (u.sendStore s.b w.1 (.bytes 128 w.2)).l1Store core w.1.pa 128 w.2) u) true)

/-! ## SEQCOMMIT (R316, R317) -/

/-- The result and the predicate of a SEQCOMMIT; none where it failed. -/
def seqOut (h : Hdr) (f : FmtY) (t : State) (r : Option Nat) : Res :=
  .done ((t.writeSd f (match r with
    | some v => BitVec.ofNat 64 v
    | none => 0xFFFFFFFFFFFFFFFF)).writePd h f.pd fun _ => r.isSome)

/-- A release at package scope, and then one step (R317): the step's state keeps what `t` holds. -/
def seqStep {α : Type} (s t : State) (step : State → Except (Nat × Nat) (α × State)) (out : State → α → Res) : Res :=
  if !s.releaseReady s.b false then .hold .fence s
  else
    match step t with
    | .error e => parkAll s t e.1 e.2 0
    | .ok (r, t) => out t r

/-- A commit counts for the launch and for the member of the entry's group (R317, R377). -/
def State.countCommit (s : State) (e : SeqEnt) (n : Nat) : State :=
  let s := s.modLaunch s.b.part s.b.launch fun l => { l with tokens := l.tokens + n }
  match s.group s.b.part e.grp with
  | some g =>
    if e.grp ≠ 0 && g.has gMembers e.member then
      s.setGroup (g.setBits (gMember e.member) 0 32 (g.bits (gMember e.member) 0 32 + n))
    else s
  | none => s

/-- SEQCOMMIT (R317). -/
def execSeqcommit (h : Hdr) (f : FmtY) (s : State) : Host.Outcome State Fault Refusal :=
  issue (.seqcommit h f) s fun t =>
    let n := (s.ss f.s2).toNat
    seqStep s t
      (fun t =>
        if n ≥ 2 ^ 32 then (t.seqRead s.b.core s.b.part (s.ss f.s1).toNat).map fun _ => (none, t)
        else t.seqCommitStep s.b.lk s.b.core s.b.part (s.ss f.s1).toNat n)
      fun t r =>
        match r with
        | some (len, e) => seqOut h f (t.countCommit e n) (some len)
        | none => seqOut h f t none

/-- SEQCOMMIT.fork (R317). -/
def execSeqcommitFork (h : Hdr) (f : FmtY) (s : State) : Host.Outcome State Fault Refusal :=
  issue (.seqcommitFork h f) s fun t =>
    seqStep s t (fun t => t.seqForkStep s.b.lk s.b.core s.b.part (s.ss f.s1).toNat (s.ss f.s2).toNat) (seqOut h f)

/-- SEQCOMMIT.rel (R317). -/
def execSeqcommitRel (h : Hdr) (f : FmtY) (s : State) : Host.Outcome State Fault Refusal :=
  issue (.seqcommitRel h f) s fun t =>
    seqStep s t (fun t => t.seqRel s.b.lk s.b.core s.b.part (s.ss f.s1).toNat)
      fun t r => seqOut h f t (r.map fun x => x.1)

/-! ## SEQINFO (R318) -/

/-- An item of SEQINFO. -/
def State.seqItem (s : State) (core part va item l i : Nat) : Except (Nat × Nat) Nat :=
  let p := s.part part
  let bad := 0xFFFFFFFFFFFFFFFF
  match item with
  | 3 => .ok (if l < p.poolsize.toNat then p.refs l else 0)
  | 4 => .ok (joinBits [(24, p.inuse), (24, p.quota.toNat), (16, 0)])
  | 5 => .ok ((p.poolsize.toNat - p.inuse) % 2 ^ 24)
  | _ => do
    let e ← s.seqRead core part va
    if item = 6 then return bit e.valid + 2 * bit e.rel
    else if !e.ok then return bad
    else if item = 0 then return e.len
    else if item = 1 then
      if l ≥ e.nl then return bad
      else
        let n ← s.pageCount core part e l
        return ceil16 e.len + 2 ^ 32 * (n - ceil16 e.len)
    else if l ≥ e.nl || i ≥ e.maxp then return noPage
    else s.vrd core part (e.entryVa l i) 4

/-- SEQINFO (R318). -/
def execSeqinfo (h : Hdr) (f : FmtY) (s : State) : Host.Outcome State Fault Refusal :=
  issue (.seqinfo h f) s fun t =>
    match s.seqItem s.b.core s.b.part (s.ss f.s1).toNat f.sub.toNat (s.ss f.s2).toNat f.imm.toNat with
    | .error e => parkAll s t e.1 e.2 0
    | .ok v => .done (t.writeSd f (BitVec.ofNat 64 v))

/-! ## KVGATHER (R319-R321) -/

/-- KVGATHER (R319). -/
def execKvgather (h : Hdr) (f : FmtE) (s : State) : Host.Outcome State Fault Refusal :=
  issue (.kvgather h f) s fun t =>
    engineIssue (.kvgather h f) f (fun o =>
      { o with units := 32,
               vx := lanes.map fun l => BitVec.signExtend 64 (t.b.vreg f.vx.toNat l) }) s t

/-- The page of a lane's block: 2^32 where the lane is skipped, noPage where it is out of range. -/
def State.kvPage (s : State) (core part : Nat) (e : SeqEnt) (l npl : Nat) (i : Int) : Except (Nat × Nat) Nat :=
  if i < 0 then .ok (2 ^ 32)
  else if i ≥ npl then .ok noPage
  else s.vrd core part (e.entryVa l i.toNat) 4

/-- The entries that the lanes use, in lane order, up to a lane that is out of range without .zf: those of later
lanes are not read (R321). -/
def State.usedPages (s : State) (core part : Nat) (e : SeqEnt) (l npl : Nat) (zf : Bool) :
    List W64 → Except (Nat × Nat) (List Nat)
  | [] => .ok []
  | i :: is => do
    let p ← s.kvPage core part e l npl i.toInt
    if p = noPage && !zf then return [p]
    else return p :: (← s.usedPages core part e l npl zf is)

/-- The start of KVGATHER: one step at the entry's home, which pins the pages that it names (R321). `aux`
holds the pages by lane. -/
def State.kvStart (s : State) (core : Nat) (f : FmtE) (o : EngOp) : UnitRes :=
  let l := o.pc_.toNat % 256
  let zf := f.sub.getLsbD 2
  let read : Except (Nat × Nat) (Option (List Nat)) := do
    let e ← s.seqRead core o.part o.pa.toNat
    if !e.ok || l ≥ e.nl || o.pc_.toNat / 256 > 7 || !regionOk o.pb then return none
    else
      let npl ← s.pageCount core o.part e l
      return some (← s.usedPages core o.part e l npl zf o.vx)
  match read with
  | .error e => .fault e.1 e.2
  | .ok none => .stop 0x02 s
  | .ok (some ps) =>
    let pins := (ps.filter fun p => p < noPage).eraseDups
    .ok (s.modPart o.part fun p => pins.foldl (fun p n => p.addRef n) p) { o with aux := ps, pins }

/-- Unit `done` of KVGATHER: one lane. -/
def unitKv (f : FmtE) (core : Nat) (s : State) (o : EngOp) : UnitRes :=
  let l := o.done
  let hd := o.pc_.toNat / 256
  let page := (o.aux[l]?).getD noPage
  let parts := (if f.sub.getLsbD 0 then [false] else []) ++ (if f.sub.getLsbD 1 then [true] else [])
  let rows := (List.range 16).flatMap fun u => parts.map fun v => (u, v)
  let dst (u : Nat) (v : Bool) : Nat := if v then vRow o.pb l u else kRow o.pb l u
  let zero (s : State) (o : EngOp) (a : Nat) : UnitRes :=
    (List.range 256).foldl (fun (acc : UnitRes) i => acc.andThen fun s o =>
      s.engWrite core o true (a + i) 0 false) (.ok s o)
  if page = 2 ^ 32 then .ok s o
  else if page = noPage && !f.sub.getLsbD 2 then .stop 0x03 s
  else
    match rows.foldl (fun (acc : UnitRes) x => acc.andThen fun s o =>
      if page = noPage then zero s o (dst x.1 x.2)
      else s.engCopy core o false true (s.kvAddr o.part page x.1 hd x.2) (dst x.1 x.2) 256) (.ok s o) with
    | .stop st _ => .stop st s
    | r => r

end Sys2Proof.Machine
end

