-- ==== Sys2Proof/Machine/EngineRun.lean ====
section
/-! DEFINITION. The steps of the engine scheduler: ENGINE_START (spec/07_memory.md R211, R215) and
TOKEN_WRITE (R213, R214). -/

namespace Sys2Proof.Machine

/-- The next unit of an operation. -/
def engUnit (core : Nat) (s : State) (o : EngOp) : UnitRes :=
  match o.instr with
  | .acopy sl dl _ _ => unitCopy sl dl core s o
  | .afill _ f => unitFill (f.imm.getLsbD 0) core s o
  | .agather _ f => unitLane true f.imm.toNat core s o
  | .ascatter _ f => unitLane false f.imm.toNat core s o
  | .acoll _ f => unitColl f core s o
  | .opfill glob _ f => unitOpfill glob f core s o
  | .attn full _ f => unitAttn full f core s o
  | .kvgather _ f => unitKv f core s o
  | _ => .stop 0x02 s

/-- Units of the copy engine count in the launch's BYTES (R377). -/
def State.countUnit (s : State) (o : EngOp) : State :=
  if engineCode o.instr = 1 then s.modLaunch o.part o.launch fun l => { l with bytes := l.bytes + 1 } else s

/-- The end of a unit, or of a start, as the operation takes it: the state, and whether it goes on. -/
def State.settleUnit (s : State) (core : Nat) (o : EngOp) (r : UnitRes) (count : Bool) : State :=
  match r with
  | .ok s o => if count then (s.countUnit o).setOp core { o with done := o.done + 1 } else s.setOp core o
  | .stop st s => s.setOp core { o with status := st }
  | .fault c va => s.engineFault core o c va

/-- An operation that has done all its units is complete (R213). -/
def State.finishOp (s : State) (core : Nat) (o : EngOp) : State :=
  let s := s.setOp core { o with status := 0x00 }
  match o.instr, o.aux with
  | .acoll _ f, [k] => s.collDone o.part (collComm f) k
  | _, _ => s

/-- Runs at most `n` units of operation `k`; while its partition is halted, up to its next boundary (R216). -/
def State.runUnits : Nat → State → Nat → State
  | n, s, k =>
    match s.engOp k with
    | none => s
    | some (core, o) =>
      if o.status != 0xFF || o.seq != 0 || !o.started then s
      else if o.done ≥ o.units then s.finishOp core o
      else if (s.part o.part).halted && o.atBoundary then s
      else
        match n with
        | 0 => s
        | n + 1 => State.runUnits n (s.settleUnit core o (engUnit core s o) true) k

/-- ACOLL goes on once every participant of this package has contributed: a mismatch or a dead link ends
it (R222). -/
def State.collGate (s : State) (core : Nat) (f : FmtE) (o : EngOp) : Option State :=
  match s.comm o.part (collComm f), o.aux with
  | some c, [k] =>
    let close (st : Nat) : Option State := some ((s.setOp core { o with status := st }).collDone o.part c.id k)
    if s.collCut o.part c then close 0x05
    else if !s.collReady c k then some s
    else if s.collMismatch o.part c k f.sub.toNat (f.imm.toNat % 16) o.pc_.toNat then close 0x06
    else none
  | _, _ => none

/-- An operation of the attention tile (R323). -/
def EngOp.isAttn (o : EngOp) : Bool :=
  match o.instr with
  | .attn _ _ _ => true
  | _ => false

/-- The attention tile runs one ATTN at a time per core, in matrix order: an earlier one that has not ended
comes first (R329). -/
def State.attnWaits (s : State) (core : Nat) (o : EngOp) : Bool :=
  o.isAttn && ((s.core core).ops.takeWhile fun x => x.id != o.id).any fun x => x.isAttn && x.status == 0xFF

/-- The scheduler starts an operation that nothing holds (R211, R212, R287). -/
def State.startOp (s : State) (core : Nat) (o : EngOp) : State :=
  if o.started || s.attnWaits core o || !s.mayStart core o || (s.core core).matHeld o.id 0 [] o.instr then s
  else
    let o' := { o with started := true }
    match o.instr with
    | .kvgather _ f => s.settleUnit core o (s.kvStart core f o') false
    | .acoll _ f => s.settleUnit core o (collStart f core s o') false
    | _ => s.setOp core o'

/-- ENGINE_START (R211, R215): operation `k` reads its records if it has not, starts if nothing holds it,
and does at most `units` units. -/
def execEngineStart (k units : Nat) (s : State) : Host.Outcome State Fault Refusal :=
  match s.engOp k with
  | none => .next s
  | some (core, o) =>
    if o.status != 0xFF || o.seq != 0 then .next s
    else
      let s := (s.readRecord core o).readLayout k
      match s.engOp k with
      | none => .next s
      | some (core, o) =>
        if o.status != 0xFF || o.seq != 0 || !o.haveRec then .next s
        else
          let s := s.startOp core o
          match s.engOp k with
          | none => .next s
          | some (core, o) =>
            match o.instr with
            | .acoll _ f =>
              if !o.started || o.status != 0xFF then .next s
              else
                match s.collGate core f o with
                | some s => .next s
                | none => .next (State.runUnits units s k)
            | _ => .next (if s.attnWaits core o then s else State.runUnits units s k)

/-- The conflicts that an OPFILL.local adds to its bough's count (R293). -/
def EngOp.conflicts (o : EngOp) : Nat :=
  match o.instr, o.aux with
  | .opfill false _ f, [x] => fillConflicts o.pa x (fillZ f) o.done
  | _, _ => 0

/-- The token register of an operation (R209). -/
def EngOp.tk (o : EngOp) : Nat :=
  match o.instr.view with
  | some (_, .e f) | some (_, .attn f _) => f.tk.toNat
  | _ => 63

/-- The token of an ended operation is written, and the operation is gone (R213, R214); a saved bough
receives it in its context (R216). -/
def State.putToken (s : State) (core : Nat) (o : EngOp) : State :=
  let s := s.modCore core fun c => { c with ops := c.ops.filter fun x => x.id != o.id }
  let s := s.modPart o.part fun p => o.pins.foldl (fun p n => p.dropRef n) p
  let s := s.modBough o.uid fun b =>
    { b.setSreg o.tk (BitVec.ofNat 64 (2 ^ 32 * o.status + o.progress % 2 ^ 32)) with
      bankcnt := b.bankcnt + BitVec.ofNat 64 o.conflicts }
  (s.settleTok o.uid o.tok).refreshBlock o.uid

/-- TOKEN_WRITE (R214): after every write of the operation has been acknowledged, and TIME ≥ E + 2. -/
def execTokenWrite (k : Nat) (s : State) : Host.Outcome State Fault Refusal :=
  match s.engOp k with
  | none => .next s
  | some (core, o) =>
    if o.status = 0xFF || o.seq != 0 || (o.wend ≠ 0 && s.time < o.wend + 2) then .next s
    else .next (s.putToken core o)

end Sys2Proof.Machine
end

