-- ==== Sys2Proof/Machine/Launching.lean ====
section
/-! DEFINITION. Kernel descriptors as the Canopy reads them (spec/03_assembly.md R82, R83), what a launch
needs of a core (spec/01_machine.md R23, R24), and the children of a grid (spec/12_tasks.md R350). -/

namespace Sys2Proof.Machine

/-! ## Reading a descriptor -/

/-- The Canopy's translation of an address, by the partition's tables. -/
def State.canopyXlate (s : State) (part va : Nat) : Option Nat :=
  if va ≥ 2 ^ 56 then none
  else
    match s.walk part va with
    | .leaf pte size => some (leafPa pte size va)
    | .fail _ => none

/-- `n` bytes of one page that the Canopy reads. -/
def State.canopyPiece (s : State) (part va n : Nat) : Option Nat :=
  (s.canopyXlate part va).bind fun pa => if s.unreachable part pa || (s.badAt pa n).isSome then none else some (s.rd pa n)

/-- `n` bytes that the Canopy reads, at most a page; each page that they lie in is translated (R188). -/
def State.canopyRd (s : State) (part va n : Nat) : Option Nat :=
  let k := 0x10000 - va % 0x10000
  if n ≤ k then s.canopyPiece part va n
  else
    (s.canopyPiece part va k).bind fun lo =>
      (s.canopyPiece part (va + k) (n - k)).map fun hi => lo + 2 ^ (8 * k) * hi

/-- The fields of a descriptor less its regions (R82). -/
def descFields (x : Nat) : Desc where
  entry := BitVec.ofNat 64 x
  regs := 16 * (bitsAt x 64 4 + 1)
  copse := bitsAt x 68 5 + 1
  scrb := bitsAt x 73 6
  fifb := bitsAt x 79 5
  det := bitsAt x 84 1 == 1
  racechk := bitsAt x 85 1 == 1
  cosched := bitsAt x 86 1 == 1
  task := bitsAt x 87 1 == 1
  fmt0 := BitVec.ofNat 32 (bitsAt x 96 32)
  lease := bitsAt x 128 16
  nlive := bitsAt x 152 8
  live := (List.range (bitsAt x 152 8)).map fun i => bitsAt x (256 + 8 * i) 8
  regions := []

/-- NREFILL and REFILLTAB. -/
def descRefill (x : Nat) : Nat × Nat := (bitsAt x 144 8, bitsAt x 192 64)

/-- The limits and zero fields of a descriptor (R75, R82, R163, R334). R75's limits on `live=`, each register
once and below REGS, are not repeated in R82's table; a descriptor that breaks them is refused (log 63). -/
def descOk (x : Nat) : Bool :=
  let d := descFields x
  let n := (descRefill x).1
  x / 2 ^ 384 == 0 && bitsAt x 160 32 == 0 && bitsAt x 88 8 == 0 && d.scrb ≤ 46 && d.fifb ≤ 16 &&
  (!d.racechk || d.det) && (!d.task || d.copse == 1) && fmtValid d.fmt0 &&
  (d.lease == 0 || (64 ≤ d.lease && d.lease ≤ 8192)) && n ≤ 16 && (n != 0 || (descRefill x).2 == 0) &&
  d.nlive ≤ 16 && (d.task || d.nlive == 0) && d.live.all (fun r => r < d.regs) && d.live.eraseDups.length == d.nlive &&
  bitsAt x (256 + 8 * d.nlive) (128 - 8 * d.nlive) == 0 && slotAddr d.entry

/-- One entry of a region table (R83), at its address; none where it breaks a limit of R76. An address that is
no slot's, or that lies at or above 2^56, refuses no launch: RFENTER's target check meets it (log 63). -/
def regionEntry (d : Desc) (va x : Nat) : Option Region :=
  let at_ (k : Nat) : W64 := BitVec.ofNat 64 (va + 4 * k) + BitVec.signExtend 64 (BitVec.ofNat 32 (bitsAt x (32 * k) 32))
  let src := bitsAt x 128 4
  let r : Region :=
    { prologue := at_ 0, body := at_ 1, retire := at_ 2, stop := at_ 3, level := bitsAt x 132 2, task := src == 1,
      ordered := bitsAt x 134 1 == 1, perLaunch := bitsAt x 135 1 == 1 }
  if x / 2 ^ 136 = 0 && src ≤ 1 && (src = 0 || (r.level = 0 && d.task)) && r.prologue.toNat < r.body.toNat &&
      r.body.toNat < r.retire.toNat && r.retire.toNat < r.stop.toNat then some r
  else none

/-- The ranges of two regions do not overlap (R76). -/
def Region.apart (a b : Region) : Bool := a.stop.toNat ≤ b.prologue.toNat || b.stop.toNat ≤ a.prologue.toNat

/-- Every region is apart from those after it. -/
def regionsApart : List Region → Bool
  | [] => true
  | r :: rs => rs.all (fun x => r.apart x) && regionsApart rs

/-- The region table (R83). -/
def State.readRegions (s : State) (part : Nat) (d : Desc) (tab n : Nat) : Option (List Region) :=
  ((List.range n).mapM fun i =>
    (s.canopyRd part (tab + 32 * i) 32).bind fun x => regionEntry d (tab + 32 * i) x).filter regionsApart

/-- The slot of ENTRY has its TM bit (R43, R82). -/
def State.entryOk (s : State) (part : Nat) (entry : W64) : Bool :=
  match s.canopyRd part ((lineAddr entry).toNat + 60) 4 with
  | some w => w / 2 ^ (20 + slotOf entry) % 2 == 1
  | none => false

/-- A descriptor as the Canopy reads it at launch; none where it is refused (R82). -/
def State.readDesc (s : State) (part va : Nat) : Option Desc :=
  if va % 128 ≠ 0 then none
  else
    match s.canopyRd part va 128 with
    | none => none
    | some x =>
      let d := descFields x
      if !descOk x || !s.entryOk part d.entry then none
      else (s.readRegions part d (descRefill x).2 (descRefill x).1).map fun regions => { d with regions }

/-! ## What a launch needs (R23, R24) -/

/-- The 2 KiB granules of a copse's allotments (R15). -/
def Desc.granules (d : Desc) : Nat := d.copse * (d.regs / 16)

/-- Copses that an empty core holds at once (R23). -/
def Desc.perCore (d : Desc) : Nat :=
  (List.range 49).foldl (fun n k =>
    if k * d.copse ≤ 48 && (k * d.granules + 7) / 8 + k * (d.scrb + d.fifb) ≤ 46 then k else n) 0

/-- An empty core admits one copse; a COSCHED launch fits the empty package whole (R23, R24). -/
def Desc.fits (d : Desc) (ncopses : Nat) : Bool :=
  1 ≤ d.perCore && (!d.cosched || ncopses ≤ 2048 * d.perCore)

/-- An accepted launch. -/
def newLaunch (id part : Nat) (desc : Desc) (param : W64) (ncopses : Nat) (prog : W64) (origin : Origin) (order : Nat) : Launch where
  id := id
  part := part
  desc := desc
  param := param
  ncopses := ncopses
  prog := prog
  origin := origin
  started := []
  killed := false
  endst := 0
  faultseq := 0
  haltcode := 0
  phases := 0
  tokens := 0
  bytes := 0
  iters := 0
  ckilled := 0
  cdone := 0
  garr := []
  ggen := 0
  phaseWait := none
  evAll := 0
  evNow := 0
  lastev := 0
  caught := []
  races := []
  entryq := []
  tasks := []
  cancelled := []
  insts := []
  wlast := 0
  onCores := []
  order := order

/-- A launch takes its place among the others: after all that were accepted before it (R24). -/
def insertLaunch (l : Launch) (ls : List Launch) : List Launch :=
  ls.takeWhile (fun x => x.order ≤ l.order) ++ l :: ls.dropWhile fun x => x.order ≤ l.order

/-! ## Children of a grid (R350) -/

/-- The child that a copse of a grid belongs to: its index, its first copse, and its PARAM, NCOPSE, FUT. -/
def childAt : List (W64 × Nat × W64) → Nat → Nat → Nat → Option (Nat × Nat × (W64 × Nat × W64))
  | [], _, _, _ => none
  | c :: cs, i, first, cid =>
    if cid < first + c.2.1 then some (i, first, c) else childAt cs (i + 1) (first + c.2.1) cid

/-- The child of a launch's copse, where the launch is a grid. -/
def Launch.child (l : Launch) (cid : Nat) : Option (Nat × Nat × (W64 × Nat × W64)) :=
  match l.origin with
  | .grid cs => childAt cs 0 0 cid
  | _ => none

/-- Copses of a launch, with ids from `first` on, that have ended. -/
def State.endedCopses (s : State) (p l first n : Nat) : Nat :=
  (s.copses.filter fun c => c.part == p && c.launch == l && first ≤ c.cid && c.cid < first + n && c.at_ == .ended).length

/-- The future of a child launch becomes FULL with what it did: copses and status (R349); `own` is the launch that acts (R250). -/
def State.childFuture (s : State) (own part : Nat) (fut : W64) (copses status : Nat) : State :=
  if fut = 0 then s else (s.fillFuture own 0 part fut.toNat 1 (copses % 2 ^ 32 + 2 ^ 32 * status)).2

/-- A copse of a grid has ended: its child's future is filled when all of the child's have (R350). -/
def State.childDone (s : State) (l : Launch) (cid : Nat) : State :=
  match l.child cid with
  | none => s
  | some (_, first, c) =>
    if s.endedCopses l.part l.id first c.2.1 = c.2.1 then s.childFuture (lkey l.part l.id) l.part c.2.2 c.2.1 0 else s

end Sys2Proof.Machine
end

