-- ==== Sys2Proof/Machine/Tasks.lean ====
section
/-! DEFINITION. Class 6: tasks and futures (spec/12_tasks.md R331-R344). -/

namespace Sys2Proof.Machine

/-! ## Steps of lanes at a record -/

/-- The addresses that a lane's step names, each with whether it writes there. -/
abbrev Addrs := Nat → List (Nat × Bool)

/-- The first address of a step that does not translate: its cause and itself (R188). -/
def State.stepFault (s : State) (as_ : List (Nat × Bool)) : Option (Nat × Nat) :=
  as_.findSome? fun a =>
    match s.xlateRec s.b.core s.b.part a.1 a.2 with
    | .ok _ => none
    | .error e => some e

/-- The lanes whose steps fault. -/
def State.faulting (s : State) (m : Mask) (addrs : Addrs) : Mask :=
  Mask.ofPred fun l => m.getLsbD l && (s.stepFault (addrs l)).isSome

/-- The machine check of a lane whose record lies at an unreachable peer, or holds an uncorrectable error. -/
def State.peerCheck (s : State) (m : Mask) (addrs : Addrs) : Option State :=
  (m.list.findSome? fun l => (s.stepFault (addrs l)).filter fun e => isCheck e.1).map fun e =>
    s.takeCheck e.1 (BitVec.ofNat 64 e.2)

/-- One step per lane, in increasing lane order, of an instruction that does not wait; lanes whose record
does not translate park with a replayable fault. -/
def laneSteps (s t : State) (m : Mask) (addrs : Addrs) (step : State → Nat → State) : Res :=
  match s.peerCheck m addrs with
  | some u => .go u
  | none =>
    let bad := s.faulting m addrs
    let u := (m &&& ~~~bad).list.foldl step t
    match bad.list.findSome? fun l => s.stepFault (addrs l) with
    | none => .done u
    | some e => .done (s.faultLanes u bad e.1 (BitVec.ofNat 64 e.2))

/-- The course of an instruction that may wait (R337, R339, R349): the state, the lanes whose step is
done, the lanes that run a task now, and where those that resume a task continue. -/
structure Steps where
  s : State
  done : Mask
  run : Mask
  back : List (Nat × W64 × W32)
  deriving Repr

/-- Lanes of an instruction that has not completed fault; its flag is counted at their replay. -/
def State.faultHeld (s u : State) (m : Mask) (e : Nat × Nat) : State :=
  let r := s.b.replaying
  ((s.modB fun b => { b with entered := r }).faultLanes (u.modB fun b => { b with itok := b.rtok }) m e.1
    (BitVec.ofNat 64 e.2)).modB fun b => { b with itok := 0 }

/-- The lanes that run a task become the running split; the others wait parked in the Cambium (R337, R339). -/
def Steps.startGroup (x : Steps) (pc : W64) (done : Mask) (entry : W64) : State :=
  let b := x.s.b
  let g : TGroup :=
    { pc, mask := b.emr, run := x.run, done, fmt := b.fmt, depth := b.stack.length, nf := b.nf }
  let back := x.back.map fun r => { b.entry (1#32 <<< r.1) .branch false r.2.1 with fmt := r.2.2 }
  let fresh := x.run &&& ~~~(Mask.ofPred fun l => x.back.any fun r => r.1 == l)
  let s := x.s.modB fun b =>
    { b.closeWindow with
      tgroups := g :: b.tgroups, stack := back ++ b.stack, emr := fresh, idle := 0, pc := entry, wait := .none,
      stepdone := 0, nf := 0, rep := none, entered := false, checkTM := false }
  if fresh = 0 then s.settle else s

/-- The entries that a group of resumed tasks would push find room on the stack (R125). -/
def Steps.room (x : Steps) : Option Res :=
  if x.s.b.stack.length + x.back.length > stackMax then some (.trap cConverge 0 0)
  else (x.back.find? fun r => !x.s.lineNear x.s.b r.2.1).map fun r => .trap cTarget 0 r.2.1

/-- One lane's step, or the fault of the first address that it lacks as the lanes before it have left the records
(R311, R337). -/
def laneStep (addrs : State → Addrs) (step : Steps → Nat → Steps) (x : Steps × List (Nat × Nat × Nat)) (l : Nat) :
    Steps × List (Nat × Nat × Nat) :=
  match x.1.s.stepFault (addrs x.1.s l) with
  | none => (step x.1 l, x.2)
  | some e => (x.1, x.2 ++ [(l, e)])

/-- The steps of an instruction that may wait: for the lanes of `m`, while it needs those of `need`. It
completes when every lane that it still has is done; `w` is what the lanes that remain wait on. -/
def laneWait (i : Instr) (s : State) (need m : Mask) (addrs : State → Addrs) (step : Steps → Nat → Steps)
    (entry : W64) (w : Mask → Wait) : Res :=
  let (x, faults) := m.list.foldl (laneStep addrs step) ({ s, done := s.b.stepdone, run := 0, back := [] }, [])
  match faults.find? fun e => isCheck e.2.1 with
  | some e => .go (s.takeCheck e.2.1 (BitVec.ofNat 64 e.2.2))
  | none =>
    let bad := Mask.ofPred fun l => faults.any fun e => e.1 == l
    let u := match faults with
      | [] => x.s
      | e :: _ => s.faultHeld x.s bad e.2
    if s.b.emr &&& ~~~bad = 0 then .go u
    else if u.b.emr = 0 then .go (u.endSplit s.b.pc)
    else if x.run ≠ 0 then (x.room).getD (.go ({ x with s := u }.startGroup s.b.pc x.done entry))
    else
      let rest := need &&& u.b.emr &&& ~~~x.done
      if rest = 0 then .go (finish_ i u.b.path (begin_ i true u))
      else .hold (w rest) (u.modB fun b => { b with stepdone := x.done })

/-- The predicate destination in one lane. -/
def State.pdLane (s : State) (pd : Pd) (l : Nat) (v : Bool) : State :=
  let m : Mask := 1#32 <<< l
  s.modB fun b => b.setPd pd m (if v then m else 0)

/-- The predicate destination in one lane takes a free value (log 4). -/
def State.pdFree (s : State) (pd : Pd) (l : Nat) : State :=
  (s.pdLane pd l ((Config.freeWord s.free).getLsbD 0)).freeValue

/-- The status of a lane's last TSPAWN, TWAIT or TCANCEL (R343). -/
def State.statLane (s : State) (l st : Nat) : State :=
  s.modB fun b => { b with tstat := Sparse.set b.tstat l (BitVec.ofNat 8 st) }

/-- The address that a lane holds in a pair. -/
def State.laneVa (s : State) (f : FmtY) (l : Nat) : Nat := (s.b.vreg64 f.vd.toNat l).toNat

/-! ## Queues of TASK launches (R334) -/

/-- The open TASK launch of a partition with an ENTRY. -/
def State.taskLaunch (s : State) (part entry : Nat) : Option Launch :=
  s.launches.find? fun l =>
    l.part == part && l.desc.task && l.desc.entry.toNat == entry && !l.killed

/-- ENTRY of the kernel that a bough runs. -/
def State.kernelEntry (s : State) (b : Bough) : W64 :=
  ((s.launchOf b).map fun l => l.desc.entry).getD 0

/-- Tasks that an entry queue holds at most. -/
def entryqMax : Nat := 65536

/-- A task at the tail, or at the head, of its queue. -/
def State.enqueueTask (s : State) (part entry va : Nat) (head : Bool) : State :=
  match s.taskLaunch part entry with
  | none => s
  | some l =>
    let v := BitVec.ofNat 64 va
    s.modLaunch part l.id fun l =>
      let q := l.entryq.filter fun x => x != v
      { l with entryq := if head then v :: q else q ++ [v] }

/-- A task leaves its queue. -/
def State.dequeueTask (s : State) (part va : Nat) : State :=
  { s with launches := s.launches.map fun l =>
      if l.part == part then { l with entryq := l.entryq.filter fun x => x.toNat != va } else l }

/-- A task belongs to a launch until it ends. -/
def State.holdTask (s : State) (part entry va : Nat) : State :=
  match s.taskLaunch part entry with
  | none => s
  | some l =>
    let v := BitVec.ofNat 64 va
    s.modLaunch part l.id fun l =>
      { l with tasks := if l.tasks.contains v then l.tasks else l.tasks ++ [v],
               cancelled := l.cancelled.filter fun x => x != v }

/-! ## TSPAWN (R337) -/

/-- The addresses of an aligned record and, where its step writes it too, of its future (R311, R337, R344). -/
def State.recAddrs (s : State) (va : Nat) (writes : TaskRec → Bool) : List (Nat × Bool) :=
  if va % 64 ≠ 0 then []
  else
    match s.xlateRec s.b.core s.b.part va true with
    | .error _ => [(va, true)]
    | .ok pa =>
      let r := s.taskRec pa
      (va, true) :: (if r.fut ≠ 0 && writes r then [(r.fut, true)] else [])

/-- A new record is published (R337): its id, its future's owner, its dependences, its state. -/
def State.publish (s : State) (own core part va pa : Nat) (dep : Int) (st : Nat) : State :=
  let r := s.taskRec pa
  let s := s.poke own (pa + 48) 8 (va / 64)
  let s := match s.xlateRec core part r.fut true with
    | .ok fa => if r.fut = 0 then s else s.poke own (fa + 9) 7 (va / 64)
    | .error _ => s
  ((s.setTaskDep own pa dep).setTaskSt own pa st).holdTask part r.entry va

/-- The record of a lane has an ENTRY that no open TASK launch has. -/
def State.noTarget (s : State) (va : Nat) : Option W64 :=
  if va % 64 ≠ 0 then none
  else
    match s.xlateRec s.b.core s.b.part va true with
    | .error _ => none
    | .ok pa =>
      let r := s.taskRec pa
      if r.st = 0 && (s.taskLaunch s.b.part r.entry).isNone then some (BitVec.ofNat 64 r.entry) else none

/-- The lane pushes a frame and starts a task (R337, R339, R340). -/
def Steps.push (x : Steps) (s : State) (l va : Nat) (byWait : Bool) : Steps :=
  let live := s.liveSet s.b
  let s := s.modB fun b => { b with frames := b.frameNow live l b.pc byWait :: b.frames }
  let (at_, s) := s.startTask l va
  { x with s, run := x.run ||| (1#32 <<< l), back := x.back ++ (at_.map fun p => (l, p.1, p.2)).toList }

/-- A lane may push one more frame (R340). -/
def Bough.mayPush (b : Bough) (l : Nat) : Bool := b.depth l < b.nestmax

/-- DEP of a record with the count that TSPAWN adds (R337). -/
def State.spawnDep (s : State) (f : FmtY) (r : TaskRec) : Int := r.dep + (BitVec.truncate 32 (s.ss f.s1)).toInt

/-- The STATE in which TSPAWN publishes a record for a lane: 1 WAITING, 2 READY, 3 inline; none where it publishes
nothing (R337). -/
def State.spawnAs (s : State) (f : FmtY) (l : Nat) (r : TaskRec) : Option Nat :=
  match s.taskLaunch s.b.part r.entry with
  | none => none
  | some la =>
    if r.st ≠ 0 then none
    else if s.spawnDep f r > 0 then some 1
    else if la.entryq.length < entryqMax then some 2
    else if r.entry = (s.kernelEntry s.b).toNat && s.b.mayPush l then some 3
    else none

/-- TSPAWN's step for one lane (R337), at the record that its lane names. -/
def spawnStep (nb : Bool) (f : FmtY) (at_ : Nat → Nat) (x : Steps) (l : Nat) : Steps :=
  let s := x.s
  let va := at_ l
  let done := x.done ||| (1#32 <<< l)
  let bad : Steps := { x with s := (s.statLane l 0x02).pdFree f.pd l, done }
  if va % 64 ≠ 0 then bad
  else
    match s.xlateRec s.b.core s.b.part va true with
    | .error _ => bad
    | .ok pa =>
      let r := s.taskRec pa
      let dep := s.spawnDep f r
      let publish (st : Nat) : State := s.publish s.b.lk s.b.core s.b.part va pa dep st
      if r.st ≠ 0 || (s.taskLaunch s.b.part r.entry).isNone then bad
      else
        match s.spawnAs f l r with
        | some 1 => { x with s := ((publish 1).statLane l 0).pdLane f.pd l true, done }
        | some 2 =>
          { x with s := (((publish 2).enqueueTask s.b.part r.entry va false).statLane l 0).pdLane f.pd l true, done }
        | some _ => { x with done }.push ((publish 3).pdLane f.pd l true) l va false
        | none => if nb then { x with s := s.pdLane f.pd l false, done } else x

/-- TSPAWN and TSPAWN.nb (R337): a release at package scope, the target check, and the steps. -/
def execTspawn (nb : Bool) (h : Hdr) (f : FmtY) (s : State) : Host.Outcome State Fault Refusal :=
  issue (.tspawn nb h f) s fun t =>
    let need := s.b.guard h
    let m := need &&& ~~~s.b.stepdone
    let va := t.laneVa f
    match m.list.findSome? fun l => s.noTarget (va l) with
    | some a => .trap cTarget 0 a
    | none =>
      if !s.releaseReady s.b false then .hold .fence s
      else
        laneWait (.tspawn nb h f) s need m (fun u l => u.recAddrs (va l) fun r => (u.spawnAs f l r).isSome)
          (spawnStep nb f va)
          (s.kernelEntry s.b) fun rest => .tasks (rest.list.map fun l => s.vword s.b (va l) 8)

/-! ## Suspension (R342, R344) -/

/-- The lane leaves its task stack in the overflow area: its task takes a state with RESUME set, and where that
is SUSPENDED (4) a FRAME that the manual does not fix; FRAME is 0 otherwise (R333, R342, R344). -/
def State.saveLane (s : State) (l : Nat) (ret : W64) (st : Nat) : State :=
  let va := 64 * s.b.task l
  let live := s.liveSet s.b
  let x : Susp :=
    { part := s.b.part, task := BitVec.ofNat 64 va, top := s.b.frameNow live l ret false,
      frames := s.b.framesOf l }
  let s := match s.xlateRec s.b.core s.b.part va true with
    | .error _ => s
    | .ok pa =>
      ((s.setTaskSt s.b.lk pa st).setTaskResume s.b.lk pa true).poke s.b.lk (pa + 56) 8
        (if st = 4 then (Config.freeWord s.free).toNat % 2 ^ 64 else 0)
  let s := { s.freeValue with susp := s.susp ++ [x] }
  let m : Mask := 1#32 <<< l
  s.modB fun b =>
    { b with frames := b.frames.filter fun fr => fr.lane != l,
             taskOf := Sparse.set b.taskOf l 0,
             tgroups := b.tgroups.map fun g => { g with mask := g.mask &&& ~~~m, run := g.run &&& ~~~m } }

/-- The lane of a saved task fetches its next task, or exits outside a region (R342). -/
def State.leaveLane (s : State) (l : Nat) : State :=
  let m : Mask := 1#32 <<< l
  match s.regionOf s.b, s.b.refill with
  | some r, some f => s.skipLanes r f.region f.inst m
  | _, _ => s.modB fun b => b.exitLanes m

/-! ## TWAIT (R339, R342) -/

/-- The tasks of a lane's chain: its own and those of its frames (R339). -/
def Bough.chain (b : Bough) (l : Nat) : List Nat :=
  b.task l :: (b.framesOf l).map fun f => f.task.toNat

/-- The lane is parked on a future, and its copse has not been restored since (R368). -/
def State.watched (s : State) (uid l : Nat) : Bool :=
  s.watches.any fun w => w.uid == uid && w.lane == l && w.task == 0 && !w.again

/-- The lane that repeats its TWAIT step after a restore is no longer registered by the step before it (R368). -/
def State.unwatch (s : State) (l : Nat) : State :=
  { s with watches := s.watches.filter fun w => !(w.uid == s.b.uid && w.lane == l && w.task == 0) }

/-- The core's wait-table entries in use (R342, R343). -/
def State.wtab (s : State) (core : Nat) : Nat :=
  (s.watches.filter fun w => w.core == core && !w.overflow).length

/-- A lane parks on a future: a plain kernel's lane stays, and a task's lane is suspended (R342). -/
def State.parkLane (s : State) (l fut : Nat) : State :=
  let (id, s) := s.fresh
  let overflow := s.wtab s.b.core ≥ 256
  let inTask := (s.launchOf s.b).any (fun la => la.desc.task) && s.b.task l ≠ 0
  let home := match s.xlateRec s.b.core s.b.part fut false with
    | .ok pa => pa
    | .error _ => 0
  let w : Watch :=
    { id, home, again := false, uid := if inTask then 0 else s.b.uid, lane := l, core := s.b.core, part := s.b.part, fut,
      task := if inTask then BitVec.ofNat 64 (64 * s.b.task l) else 0, ready := false, overflow }
  let s := { s with watches := s.watches ++ [w] }
  if inTask then (s.saveLane l s.b.pc 4).leaveLane l else s

/-- A future as a lane finds it: its bits, where it is aligned. -/
def State.futBits (s : State) (va : Nat) : Nat := s.vword s.b va 16

/-- The addresses of a future and, where it is empty and owned, of its owner's record. -/
def State.futAddrs (s : State) (va : Nat) : List (Nat × Bool) :=
  if va % 16 ≠ 0 then []
  else
    let x := s.futBits va
    (va, false) :: (if futState x = 0 && futOwner x ≠ 0 then [(64 * futOwner x, true)] else [])

/-- The lane waits on a task of its own chain (R339, R343). -/
def State.cycle (s : State) (l va : Nat) : Bool :=
  let x := s.futBits va
  va % 16 = 0 && (s.stepFault [(va, false)]).isNone && futState x = 0 && futOwner x ≠ 0 &&
    (s.b.chain l).contains (futOwner x)

/-- TWAIT's step for one lane (R339), at the future that its lane names. -/
def waitStep (nb : Bool) (f : FmtY) (at_ : Nat → Nat) (x : Steps) (l : Nat) : Steps :=
  let s := x.s.unwatch l
  let va := at_ l
  let done := x.done ||| (1#32 <<< l)
  let fail (st : Nat) : Steps := { x with s := (s.statLane l st).pdLane f.pd l false, done }
  let park : Steps := { x with s := s.parkLane l va }
  if va % 16 ≠ 0 then fail 0x02
  else
    let y := s.futBits va
    match futState y with
    | 1 =>
      let s := s.modB fun b => b.setVregs false f.vd.toNat l 2 (y % 2 ^ 64)
      { x with s := (s.statLane l 0).pdLane f.pd l true, done }
    | 2 => fail (y % 256)
    | 3 => fail 0x02
    | _ =>
      if nb then fail 0x06
      else if futOwner y = 0 then park
      else
        let o := 64 * futOwner y
        match s.xlateRec s.b.core s.b.part o true with
        | .error _ => park
        | .ok pa =>
          let r := s.taskRec pa
          if r.st ≠ 2 then park
          else if r.entry ≠ (s.kernelEntry s.b).toNat then
            { x with s := (s.enqueueTask s.b.part r.entry o true).parkLane l va }
          else if s.b.mayPush l then x.push (s.dequeueTask s.b.part o) l o true
          else park

/-- TWAIT and TWAIT.nb (R339). -/
def execTwait (nb : Bool) (h : Hdr) (f : FmtY) (s : State) : Host.Outcome State Fault Refusal :=
  issue (.twait nb h f) s fun t =>
    let va := t.laneVa f
    let need := s.b.guard h
    let m := need &&& ~~~s.b.stepdone &&& ~~~(Mask.ofPred fun l => s.watched s.b.uid l)
    if !nb && m.list.any fun l => s.cycle l (va l) then .trap cCycle 0 0
    else
      laneWait (.twait nb h f) s need m (fun u l => u.futAddrs (va l)) (waitStep nb f va)
        (s.kernelEntry s.b) fun _ => .future

/-- FUTURE_WAKE (R342): a watch of a future that was filled: the parked lane repeats its TWAIT step, or
the suspended task goes READY to the head of its queue. -/
def execFutureWake (k : Nat) (s : State) : Host.Outcome State Fault Refusal :=
  match s.watches.find? fun w => w.id == k && w.ready with
  | none => .next s
  | some w =>
    let s := { s with watches := s.watches.filter fun x => x.id != k }
    if w.task = 0 then
      .next (s.modBough w.uid fun b => { b with wait := if b.wait = .future then .none else b.wait })
    else
      match s.xlateRec w.core w.part w.task.toNat true with
      | .error _ => .next s
      | .ok pa =>
        if (s.taskRec pa).st = 4 then
          let own := ((s.bough w.uid).map Bough.lk).getD 0
          .next (((s.setTaskSt own pa 2).poke own (pa + 56) 8 0).enqueueTask w.part (s.taskRec pa).entry w.task.toNat true)
        else .next s

/-! ## TFILL (R338) -/

/-- TFILL.fut's step for one lane (R338); `t` is the state in which the instruction has issued. -/
def fillLane (t : State) (f : FmtY) (u : State) (l : Nat) : State :=
  let va := t.laneVa f l
  if va % 16 ≠ 0 then u.pdLane f.pd l false
  else
    let (ok, u) := u.fillFuture t.b.lk t.b.core t.b.part va 1 (t.b.vreg64 (f.vd.toNat + 2) l).toNat
    u.pdLane f.pd l ok

/-- TFILL.fut (R338). -/
def execTfillFut (h : Hdr) (f : FmtY) (s : State) : Host.Outcome State Fault Refusal :=
  issue (.tfillFut h f) s fun t =>
    if !s.releaseReady s.b false then .hold .fence s
    else
      laneSteps s t (s.b.guard h)
        (fun l => if t.laneVa f l % 16 ≠ 0 then [] else [(t.laneVa f l, true)]) (fillLane t f)

/-- TFILL.sig's step (R338). -/
def signalStep (own part va pa n : Nat) (u : State) : Bool × State :=
  let r := u.taskRec pa
  let u := u.setTaskDep own pa (r.dep - n)
  if r.st = 1 && (u.taskRec pa).dep ≤ 0 then
    (true, (u.setTaskSt own pa 2).enqueueTask part r.entry va false)
  else (false, u)

/-- TFILL.sig's step for one lane (R338). -/
def signalLane (t : State) (f : FmtY) (u : State) (l : Nat) : State :=
  let va := t.laneVa f l
  if va % 64 ≠ 0 then u.pdLane f.pd l false
  else
    match t.xlateRec t.b.core t.b.part va true with
    | .error _ => u.pdLane f.pd l false
    | .ok pa =>
      let (ok, u) := signalStep t.b.lk t.b.part va pa f.imm.toNat u
      u.pdLane f.pd l ok

/-- TFILL.sig (R338). -/
def execTfillSig (h : Hdr) (f : FmtY) (s : State) : Host.Outcome State Fault Refusal :=
  issue (.tfillSig h f) s fun t =>
    if !s.releaseReady s.b false then .hold .fence s
    else
      laneSteps s t (s.b.guard h)
        (fun l => if t.laneVa f l % 64 ≠ 0 then [] else [(t.laneVa f l, true)]) (signalLane t f)

/-! ## TINFO, TYIELD, TCANCEL, NESTSET (R340, R343, R344) -/

/-- TINFO (R343). -/
def execTinfo (h : Hdr) (f : FmtY) (s : State) : Host.Outcome State Fault Refusal :=
  issue (.tinfo h f) s fun t =>
    let m := s.b.guard h
    let item := f.sub.toNat
    let va (l : Nat) : Nat := 64 * s.b.task l + 24
    if item = 3 then
      laneSteps s t m (fun l => if s.b.task l = 0 then [] else [(va l, false)]) fun u l =>
        let v := if s.b.task l = 0 then 0 else s.vword s.b (va l) 8
        u.modB fun b => b.setVregs h.tr f.vd.toNat l 2 v
    else if item < 3 then
      .done (t.modB fun b => b.setLanes h.tr f.vd.toNat (if item = 0 then 2 else 1) m fun l =>
        match item with
        | 0 => s.b.task l
        | 1 => s.b.depth l
        | _ => (Sparse.get s.b.tstat l).toNat)
    else
      .done (t.writeSd f (BitVec.ofNat 64 (if item = 4 then s.b.nestmax else s.wtab s.b.core)))

/-- TYIELD's step (R344): the task goes READY to the tail of its queue, and then the lane leaves it. -/
def yieldStep (u : State) (l : Nat) : State :=
  let va := 64 * u.b.task l
  let entry := u.vword u.b va 8
  if u.b.task l = 0 then u
  else ((u.saveLane l u.b.pc 2).enqueueTask u.b.part entry va false).leaveLane l

/-- TYIELD (R344). -/
def execTyield (h : Hdr) (f : FmtY) (s : State) : Host.Outcome State Fault Refusal :=
  issue (.tyield h f) s fun t =>
    if !(s.launchOf s.b).any fun l => l.desc.task then .trap cIllegal 0 0
    else
      match laneSteps s t (s.b.guard h)
        (fun l => if s.b.task l = 0 then [] else [(64 * s.b.task l, true)]) yieldStep with
      | .done u => guardPush s (.done u.checkEmpty)
      | r => r

/-- A cancelled task is none of its launch's any more, but for the launch's kill (R344, R361). -/
def State.cancelTask (s : State) (part va : Nat) : State :=
  let v := BitVec.ofNat 64 va
  { s with launches := s.launches.map fun x =>
      if x.part == part && x.tasks.contains v then
        { x with tasks := x.tasks.filter fun t => t != v, cancelled := x.cancelled ++ [v] }
      else x }

/-- TCANCEL's step (R344): whether the task was cancelled. -/
def cancelStep (own core part va pa : Nat) (u : State) : Bool × State :=
  if (u.taskRec pa).st ≤ 2 then
    let u := (u.dequeueTask part va).endTask own core part va 7 0x04
    (true, { u.cancelTask part va with susp := u.susp.filter fun y => !(y.part == part && y.task.toNat == va) })
  else (false, u)

/-- TCANCEL's step for one lane (R344). -/
def cancelLane (s : State) (f : FmtY) (u : State) (l : Nat) : State :=
  let va := s.laneVa f l
  let fail : State := (u.statLane l 0x02).pdLane f.pd l false
  if va % 64 ≠ 0 then fail
  else
    match s.xlateRec s.b.core s.b.part va true with
    | .error _ => fail
    | .ok pa =>
      match cancelStep s.b.lk s.b.core s.b.part va pa u with
      | (true, u) => (u.statLane l 0).pdLane f.pd l true
      | (false, _) => fail

/-- TCANCEL (R344). -/
def execTcancel (h : Hdr) (f : FmtY) (s : State) : Host.Outcome State Fault Refusal :=
  issue (.tcancel h f) s fun t =>
    if !s.releaseReady s.b false then .hold .fence s
    else laneSteps s t (s.b.guard h) (fun l => s.recAddrs (t.laneVa f l) fun r => r.st ≤ 2) (cancelLane t f)

/-- NESTSET (R340). -/
def execNestset (h : Hdr) (f : FmtY) (s : State) : Host.Outcome State Fault Refusal :=
  issue (.nestset h f) s fun t =>
    .done ((t.writeSd f (BitVec.ofNat 64 s.b.nestmax)).modB fun b => { b with nestmax := f.imm.toNat })

end Sys2Proof.Machine
end

