-- ==== Sys2Proof/Machine/Launches.lean ====
section
/-! DEFINITION. Class 6: LAUNCH and LAUNCH.agg (spec/12_tasks.md R348-R350), and the close of an
aggregation window (R350). -/

namespace Sys2Proof.Machine

/-- A child as its launch record asks for it (R348): PARAM, FUT and NCOPSE; `ok` where the record passes
its checks. -/
structure LaunchRec where
  param : W64
  fut : W64
  ncopses : Nat
  ok : Bool
  deriving DecidableEq, Repr

/-- A launch record from its 512 bits (R348). -/
def launchRec (x : Nat) : LaunchRec :=
  { param := BitVec.ofNat 64 x, fut := BitVec.ofNat 64 (bitsAt x 64 64), ncopses := bitsAt x 128 32,
    ok := decide (x / 2 ^ 160 = 0) && decide (1 ≤ bitsAt x 128 32) && decide (bitsAt x 128 32 ≤ 65536) }

/-- The descriptor that a child may run: not a TASK one, and one that an empty core admits (R349, R23,
R24); 0 copses asks of the descriptor alone. -/
def State.childDesc (s : State) (part va n : Nat) : Option Desc :=
  (s.readDesc part va).filter fun d => !d.task && d.fits n

/-- Children of a launch that have not started: one for a child launched alone, and for a grid those of
which no copse has (R349). -/
def Launch.unstarted (l : Launch) : Nat :=
  match l.origin with
  | .host _ _ => 0
  | .device _ => bit l.started.isEmpty
  | .grid cs => (cs.foldl (fun (a : Nat × Nat) c => (a.1 + bit (l.started.length ≤ a.2), a.2 + c.2.1)) (0, 0)).1

/-- The accepted device-launched children of a partition that have not started (R349). -/
def State.unstarted (s : State) (part : Nat) : Nat :=
  ((s.launches.filter fun l => l.part == part && !l.killed).map Launch.unstarted).foldl (· + ·) 0 +
    ((s.wins.filter fun w => w.part == part).map fun w => w.children.length).foldl (· + ·) 0

/-- Children that a partition holds, or a window, at most (R349, R350). -/
def childrenMax : Nat := 4096

/-- The id of a device launch: bit 31 is set (R384). -/
def deviceId (uid : Nat) : Nat := 2 ^ 31 + uid % 2 ^ 31

/-- A child launch is accepted at once (R349). -/
def State.acceptChild (s : State) (part : Nat) (d : Desc) (r : LaunchRec) : State :=
  let (id, s) := s.fresh
  { s with launches := s.launches ++ [newLaunch (deviceId id) part d r.param r.ncopses 0 (.device r.fut) id] }

/-- The cycles for which a window is open (R350). -/
def winCycles : Nat := 2500

/-- The window of a key that takes the next child: the newest, unless it is full or its time is over, whether
or not its close has been performed (R350). -/
def State.openWin (s : State) (part : Nat) (desc : W64) : Option Win :=
  (s.wins.reverse.find? fun w => w.part == part && w.desc == desc).filter fun w =>
    w.children.length < childrenMax && s.time < w.opened + winCycles

/-- A child joins the open window of its key, or opens the next one (R350). -/
def State.joinWin (s : State) (part : Nat) (desc : W64) (d : Desc) (r : LaunchRec) : State :=
  let c := (r.param, r.ncopses, r.fut)
  match s.openWin part desc with
  | some w => { s with wins := s.wins.map fun x => if x.id == w.id then { x with children := x.children ++ [c] } else x }
  | none =>
    let (id, s) := s.fresh
    { s with wins := s.wins ++ [{ id, part, desc, kernel := d, opened := s.time, children := [c] }] }

/-- LAUNCH's step for one lane (R349): a refused child's future is FULL with status 2, and PD is free. -/
def launchStep (agg : Bool) (f : FmtY) (at_ : Nat → Nat) (x : Steps) (l : Nat) : Steps :=
  let s := x.s
  let va := at_ l
  let desc := s.ss f.s1
  let done := x.done ||| (1#32 <<< l)
  let refuse (s : State) : Steps := { x with s := s.pdFree f.pd l, done }
  if va % 64 ≠ 0 then refuse (s.childFuture s.b.lk s.b.part (BitVec.ofNat 64 (s.vspan s.b (va + 8) 8)) 0 2)
  else
    let r := launchRec (s.vword s.b va 64)
    match s.childDesc s.b.part desc.toNat (if agg then 0 else r.ncopses) with
    | none => refuse (s.childFuture s.b.lk s.b.part r.fut 0 2)
    | some d =>
      if !r.ok then refuse (s.childFuture s.b.lk s.b.part r.fut 0 2)
      else if s.unstarted s.b.part < childrenMax then
        let s := if agg then s.joinWin s.b.part desc d r else s.acceptChild s.b.part d r
        { x with s := s.pdLane f.pd l true, done }
      else if f.pd.isSome then { x with s := s.pdLane f.pd l false, done }
      else x

/-- The addresses that a launch record is read at: of a misaligned one, which is refused, its FUT (R349). -/
def launchAddrs (va : Nat) : List (Nat × Bool) :=
  if va % 64 ≠ 0 then [(va + 8, false), (va + 15, false)] else [(va, false)]

/-- The course of LAUNCH and LAUNCH.agg: a release at package scope (R332), and the steps. -/
def launchCourse (agg : Bool) (i : Instr) (h : Hdr) (f : FmtY) (s t : State) : Res :=
  let need := s.b.guard h
  if !s.releaseReady s.b false then .hold .fence s
  else
    laneWait i s need (need &&& ~~~s.b.stepdone) (fun _ l => launchAddrs (t.laneVa f l))
      (launchStep agg f (t.laneVa f)) 0 fun _ => .launch

/-- LAUNCH (R349). -/
def execLaunch (h : Hdr) (f : FmtY) (s : State) : Host.Outcome State Fault Refusal :=
  issue (.launch h f) s fun t => launchCourse false (.launch h f) h f s t

/-- LAUNCH.agg (R350). -/
def execLaunchAgg (h : Hdr) (f : FmtY) (s : State) : Host.Outcome State Fault Refusal :=
  issue (.launchAgg h f) s fun t => launchCourse true (.launchAgg h f) h f s t

/-- A window may close (R350). -/
def Win.due (w : Win) (time : Nat) : Bool := time ≥ w.opened + winCycles || w.children.length ≥ childrenMax

/-- A window closes: one launch of all its children's copses, unless it could never be resident (R24,
R350). -/
def State.closeWin (s : State) (w : Win) : State :=
  let n := (w.children.map fun c => c.2.1).foldl (· + ·) 0
  let (id, s) := ({ s with wins := s.wins.filter fun x => x.id != w.id } : State).fresh
  if w.kernel.fits n then
    { s with launches := s.launches ++ [newLaunch (deviceId id) w.part w.kernel 0 n 0 (.grid w.children) id] }
  else w.children.foldl (fun s c => s.childFuture 0 w.part c.2.2 0 2) s

/-- AGGREGATION_WINDOW_CLOSE (R350). -/
def execAggregationWindowClose (k : Nat) (s : State) : Host.Outcome State Fault Refusal :=
  match s.wins.find? fun w => w.id == k && w.due s.time with
  | none => .next s
  | some w => .next (s.closeWin w)

end Sys2Proof.Machine
end

