-- ==== Sys2Proof/Machine/Placing.lean ====
section
/-! DEFINITION. The distributor's places (spec/01_machine.md R14, R15, R23-R25, spec/07_memory.md R190): when a
place is legal, and a search that finds one, for one copse or for several at once, wherever there is one. -/

namespace Sys2Proof.Machine

/-! ## Places -/

/-- The boughs that hold a slot and granules of a core (R25, R139). -/
def State.coreBoughs (s : State) (core : Nat) : List Bough :=
  s.allBoughs.filter fun b => b.core == core && (b.status == .running || b.status == .ended)

/-- The banks that bytes of LOCAL space lie in. -/
def banksOf (base n : Nat) : List Nat := (List.range 48).filter fun k => bytesMeet base n (0x4000 * k) 0x4000

/-- Runs of bytes are apart from each other and from those of another list. -/
def runsApart (old : List (Nat × Nat)) : List (Nat × Nat) → Bool
  | [] => true
  | x :: xs => (xs ++ old).all (fun y => !bytesMeet x.1 x.2 y.1 y.2) && runsApart old xs

/-- Consecutive banks. -/
def bankRun (first n : Nat) : List Nat := (List.range n).map fun i => first + i

/-- A place is free and legal for a copse of a partition, with `extra` more banks of its own (R14, R15, R23,
R25). A core serves one partition at a time (R286, log 60). -/
def State.placeOk (s : State) (part : Nat) (d : Desc) (extra : Nat) (p : Place) : Bool :=
  let k := s.core p.core
  let runs := bankRun p.scr d.scrb ++ bankRun p.fif d.fifb
  let a := 128 * d.regs
  let here := s.coreBoughs p.core
  let new := p.regBases.map fun b => (b, a)
  let regBanks := new.flatMap fun x => banksOf x.1 x.2
  p.core < 2048 && p.regBases.length == d.copse && here.all (fun b => b.part == part) &&
  p.regBases.all (fun b => b % 2048 == 0 && b + a ≤ 0xC0000) &&
  runsApart (here.map fun b => (b.regbase, 128 * b.nregs)) new &&
  regBanks.all (fun b => (k.role b == .reg || k.role b == .cac) && !runs.contains b) &&
  runs.all (fun b => b < 48 && k.role b == .cac) && runs.eraseDups.length == runs.length &&
  (k.cacBanks.filter fun b => !runs.contains b && !regBanks.contains b).length ≥ 2 + extra &&
  here.length + d.copse ≤ 48 && (d.scrb != 0 || p.scr == 0) && (d.fifb != 0 || p.fif == 0)

/-- The highest run of CAC banks that avoids some. -/
def Core.freeRun (k : Core) (n : Nat) (avoid : List Nat) : Option Nat :=
  if n = 0 then some 0
  else (List.range 48).reverse.find? fun b =>
    b + n ≤ 48 && (bankRun b n).all fun x => k.role x == .cac && !avoid.contains x

/-- The lowest allotment that is apart from others and from the runs. -/
def Core.freeAllot (k : Core) (used : List (Nat × Nat)) (runs : List Nat) (a : Nat) : Option Nat :=
  ((List.range 384).map fun g => 2048 * g).find? fun b =>
    b + a ≤ 0xC0000 && used.all (fun y => !bytesMeet b a y.1 y.2) &&
      (banksOf b a).all fun x => (k.role x == .reg || k.role x == .cac) && !runs.contains x

/-- Allotments for `n` boughs. -/
def Core.freeAllots (k : Core) (runs : List Nat) (a : Nat) : Nat → List (Nat × Nat) → Option (List Nat)
  | 0, _ => some []
  | n + 1, used =>
    match k.freeAllot used runs a with
    | none => none
    | some b => (Core.freeAllots k runs a n ((b, a) :: used)).map fun l => b :: l

/-- A place of a core for a copse in the lowest granules and the highest banks, where those are free. -/
def State.firstPlace (s : State) (core part : Nat) (d : Desc) (extra : Nat) : Option Place :=
  let k := s.core core
  match k.freeRun d.scrb [] with
  | none => none
  | some scr =>
    match k.freeRun d.fifb (bankRun scr d.scrb) with
    | none => none
    | some fif =>
      let used := (s.coreBoughs core).map fun b => (b.regbase, 128 * b.nregs)
      match k.freeAllots (bankRun scr d.scrb ++ bankRun fif d.fifb) (128 * d.regs) d.copse used with
      | none => none
      | some regBases =>
        let p : Place := { core, regBases, scr, fif }
        if s.placeOk part d extra p then some p else none

/-! ## The search over all places

A core is filled from its lowest granule upwards, in every way; of those that agree in all that matters from
there on, one is kept. -/

/-- A core filled up to some granule: the allotments and runs placed, the last first, the CAC banks that they
take, and the bank in which the last allotment ends. -/
structure Filling where
  regs : List Nat
  scrs : List Nat
  fifs : List Nat
  cost : Nat
  last : Option Nat
  deriving DecidableEq, Repr

/-- What a core is filled with: `n` allotments of `g` granules and as many runs of `sn` and of `fn` banks as
copses, taking at most `room` CAC banks. -/
structure Want where
  copses : Nat
  n : Nat
  g : Nat
  sn : Nat
  fn : Nat
  room : Nat
  deriving DecidableEq, Repr

/-- Everything is placed. -/
def Filling.complete (x : Filling) (w : Want) : Bool :=
  x.regs.length == w.copses * w.n && (w.sn == 0 || x.scrs.length == w.copses) &&
    (w.fn == 0 || x.fifs.length == w.copses)

/-- A run of CAC banks may begin at granule `p`. -/
def Core.runAt (k : Core) (p n : Nat) : Bool :=
  n != 0 && p % 8 == 0 && p / 8 + n ≤ 48 && (bankRun (p / 8) n).all fun b => k.role b == .cac

/-- Granule `p` is left free, begins an allotment, or begins a run: where the filling goes on, and how. -/
def Filling.steps (k : Core) (used : List (Nat × Nat)) (w : Want) (p : Nat) (x : Filling) : List (Nat × Filling) :=
  let a := 2048 * w.g
  let banks := banksOf (2048 * p) a
  let take := (banks.filter fun b => k.role b == .cac && x.last != some b).length
  let free := 2048 * p + a ≤ 0xC0000 && used.all (fun y => !bytesMeet (2048 * p) a y.1 y.2) &&
    banks.all fun b => k.role b == .reg || k.role b == .cac
  let next : List (Nat × Filling) :=
    (p + 1, x) ::
    (if x.regs.length < w.copses * w.n && free then
      [(p + w.g, { x with regs := 2048 * p :: x.regs, cost := x.cost + take, last := banks.getLast? })] else []) ++
    (if x.scrs.length < w.copses && k.runAt p w.sn then
      [(p + 8 * w.sn, { x with scrs := p / 8 :: x.scrs, cost := x.cost + w.sn })] else []) ++
    (if x.fifs.length < w.copses && k.runAt p w.fn then
      [(p + 8 * w.fn, { x with fifs := p / 8 :: x.fifs, cost := x.cost + w.fn })] else [])
  next.filter fun y => y.2.cost ≤ w.room

/-- Two fillings up to granule `p` that differ at most in the number of allotments. -/
def Filling.alike (p : Nat) (x y : Filling) : Bool :=
  x.scrs.length == y.scrs.length && x.fifs.length == y.fifs.length && x.cost == y.cost &&
    (x.last == some (p / 8)) == (y.last == some (p / 8))

/-- Of fillings that are alike, one with the most allotments is kept. -/
def Filling.keep (p : Nat) (x : Filling) : List Filling → List Filling
  | [] => [x]
  | y :: r =>
    if x.alike p y then (if x.regs.length > y.regs.length then x else y) :: r else y :: Filling.keep p x r

/-- The search from granule `p` on; `front` holds the fillings and how far each has come. -/
def packFuel (k : Core) (used : List (Nat × Nat)) (w : Want) : Nat → Nat → List (Nat × Filling) → Option Filling
  | 0, _, front => (front.find? fun x => x.2.complete w).map fun x => x.2
  | n + 1, p, front =>
    match front.find? fun x => x.2.complete w with
    | some x => some x.2
    | none =>
      let cur := (front.filter fun x => x.1 == p).foldl (fun l x => Filling.keep p x.2 l) []
      packFuel k used w n (p + 1) ((front.filter fun x => x.1 != p) ++ cur.flatMap fun x => x.steps k used w p)

/-- The places of a filling's copses. -/
def Filling.places (x : Filling) (core n : Nat) : Nat → List Place
  | 0 => []
  | i + 1 =>
    { core, regBases := (x.regs.drop (i * n)).take n, scr := (x.scrs[i]?).getD 0, fif := (x.fifs[i]?).getD 0 } ::
      x.places core n i

/-- Places on a core for some copses of a partition at once, the last leaving `extra` more banks: some wherever
there are any (R14, R15, R23). -/
def State.packCore (s : State) (core part : Nat) (d : Desc) (extra copses : Nat) : Option (List Place) :=
  let k := s.core core
  let here := s.coreBoughs core
  if core ≥ 2048 || here.any (fun b => b.part != part) || here.length + copses * d.copse > 48 ||
      k.cacBanks.length < 2 + extra then none
  else
    let w : Want := { copses, n := d.copse, g := d.regs / 16, sn := d.scrb, fn := d.fifb,
                      room := k.cacBanks.length - (2 + extra) }
    (packFuel k (here.map fun b => (b.regbase, 128 * b.nregs)) w 385 0
      [(0, { regs := [], scrs := [], fifs := [], cost := 0, last := none })]).map fun x =>
        x.places core d.copse copses

/-- A place of a core for a copse, where there is one. -/
def State.findPlace (s : State) (core part : Nat) (d : Desc) (extra : Nat) : Option Place :=
  match s.firstPlace core part d extra with
  | some p => some p
  | none =>
    (s.packCore core part d extra 1).bind fun ps =>
      (ps.head?).filter fun p => s.placeOk part d extra p

/-- Cores to look at: those in use, and one that is as after reset. -/
def State.candidates (s : State) : List Nat :=
  let used := s.cores.map fun e => e.1
  used ++ ((List.range (used.length + 1)).filter fun k => !used.contains k && k < 2048).take 1

/-- Some core has room for a copse of a launch. -/
def State.findAny (s : State) (l : Launch) : Option Place :=
  s.candidates.findSome? fun k => s.findPlace k l.part l.desc 0

/-- Places on a core for as many copses of a launch as it takes at once, up to `m`. -/
def State.packMost (s : State) (core part : Nat) (d : Desc) : Nat → List Place
  | 0 => []
  | m + 1 =>
    match s.packCore core part d 0 (m + 1) with
    | some ps => ps
    | none => s.packMost core part d m

/-- Places for `need` copses of a launch over some cores, if they have as many. -/
def State.packOver (s : State) (part : Nat) (d : Desc) : List Nat → Nat → Option (List Place)
  | _, 0 => some []
  | [], _ + 1 => none
  | k :: ks, need + 1 =>
    let ps := s.packMost k part d (min (need + 1) d.perCore)
    (s.packOver part d ks (need + 1 - ps.length)).map fun qs => ps ++ qs

/-- Places for `need` copses of a launch at once (R24). -/
def State.placesFor (s : State) (l : Launch) (need : Nat) : Option (List Place) :=
  let used := s.cores.map fun e => e.1
  s.packOver l.part l.desc (used ++ (List.range 2048).filter fun k => !used.contains k) need

/-- Where the next copse of a launch can be admitted; of a COSCHED one, the first of places for all (R24). -/
def State.nextPlace (s : State) (l : Launch) : Option Place :=
  if l.desc.cosched then (s.placesFor l l.ncopses).bind fun ps => ps.head? else s.findAny l

end Sys2Proof.Machine
end

