-- ==== Sys2Proof/Machine/Queues.lean ====
section
/-! DEFINITION. Class 6: the hardware queues of a copse (spec/12_tasks.md R345-R347) and the sibling
groups (R351-R354). -/

namespace Sys2Proof.Machine

/-! ## Queues (R345) -/

/-- A queue of a copse; one that nothing has bound is unbound. -/
def Copse.queue (c : Copse) (q : Nat) : HQueue :=
  match c.queues.find? fun e => e.1 == q with
  | some e => e.2
  | none => { bound := false, first := 0, banks := 0, size := 0, head := 0, count := 0 }

def Copse.setQueue (c : Copse) (q : Nat) (x : HQueue) : Copse :=
  { c with queues := upsert (fun e => e.1 == q) (q, x) c.queues }

/-- Bytes of an element. -/
def HQueue.elem (x : HQueue) : Nat := if x.size = 0 then 4 else 8

/-- Elements that the queue holds at most. -/
def HQueue.cap (x : HQueue) : Nat := x.banks * 16384 / x.elem

/-- The LOCAL address of element `i`, from the head (R345). -/
def HQueue.addr (x : HQueue) (fifbase i : Nat) : Nat :=
  fifbase + 0x4000 * x.first + x.elem * ((x.head + i) % x.cap)

/-- A queue of the bough's copse. -/
def State.hqueue (s : State) (q : Nat) : HQueue :=
  ((s.copseOf s.b).map fun c => c.queue q).getD
    { bound := false, first := 0, banks := 0, size := 0, head := 0, count := 0 }

/-- FIFBASE of a bough's copse (R190). -/
def State.fifBase (s : State) (b : Bough) : Nat :=
  ((s.copseOf b).map fun c => if c.fifn = 0 then 0 else 0x4000 * c.fif).getD 0

/-- SCRBASE of a bough's copse (R190). -/
def State.scrBase (s : State) (b : Bough) : Nat :=
  ((s.copseOf b).map fun c => if c.scrn = 0 then 0 else 0x4000 * c.scr).getD 0

/-- Writes a queue of the bough's copse. -/
def State.setHqueue (s : State) (q : Nat) (x : HQueue) : State :=
  s.modCopse s.b.part s.b.launch s.b.cid fun c => c.setQueue q x

/-- A blocking form of the same kind waits on the queue before the focus bough (R346); `q` names the
queue and the kind: ENQ q, DEQ 16 + q. -/
def State.olderWaits (s : State) (q : Nat) : Bool :=
  (s.boughsOf s.b.part s.b.launch s.b.cid).any fun x =>
    x.uid != s.b.uid && x.status == .running && x.wait == .queue q &&
      (s.b.wait != .queue q || x.waitSince < s.b.waitSince ||
        (x.waitSince == s.b.waitSince && x.slot < s.b.slot))

/-- An instruction of the copse waits on the queue. -/
def State.queueWaits (s : State) (q : Nat) : Bool :=
  (s.boughsOf s.b.part s.b.launch s.b.cid).any fun x => x.wait == .queue q || x.wait == .queue (16 + q)

/-- The trap of an instruction on an unbound queue, or of a refused QCREATE (R346, R345, R359). -/
def queueTrap (q : Nat) : Res := .trap cRegister (0x200 + q) 0

/-- An 8-byte element takes the pair at VD: even, inside the allotment, and not awaited (R56, R63, R92). -/
def State.pairCheck (s : State) (x : HQueue) (vd : Nat) : Option Res :=
  if x.size = 0 then none
  else if vd % 2 ≠ 0 then some (.trap cIllegal 0 0)
  else if vd + 2 > s.b.nregs then some (.trap cRegister (max vd s.b.nregs) 0)
  else if (s.pendingVec s.b).any fun y => overlap (vd, 2) y then some (.hold .scoreboard s)
  else none

/-- ENQ writes the elements of lanes, in order, at the tail (R346). -/
def State.enqLanes (t : State) (q vd : Nat) (ls : List Nat) : State :=
  ls.foldl (fun t l =>
    let x := t.hqueue q
    let v := if x.size = 0 then (t.b.vreg vd l).toNat else (t.b.vreg64 vd l).toNat
    let t := t.localWrN t.b.core t.b.part t.b.launch t.b.cid (x.addr (t.fifBase t.b) x.count) x.elem v
    t.setHqueue q { x with count := x.count + 1 }) t

/-- DEQ writes elements, from the head, into lanes in order (R346). -/
def State.deqLanes (t : State) (tr : Bool) (q vd : Nat) (ls : List Nat) : State :=
  ls.foldl (fun t l =>
    let x := t.hqueue q
    let v := t.localRdN t.b.core t.b.part t.b.launch t.b.cid (x.addr (t.fifBase t.b) 0) x.elem
    (t.setHqueue q { x with head := (x.head + 1) % x.cap, count := x.count - 1 }).modB fun b =>
      b.setVregs tr vd l (x.elem / 4) v) t

/-- ENQ and DEQ (R346): how many lanes fit, and the effect on them; `rel` says that it is a release at core
scope (R332). -/
def queueOp (nb rel : Bool) (h : Hdr) (f : FmtY) (w : Nat) (room : HQueue → Nat)
    (eff : State → List Nat → State) (s t : State) : Res :=
  let q := f.imm.toNat
  let x := s.hqueue q
  let m := s.b.guard h
  if !x.bound then queueTrap q
  else
    match s.pairCheck x f.vd.toNat with
    | some r => r
    | none =>
      if rel && !s.releaseReady s.b true then .hold .fence s
      else if !nb then
        if s.olderWaits w || room x < m.list.length then .hold (.queue w) s
        else .done ((eff t m.list).writePd h f.pd fun _ => true)
      else
        let ls := if s.olderWaits w then [] else m.list.take (room x)
        .done ((eff t ls).modB fun b => b.setPd f.pd m (Mask.ofPred fun l => ls.contains l))

/-- ENQ and ENQ.nb (R346). -/
def execEnq (nb : Bool) (h : Hdr) (f : FmtY) (s : State) : Host.Outcome State Fault Refusal :=
  issue (.enq nb h f) s fun t =>
    queueOp nb true h f f.imm.toNat (fun x => x.cap - x.count)
      (fun t ls => t.enqLanes f.imm.toNat f.vd.toNat ls) s t

/-- DEQ and DEQ.nb (R346): the window closes before the elements are written, so that a transient one stands in
it (R92, R93). -/
def execDeq (nb : Bool) (h : Hdr) (f : FmtY) (s : State) : Host.Outcome State Fault Refusal :=
  issue (.deq nb h f) s fun t =>
    match queueOp nb false h f (16 + f.imm.toNat) (fun x => x.count)
        (fun t ls => t.deqLanes h.tr f.imm.toNat f.vd.toNat ls) s (t.modB fun b => b.closeLanes s.b.path) with
    | .done u => .go u.flagOut
    | r => r

/-- QSTAT (R347). -/
def execQstat (h : Hdr) (f : FmtY) (s : State) : Host.Outcome State Fault Refusal :=
  issue (.qstat h f) s fun t =>
    let x := s.hqueue f.imm.toNat
    let v := if f.sub == 0 then (if x.bound then x.count + 2 ^ 32 * x.cap else 0)
      else match s.launchOf s.b with
        | some l => if l.desc.task then l.entryq.length else 0
        | none => 0
    .done (t.writeSd f (BitVec.ofNat 64 v))

/-- QCREATE refuses a binding (R345). -/
def State.bindRefused (s : State) (q first n : Nat) : Bool :=
  match s.copseOf s.b with
  | none => true
  | some c =>
    let k := s.core s.b.core
    let banks := (List.range n).map fun i => c.fif + first + i
    first + n > c.fifn || (c.queue q).bound ||
      banks.any (fun bank => k.role bank != .fif || k.owner bank != some s.b.own) ||
      c.queues.any fun e => e.2.bound && e.2.first < first + n && first < e.2.first + e.2.banks

/-- QCREATE (R345). -/
def execQcreate (h : Hdr) (f : FmtY) (s : State) : Host.Outcome State Fault Refusal :=
  issue (.qcreate h f) s fun t =>
    let q := f.imm.toNat % 16
    let first := f.imm.toNat / 2 ^ 4 % 16
    let n := f.imm.toNat / 2 ^ 8 % 32
    if s.bindRefused q first n then
      if f.pd = none then queueTrap q else .done (t.writePd h f.pd fun _ => false)
    else
      .done ((t.setHqueue q
        { bound := true, first, banks := n, size := f.imm.toNat / 2 ^ 13 % 4, head := 0, count := 0 }).writePd
        h f.pd fun _ => true)

/-- QCREATE.free (R345). -/
def execQcreateFree (h : Hdr) (f : FmtY) (s : State) : Host.Outcome State Fault Refusal :=
  issue (.qcreateFree h f) s fun t =>
    let q := f.imm.toNat % 16
    let x := s.hqueue q
    if !x.bound || s.queueWaits q then
      if f.pd = none then queueTrap q else .done (t.writePd h f.pd fun _ => false)
    else .done ((t.setHqueue q { x with bound := false }).writePd h f.pd fun _ => true)

/-! ## Sibling groups (R351-R354) -/

/-- A handle is the low half of a scalar register (R351). -/
def State.handle (s : State) (f : FmtY) : Nat := (s.ss f.s1).toNat % 2 ^ 32

/-- A member join is refused, apart from what the sequence entry says (R351). -/
def State.joinRefused (s : State) (handle m k : Nat) : Bool :=
  handle = 0 || k < 1 || k > 64 || s.b.sib.isSome ||
    match s.group s.b.part handle with
    | none => false
    | some g => g.has gMembers m || g.decided || (g.k ≠ 0 && g.k ≠ k)

/-- The group that a join finds, or a new one (R351). -/
def State.groupFor (s : State) (handle k : Nat) : Group × State :=
  match s.group s.b.part handle with
  | some g => (g, s)
  | none => s.newGroup s.b.part handle k

/-- A member joins (R351): its ballot slot is none yet. -/
def State.joinMember (t : State) (handle m k seqVa : Nat) : Nat × State :=
  let (g, t) := t.groupFor handle k
  let g := if g.k = 0 then g.setBits gStatus 0 7 k else g
  let g := (g.setBits gMembers m 1 1).setWord (gMember m) (0xFF * 2 ^ 32)
  let g := { g with joined := g.joined ++ [(m, t.b.uid)] }
  (g.gen.toNat, (t.setGroup g).modB fun b =>
    { b with sib := some { handle, member := some m, gen := g.gen, since := t.time, cancelled := false, seqVa } })

/-- An observer joins (R351). -/
def State.joinObserver (t : State) (handle : Nat) : Nat × State :=
  let (g, t) := t.groupFor handle 0
  let obs := g.obs ++ [t.b.uid]
  let g := { g.setBits gStatus 40 8 obs.length with obs }
  (g.gen.toNat, (t.setGroup g).modB fun b =>
    { b with sib := some { handle, member := none, gen := g.gen, since := t.time, cancelled := false, seqVa := 0 } })

/-- What SIBJOIN writes: the generation and true; a refusal writes false or traps (R351, R359). -/
def joinOut (h : Hdr) (f : FmtY) (who : Nat) (t : State) (r : Option (Nat × State)) : Res :=
  match r with
  | some (gen, u) => .done ((u.writeSd f (BitVec.ofNat 64 gen)).writePd h f.pd fun _ => true)
  | none =>
    if f.pd = none then .trap cRegister (0x300 + who) 0 else .done (t.writePd h f.pd fun _ => false)

/-- SIBJOIN (R351). -/
def execSibjoin (h : Hdr) (f : FmtY) (s : State) : Host.Outcome State Fault Refusal :=
  issue (.sibjoin h f) s fun t =>
    let handle := s.handle f
    let m := f.imm.toNat % 64
    if f.imm.getLsbD 6 then
      joinOut h f 0xFF t (if handle = 0 || s.b.sib.isSome then none else some (t.joinObserver handle))
    else
      let k := (s.ss f.s2).toNat
      let va := (s.ss f.s3).toNat
      if va = 0 then
        joinOut h f m t (if s.joinRefused handle m k then none else some (t.joinMember handle m k 0))
      else
        match s.seqRead s.b.core s.b.part va with
        | .error e => parkAll s t e.1 e.2 0
        | .ok e =>
          joinOut h f m t
            (if s.joinRefused handle m k || e.grp ≠ handle || e.member ≠ m then none
             else some (t.joinMember handle m k va))

/-- SIBLEAVE (R351, R354): a marked member leaves as a cancelled one does, and the bough goes on. -/
def execSibleave (h : Hdr) (f : FmtY) (s : State) : Host.Outcome State Fault Refusal :=
  issue (.sibleave h f) s fun t =>
    let out (t : State) (hash : Nat) (v : Bool) : Res :=
      .done ((t.writeSd f (BitVec.ofNat 64 hash)).writePd h f.pd fun _ => v)
    if !s.releaseReady s.b false then .hold .fence s
    else if !s.b.sib.any fun x => x.handle == s.handle f then out t 0 false
    else
      match t.leaveGroup s.b (some s.time) with
      | (some g, t) => out t (g.word gHash) g.decided
      | (none, t) => out t 0 false

/-- BALLOT (R353): a ballot counts for the member that the bough is in the group of the handle. -/
def execBallot (h : Hdr) (f : FmtY) (s : State) : Host.Outcome State Fault Refusal :=
  issue (.ballot h f) s fun t =>
    if !s.releaseReady s.b false then .hold .fence s
    else
      let m := (s.b.sib.filter fun x => x.handle == s.handle f).bind fun x => x.member
      .done (t.ballotStep s.b.part (s.handle f) m (s.ss f.s2).toNat)

/-- CANCHK (R354): the plain form is a cancellation point and no more. -/
def execCanchk (h : Hdr) (f : FmtY) (s : State) : Host.Outcome State Fault Refusal :=
  issue (.canchk h f) s fun t =>
    if f.sub == 1 then .done (t.writeSd f (if s.b.sib.any fun x => x.cancelled then 1 else 0)) else .done t

/-- SIBINFO (R352). -/
def execSibinfo (h : Hdr) (f : FmtY) (s : State) : Host.Outcome State Fault Refusal :=
  issue (.sibinfo h f) s fun t =>
    .done (t.writeSd f (BitVec.ofNat 64
      (((s.group s.b.part (s.handle f)).map fun g => g.word f.imm.toNat).getD 0)))

/-- CANCELLATION_DELIVERY (R354): the bough is marked, unless it has left; one that waits at a BAR stops
at once. -/
def execCancellationDelivery (k : Nat) (s : State) : Host.Outcome State Fault Refusal :=
  match s.cancels.find? fun c => c.id == k with
  | none => .next s
  | some c =>
    let s := { s with cancels := s.cancels.filter fun x => x.id != k }
    let s := s.modBough c.uid fun b =>
      { b with sib := b.sib.map fun x =>
          if x.handle = c.handle && x.gen = c.gen && x.member.isSome then { x with cancelled := true } else x }
    match s.bough c.uid with
    | none => .next s
    | some b =>
      let atBar : Bool := match b.wait with
        | .barrier _ => b.status == .running && b.sib.any (fun x => x.cancelled) &&
            (s.copseOf b).all fun x => x.at_ == .resident
        | _ => false
      if atBar then .next (s.focus c.uid).cancelStop else .next s

end Sys2Proof.Machine
end

