-- ==== Sys2Proof/Machine/Turn.lean ====
section
/-! DEFINITION. The turn of a bough: the ends of splits (spec/05_control.md R127, R147, R148), the repeat
prefix (spec/04_integer.md R121-R123), and ended boughs (R139). -/

namespace Sys2Proof.Machine

/-! ## The repeat prefix -/

/-- By how much the fields of repetition `done` are advanced (R122). -/
def Rep.offset (r : Rep) : Int := r.stride.toInt * r.done

/-- Field `k` of a repetition, which REP may advance (R122), in eight bits. -/
def Rep.field (r : Rep) (k : Nat) (x : BitVec 8) : BitVec 8 :=
  if r.fields.getLsbD k then BitVec.ofInt 8 ((x.toNat : Int) + r.offset) else x

/-- The fields that REP may advance, in their order (R121). -/
def repRegs : Payload → List (BitVec 8)
  | .a f => [f.dst, f.sa, f.sb, f.sc]
  | .i f => [f.dst, f.sa]
  | .m f => [f.dv, f.av]
  | _ => []

/-- The payload of repetition `done` (R122). -/
def advPayload (r : Rep) : Payload → Payload
  | .a f => .a { f with dst := r.field 0 f.dst, sa := r.field 1 f.sa, sb := r.field 2 f.sb, sc := r.field 3 f.sc }
  | .i f => .i { f with dst := r.field 0 f.dst, sa := r.field 1 f.sa }
  | .m f => .m { f with dv := r.field 0 f.dv, av := r.field 1 f.av }
  | p => p

/-- Repetition `done` of an instruction. -/
def advInstr (r : Rep) (i : Instr) : Option Instr :=
  match i.view with
  | none => none
  | some (h, p) => mkInstr (opcode i) h (advPayload r p)

/-- The register of the first field that a repetition has taken outside v0 to v255 (R122). -/
def advOut (r : Rep) (i : Instr) : Option Nat :=
  let regs := (i.view.map fun x => repRegs x.2).getD []
  (regs.zipIdx.find? fun x =>
    r.fields.getLsbD x.2 && ((x.1.toNat : Int) + r.offset < 0 || (x.1.toNat : Int) + r.offset > 255)).map fun x =>
      (((x.1.toNat : Int) + r.offset) % 256).toNat

/-! ## Ended boughs -/

/-- Nothing that a bough issued is still in flight, engine operations included (R139). -/
def State.quiet (s : State) (uid : Nat) : Bool :=
  s.writesDone uid && s.loadsDone uid && !s.loads.any (fun x => x.uid == uid) && !s.infl.any (fun x => x.uid == uid) &&
    !s.cores.any fun e => e.2.ops.any (fun o => o.uid == uid) || e.2.mq.any fun o => o.uid == uid

/-- A copse whose boughs have all been released gives up its place (R14, R22). -/
def State.reapCopse (s : State) (b : Bough) : State :=
  if !(s.boughsOf b.part b.launch b.cid).isEmpty then s
  else
    match s.copse b.part b.launch b.cid with
    | some c =>
      if c.at_ = .resident then
        let s := ((s.freeCopse c).modCopse b.part b.launch b.cid fun c => { c with at_ := .ended }).modLaunch
          b.part b.launch fun l => { l with cdone := l.cdone + 1 }
        match s.launch b.part b.launch with
        | some l => s.childDone l b.cid
        | none => s
      else s
    | none => s

/-- Releases an ended bough: its slot, its granules and its copse's place (R14, R139). -/
def State.reapOne (s : State) (b : Bough) : State := ((s.dropBough b.uid).freeRegBanks b.core).reapCopse b

/-- Releases every bough that has exited and is quiet. -/
def State.reap (s : State) : State :=
  (s.allBoughs.filter fun b => b.gone && s.quiet b.uid).foldl (fun s b => s.reapOne b) s

/-! ## The turn of a bough -/

/-- The bough may issue: Sirxo has released the cores (R391, R393), it is running, its copse and its partition are
not halted (R23, R28, R367), and no machine check of it waits for a slot of the fault queue (R358). -/
def State.mayIssue (s : State) : Bool :=
  s.sirxo.booted && !s.sirxo.shutdown && s.b.status == .running && !(s.part s.b.part).halted &&
  (!(s.part s.b.part).dooms.any fun d => d.uid == s.b.uid) && (s.copseOf s.b).all fun c => c.at_ == .resident

/-- The wait ends only by a reply or by the passing of time (R139, R360, R365). -/
def Wait.parked : Wait → Bool
  | .reply _ | .yield _ => true
  | .sleep t => t != 0
  | _ => false

/-- The PC is the end of the bough's region: the instruction there does not issue (R147, R148). -/
def State.atEnd (s : State) : Bool := (s.regionOf s.b).any fun r => r.stop == s.b.pc

/-- A fault join at a repetition that the running split, which repeats the same instruction, has not come to
yet (R123). -/
def Bough.beforeRep (b : Bough) (e : StackEnt) : Bool :=
  match b.rep, e.rep with
  | some r, some x => e.kind == .fault && r.done < x.done
  | _, _ => false

/-- The running split has reached the topmost join, other than a region frame (R127). -/
def State.atJoin (s : State) : Bool :=
  s.b.topJoin.any fun e => e.addr == s.b.pc && !s.b.beforeRep e && !(e.kind == .refill && s.atEnd)

/-- What a turn does: a state in itself, or the instruction or step that runs. -/
inductive Plan where
  | next (t : State)
  | run (i : Instr) (t : State)
  deriving Repr

/-- The instruction at the PC under a repeat prefix (R121, R122): what makes a repetition an illegal instruction is
decided before a register that it has taken too far (R63). -/
def State.repPlan (s : State) (r : Rep) (i : Instr) : Plan :=
  if !repOk r i then .next (s.takeTrap cIllegal 0 0)
  else if r.left = 0 then
    match gate i s with
    | .trap cause detail => .next (s.takeTrap cause detail 0)
    | _ => .next (s.modB fun b => { b with rep := none, pc := nextAddr b.pc false })
  else
    match (advInstr r i).filter fun j => j.legal with
    | none => .next (s.takeTrap cIllegal 0 0)
    | some j =>
      match advOut r i with
      | some n => .next (s.takeTrap cRegister n 0)
      | none => .run j s

/-- A word that does not decode: a cancelled bough stops there first where the word's opcode is a cancellation
point, once the fault entries before it are settled as at any rejoin point (R63, R131, R354). -/
def State.undecoded (s : State) : State :=
  if (s.b.sib.any fun x => x.cancelled) && cancelOp s.b.wordAt then
    if s.b.nf > 0 && s.b.wordAt / 2 ^ 87 != 0x193 then s.endSplit s.b.pc else s.cancelStop
  else s.takeTrap cIllegal 0 0

/-- The turn of the focus bough (R26, R40, R127, R147). -/
def State.boughPlan (s : State) : Plan :=
  if !s.mayIssue || s.b.wait.parked then .next s
  else if let .trap c := s.b.wait then .next (s.takeTrap c 0 s.b.pc)
  else if s.b.emr = 0 then .next s.settle
  else if s.atJoin then .next (s.endSplit s.b.pc)
  else if s.atEnd then .run .retireAtEnd s
  else if !s.b.inLine then .run .lineEntry s
  else
    match s.b.instrAt with
    | none => .next s.undecoded
    | some i =>
      match s.b.rep with
      | some r =>
        if (s.b.sib.any fun x => x.cancelled) && isCancelPoint i then .run i s else s.repPlan r i
      | none => .run i s

end Sys2Proof.Machine
end

