-- ==== Sys2Proof/Machine/Canopy.lean ====
section
/-! DEFINITION. The Canopy: placement, admission and release of copses (spec/01_machine.md R14, R15, R22-R25,
R28, R29), the start of a bough (spec/12_tasks.md R330, R334), eviction, saving and restoring
(spec/13_system.md R366-R368), aggregation windows (R350) and the end of a launch (R228, R377). -/

namespace Sys2Proof.Machine

/-! ## Slots -/

/-- The next bough slot (R25): the lowest free position of the quadrant with the fewest boughs. -/
def nextSlot (used : List Nat) : Nat :=
  let count (q : Nat) : Nat := (used.filter fun x => x / 12 == q).length
  let q := (List.range 4).foldl (fun b q => if count q < count b then q else b) 0
  let k := ((List.range 12).find? fun k => !used.contains (12 * q + k)).getD 0
  12 * q + k

/-- Slots for `n` boughs, in bough order. -/
def slotsFor : Nat → List Nat → List Nat
  | 0, _ => []
  | n + 1, used => nextSlot used :: slotsFor n (nextSlot used :: used)

/-- The slots that a core has in use. -/
def State.usedSlots (s : State) (core : Nat) : List Nat := (s.coreBoughs core).map fun b => b.slot

/-! ## The start of boughs (R330) -/

/-- The scalar registers in which bough `idx` of a copse starts. -/
def Launch.startRegs (l : Launch) (cid idx : Nat) : Sparse 64 :=
  let v (n : Nat) : W64 := BitVec.ofNat 64 n
  let id := v (l.id % 2 ^ 32)
  if l.desc.task then Sparse.ofList 0 [l.param, 0, 0, 0, 0, id]
  else
    let s2 := v (idx + 32 * (l.desc.copse - 1))
    match l.child cid with
    | some (i, first, c) => Sparse.ofList 0 [c.1, v (cid - first), s2, v c.2.1, v i, id]
    | none => Sparse.ofList 0 [l.param, v cid, s2, v l.ncopses, 0, id]

/-- A bough as it starts (R88, R330). -/
def Launch.startBough (l : Launch) (cid idx uid core slot regbase : Nat) (m : Mask) : Bough :=
  { Bough.blank with
    uid, status := .running, launch := l.id, cid, idx, part := l.part, core, slot, nregs := l.desc.regs, regbase,
    pc := l.desc.entry, emr := m, live := m, fmt := l.desc.fmt0, sregs := l.startRegs cid idx }

/-- Before the first copse of a launch starts on a core, its L1 and its read-only-path cache are
invalidated (R200, R228). -/
def State.cleanCore (s : State) (l : Launch) (core : Nat) : State :=
  if l.onCores.contains core then s
  else
    (s.modCore core fun k => { k with l1 := [], roc := [] }).modLaunch l.part l.id fun l =>
      { l with onCores := l.onCores ++ [core] }

/-- A core is given to a partition: coming from another, its tiles and side areas read zero (R286). -/
def Core.passTo (k : Core) (part : Nat) : Core :=
  if k.tenant = some part then k else { k with tenant := some part, tiles := [] }

/-- Banks of a core take the roles of a copse's place (R14). -/
def Core.claim (k : Core) (own : Nat × Nat) (regBanks scr fif : List Nat) : Core :=
  let set (r : Role) (o : Option (Nat × Nat)) (k : Core) (b : Nat) : Core :=
    { k.setRole b r o with store := Sparse.drop k.store (0x4000 * b) 0x4000 }
  let k := (regBanks.filter fun b => k.role b == .cac).foldl (fun k b => k.setRole b .reg none) k
  let k := scr.foldl (set .scr (some own)) k
  (fif.foldl (set .fif (some own)) k).trim

/-- A copse starts at a place, its boughs with a mask of lanes (R22, R23). -/
def State.seat (s : State) (l : Launch) (cid : Nat) (p : Place) (m : Mask) : State :=
  let d := l.desc
  let s := s.cleanCore l p.core
  let slots := slotsFor d.copse (s.usedSlots p.core)
  let banks := p.regBases.flatMap fun b => banksOf b (128 * d.regs)
  let s := s.modCore p.core fun k =>
    (k.passTo l.part).claim (lkey l.part l.id, cid) banks (bankRun p.scr d.scrb) (bankRun p.fif d.fifb)
  let c : Copse :=
    { launch := l.id, cid, part := l.part, core := p.core, at_ := .resident, adm := s.time, scr := p.scr, scrn := d.scrb,
      fif := p.fif, fifn := d.fifb, bars := [], queues := [], written := 0, insts := [], ctxbase := 0,
      reason := 0, event := 0, tsave := 0, bankImage := [], bankBytes := [], slotImage := [], tileImage := [],
      ops := [], mq := [] }
  let bs := ((slots.zip p.regBases).zipIdx).map fun x =>
    l.startBough cid x.2 (s.nuid + x.2) p.core x.1.1 x.1.2 m
  let s := { s with copses := s.copses ++ [c], boughs := s.boughs ++ bs, nuid := s.nuid + d.copse }
  s.modLaunch l.part l.id fun l => { l with started := l.started ++ [cid] }

/-! ## Admission (R24) -/

/-- The banks that a copse brings back beyond its runs: by BANKROLE (R190). -/
def Copse.extraBanks (c : Copse) : List (Nat × BitVec 2) :=
  c.bankImage.filter fun e =>
    !(c.scr ≤ e.1 && e.1 < c.scr + c.scrn) && !(c.fif ≤ e.1 && e.1 < c.fif + c.fifn)

/-- The operand slots and tiles of a copse are free on a core (R285). -/
def State.matrixFree (s : State) (c : Copse) (core : Nat) : Bool :=
  c.slotImage.all (fun e => !(s.core core).slotOwn.any fun x => x.1 == e.1) &&
  !s.copses.any fun x => x.at_ == .resident && x.core == core && x.written &&& c.written != 0

/-- The boughs that a saved copse brings back, in bough order: those that have not exited (R139, R370). -/
def State.returning (s : State) (c : Copse) : List Nat :=
  (List.range 32).filter fun i => (s.boughsOf c.part c.launch c.cid).any fun b => b.idx == i && !b.gone

/-- What a saved copse needs of a core: its kernel's descriptor, for as many boughs as come back (R23, R139). -/
def State.returnDesc (s : State) (l : Launch) (c : Copse) : Desc := { l.desc with copse := (s.returning c).length }

/-- A place for a saved copse, where there is one (R285). -/
def State.restorePlace (s : State) (l : Launch) (c : Copse) : Option Place :=
  s.candidates.findSome? fun k =>
    if s.matrixFree c k then s.findPlace k l.part (s.returnDesc l c) c.extraBanks.length else none

/-- A saved copse that waits to be restored and that some core can take. -/
def State.restorable (s : State) (c : Copse) : Bool :=
  match c.at_, s.launch c.part c.launch with
  | .saved _, some l => c.event != 0 && (s.restorePlace l c).isSome
  | _, _ => false

/-- Restored copses go first (R24). -/
def State.restoresFirst (s : State) (part : Nat) : Bool := s.copses.any fun c => c.part == part && s.restorable c

/-- A launch has a copse that waits, or tasks that a task bough can take. -/
def Launch.waiting (l : Launch) : Bool :=
  !l.killed && (if l.desc.task then !l.entryq.isEmpty else l.started.length < l.ncopses)

/-- Copses of a COSCHED launch start at places, from `cid` on. -/
def State.seatAll (s : State) (part id : Nat) : List Place → Nat → State
  | [], _ => s
  | p :: ps, cid =>
    match s.launch part id with
    | some l => State.seatAll (s.seat l cid p 0xFFFFFFFF#32) part id ps (cid + 1)
    | none => s

/-- A launch accepted earlier has a copse that can be admitted, or has still to be performed (R24, R385). -/
def State.earlierFirst (s : State) (l : Launch) : Bool :=
  ((s.part l.part).cmds.any fun c => c.op == 1 && c.order < l.order) ||
  (s.launches.takeWhile fun x => !(x.part == l.part && x.id == l.id)).any fun x =>
    x.part == l.part && x.waiting && (s.nextPlace x).isSome

/-- The next copse of a launch may be admitted at a place, unless Sirxo holds the cores in reset (R393). -/
def State.mayAdmit (s : State) (l : Launch) (p : Place) : Bool :=
  l.waiting && !s.sirxo.shutdown && !(s.part l.part).noAdmit && s.placeOk l.part l.desc 0 p && !s.restoresFirst l.part && !s.earlierFirst l

/-- COPSE_ADMISSION (R23, R24): the copses of a COSCHED launch are admitted together, the first at the
given place. The launch is named over all partitions. -/
def execCopseAdmission (launch copse : Nat) (p : Place) (s : State) : Host.Outcome State Fault Refusal :=
  match s.launch (launch / 2 ^ 32) (launch % 2 ^ 32) with
  | none => .next s
  | some l =>
    if l.desc.task || l.started.length ≠ copse || !s.mayAdmit l p then .next s
    else
      let t := s.seat l copse p 0xFFFFFFFF#32
      if !l.desc.cosched then .next t
      else
        match t.placesFor l (l.ncopses - 1) with
        | some ps => .next (t.seatAll l.part l.id ps 1)
        | none => .next s

/-! ## Task boughs (R334) -/

/-- The tasks start in lanes 0 upwards of the focus bough: those that resume continue where they stopped. -/
def State.startLanes (s : State) (tasks : List W64) : State :=
  let (s, back) := (tasks.zipIdx).foldl (fun (acc : State × List (Nat × W64 × W32)) x =>
    let (at_, s) := acc.1.startTask x.2 x.1.toNat
    (s, acc.2 ++ (at_.map fun p => (x.2, p.1, p.2)).toList)) (s, [])
  let resumed := Mask.ofPred fun l => back.any fun r => r.1 == l
  let s := s.modB fun b =>
    { b with emr := b.emr &&& ~~~resumed,
             stack := back.map fun r => { b.entry (1#32 <<< r.1) .branch false r.2.1 with fmt := r.2.2 } }
  if s.b.emr = 0 then s.settle else s

/-- TASK_START (R334): a task bough is formed from up to 32 tasks at the head of the queue. -/
def execTaskStart (launch : Nat) (p : Place) (s : State) : Host.Outcome State Fault Refusal :=
  match s.launch (launch / 2 ^ 32) (launch % 2 ^ 32) with
  | none => .next s
  | some l =>
    if !l.desc.task || !s.mayAdmit l p then .next s
    else
      let tasks := l.entryq.take 32
      let uid := s.nuid
      let t := s.seat l l.started.length p (Mask.ofPred fun k => k < tasks.length)
      let t := t.modLaunch l.part l.id fun l => { l with entryq := l.entryq.drop 32 }
      .next ((t.focus uid).startLanes tasks)

/-! ## Eviction and saving (R28, R366-R368) -/

/-- A flag-tracked matrix instruction of a bough has not begun (R41). -/
def State.matTracked (s : State) (uid : Nat) : Bool :=
  s.cores.any fun e => e.2.mq.any fun m => m.uid == uid && m.tok != 0

/-- One has not begun that no engine operation, which pre-emption stops, holds (R41, R367, log 65). -/
def State.matFree (s : State) (uid : Nat) : Bool :=
  s.cores.any fun e => e.2.mq.any fun m => m.uid == uid && m.tok != 0 && !e.2.engineHeld.contains m

/-- Nothing but engine operations and matrix instructions that a bough issued is still in flight, save an atomic or
an acknowledgement that holds neither a register nor a flag (R41, R270, R367). -/
def State.drained (s : State) (uid : Nat) : Bool :=
  !s.loads.any (fun x => x.uid == uid) && !s.stores.any (fun x => x.uid == uid) &&
    !s.acks.any (fun x => x.uid == uid && x.tok != 0) &&
    !s.atoms.any (fun x => x.uid == uid && (x.ret || x.tok != 0)) && !s.infl.any fun x => x.uid == uid

/-- A save may take a bough: every flag-tracked instruction of it but the engine operations has completed (R41). -/
def State.stopped (s : State) (uid : Nat) : Bool := !s.matTracked uid && s.drained uid

/-- The engine operations of a copse, on the core where it is and on those that it has left (R216). -/
def State.copseOps (s : State) (c : Copse) : List EngOp :=
  s.cores.flatMap fun e => e.2.ops.filter fun o => o.part == c.part && o.launch == c.launch && o.cid == c.cid

/-- An operation that eviction waits for (R216): an OPFILL, or one with a LOCAL region. -/
def EngOp.staysLocal (o : EngOp) : Bool :=
  !o.haveRec || (o.rec_.any fun r => r.localSp) ||
    match o.instr with
    | .opfill _ _ _ => true
    | _ => false

/-- The turn of the focus bough has only found it waiting: it stands where it stood, with nothing issued. -/
def State.held (s u : State) : Bool :=
  u.b.uid == s.b.uid && u.b.status == .running && u.b.ready == s.b.ready && u.b.wait != .none &&
    u.b.emr == s.b.emr && u.b.pc == s.b.pc

/-- What the waiting instruction of the focus bough does now, of those whose waits R366 names. -/
def State.retry (s : State) : Instr → Option (Host.Outcome State Fault Refusal)
  | .bar h f => some (execBar h f s)
  | .barArrive h f => some (execBarArrive h f s)
  | .barWait h f => some (execBarWait h f s)
  | .gbar h f => some (execGbar h f s)
  | .detphase h f => some (execDetphase h f s)
  | .tspawn nb h f => some (execTspawn nb h f s)
  | .twait nb h f => some (execTwait nb h f s)
  | .enq nb h f => some (execEnq nb h f s)
  | .deq nb h f => some (execDeq nb h f s)
  | .rfenter h f => some (execRfenter h f s)
  | .opclaim h f => some (execOpclaim h f s)
  | .launch h f => some (execLaunch h f s)
  | .launchAgg h f => some (execLaunchAgg h f s)
  | _ => none

/-- A bough on a core waits, and nothing that it waits on has come yet: its next turn would find it waiting (R28,
R29, R366). -/
def State.waits (s : State) (b : Bough) : Bool :=
  let t := (s.focus b.uid).modB fun b => { b with ready := 1 }
  b.wait.code != 0 &&
  match b.wait with
  | .sleep e => s.time < e
  | .reply _ => true
  | .fault => if b.emr = 0 then t.held t.settle else s.ringBusy b.part || (s.part b.part).dooms.any fun d => d.uid == b.uid
  | _ =>
    if b.emr = 0 then t.held t.settle
    else
      match (b.instrAt.bind t.retry) with
      | some (.next u) => t.held u
      | _ => false

/-- A copse may be evicted (R28, R366): every bough waits, and a counted wait is longer than LWT. -/
def State.mayEvict (s : State) (c : Copse) : Bool :=
  let bs := s.boughsOf c.part c.launch c.cid
  let lwt := (s.part c.part).lwt.toNat
  c.at_ == .resident && !bs.isEmpty && bs.all (fun b => b.gone || (b.status == .running && s.waits b)) &&
  bs.any (fun b => b.wait.counted && s.time - b.waitSince > lwt) && bs.all (fun b => s.stopped b.uid) &&
  !(s.copseOps c).any EngOp.staysLocal &&
  !(s.core c.core).mq.any fun m => bs.any fun b => b.uid == m.uid

/-- LWT_EXPIRY (R28, R366): the copse is evicted, or the eviction waits for a free area (R382). -/
def execLwtExpiry (launch copse : Nat) (s : State) : Host.Outcome State Fault Refusal :=
  match s.copse (launch / 2 ^ 32) (launch % 2 ^ 32) copse with
  | none => .next s
  | some c =>
    match (s.part c.part).freeArea with
    | some a => if s.mayEvict c then .next (s.saveCopse c a 1 []) else .next s
    | none => .next s

/-- The token of an operation that pre-emption stops (R216): status 0xFE and its progress. -/
def State.stopToken (s : State) (o : EngOp) : State :=
  s.modBough o.uid fun b => b.setSreg o.tk (BitVec.ofNat 64 (2 ^ 32 * 0xFE + o.progress % 2 ^ 32))

/-- A copse is on a core, or an evicted one has left engine operations there (R216). -/
def State.onCore (s : State) (c : Copse) : Bool :=
  match c.at_ with
  | .resident => true
  | .saved _ => !(s.copseOps c).isEmpty
  | _ => false

/-- A copse whose partition is halted has halted itself: what it issued has completed, and its engine operations
have stopped at their boundaries (R216, R367). -/
def State.copseHalted (s : State) (c : Copse) : Bool :=
  (c.at_ != .resident || (s.boughsOf c.part c.launch c.cid).all
      (fun b => (b.status == .running || b.status == .ended) && !s.matFree b.uid && s.drained b.uid)) &&
    (s.copseOps c).all fun o => o.status == 0xFF && o.atBoundary

/-- The halt of a partition is complete (R367). -/
def State.haltDone (s : State) (part : Nat) : Bool :=
  s.copses.all fun c => c.part != part || !s.onCore c || s.copseHalted c

/-- The engine operations that an evicted copse left running, stopped by pre-emption, join its saved context, and
RESTORE brings it back with them (R216). -/
def State.saveOps (s : State) (c : Copse) (area : Nat) (ops : List EngOp) : State :=
  let c' := { c with ops := c.ops ++ ops, reason := 2 }
  ((s.dropOps ops).modCopse c.part c.launch c.cid fun _ => c').putContext ((s.part c.part).area area) c'

/-- Saves one halted copse, once an area is free (R216, R367, R382). -/
def State.preemptOne (s : State) (c : Copse) : State :=
  let ops := s.copseOps c
  let t := ops.foldl (fun s o => s.stopToken o) s
  if !s.onCore c || !s.copseHalted c then s
  else
    match c.at_, (s.part c.part).freeArea with
    | .saved a, _ => t.saveOps c a ops
    | _, some a => t.saveCopse c a 2 ops
    | _, none => s

/-! ## Restoring (R29, R285) -/

/-- The event that a saved bough waits on has arrived (R28, R29). The other boughs of its copse are out with it,
so that nothing moves its queues; a copse with a bough whose element or room has come is not evicted. -/
def State.awaited (s : State) (b : Bough) : Bool :=
  match b.wait with
  | .barrier id =>
    let x := ((s.copseOf b).map fun c => c.bar id).getD { gen := 0, target := 0, arr := [] }
    let last := (Sparse.get b.lastArr id).toNat
    (b.sib.any fun g => g.cancelled) ||
      (if b.arrived then x.gen > b.arrGen else !x.arr.contains b.uid || (last ≠ 0 && x.gen ≥ last))
  | .gbar => ((s.launchOf b).map fun l => decide (l.ggen > b.arrGen)).getD true
  | .future => s.watches.any fun w => w.uid == b.uid && w.ready
  | .tasks entries => entries.any fun e => (s.taskLaunch b.part e).all fun l => l.entryq.length < entryqMax
  | .queue _ => false
  | .inst g => !s.instOpen b g
  | .cursor => b.recorded != [] || (s.focus b.uid).settle.b.wait != .cursor
  | .fault => b.recorded != [] || b.stack.any (fun e => e.svc) || b.refill.any fun f => f.fpReady != 0
  | .opclaim => (s.core b.core).slotOwn.length < 16
  | .launch => s.unstarted b.part < childrenMax
  | .sleep t => s.time ≥ t
  | .reply _ => b.recorded != []
  | _ => true

/-- Saved copses whose event has arrived are queued for restoring, in that order (R24, R29); those whose events
arrive in one turn in the order in which their copses were first admitted, since the manual orders events of one
cycle in no way (log 50). -/
def State.queueRestores (s : State) : State :=
  s.copses.foldl (fun s c =>
    let due : Bool := match c.at_ with
      | .saved _ => c.event == 0 && c.reason == 1 && (s.boughsOf c.part c.launch c.cid).any fun b => !b.gone && s.awaited b
      | _ => false
    if due then
      let (id, s) := s.fresh
      s.modCopse c.part c.launch c.cid fun c => { c with event := id }
    else s) s

/-- Where the banks of a copse go: its runs to those of the place, the others to the lowest CAC banks. -/
def Copse.bankMap (c : Copse) (k : Core) (d : Desc) (p : Place) : List (Nat × Nat × BitVec 2) :=
  let regBanks := p.regBases.flatMap fun b => banksOf b (128 * d.regs)
  let runs := bankRun p.scr c.scrn ++ bankRun p.fif c.fifn
  let spare := k.cacBanks.filter fun b => !runs.contains b && !regBanks.contains b
  let extra := (c.extraBanks.zip spare).map fun e => (e.1.1, e.2, e.1.2)
  (c.bankImage.filterMap fun e =>
    if c.scr ≤ e.1 && e.1 < c.scr + c.scrn then some (e.1, p.scr + (e.1 - c.scr), e.2)
    else if c.fif ≤ e.1 && e.1 < c.fif + c.fifn then some (e.1, p.fif + (e.1 - c.fif), e.2)
    else none) ++ extra

/-- A saved copse comes first among those of its partition that can be restored (R24). -/
def State.firstRestore (s : State) (c : Copse) : Bool :=
  !s.copses.any fun x => x.part == c.part && x.event != 0 && x.event < c.event && s.restorable x

/-- A bough comes back to a slot and an allotment; what it waited on it waits on again, but for a reply
or a passing of time (R368). One that had exited has given up both for good (R139). -/
def Bough.restored (b : Bough) (core slot regbase : Nat) : Bough :=
  if b.gone then b
  else
    { b with status := .running, core, slot, regbase,
             wait := match b.wait with
               | .reply q => .reply q
               | .sleep t => .sleep t
               | .yield t => .yield t
               | _ => .none }

/-- A copse's state returns to a core (R285, R370). -/
def Core.receive (k : Core) (c : Copse) (d : Desc) (p : Place) : Core :=
  let own := (lkey c.part c.launch, c.cid)
  let m := c.bankMap k d p
  let banks := p.regBases.flatMap fun b => banksOf b (128 * d.regs)
  let k := (k.passTo c.part).claim own banks ((m.filter fun e => e.2.2 == 1).map fun e => e.2.1)
    ((m.filter fun e => e.2.2 == 3).map fun e => e.2.1)
  let k := m.foldl (fun k e =>
    { k with store := Sparse.paste k.store (0x4000 * e.2.1) (Sparse.slice c.bankBytes (0x4000 * e.1) 0x4000) }) k
  { k with
    slotOwn := k.slotOwn ++ c.slotImage.map fun e => (e.1, own),
    slots := c.slotImage.foldl (fun t e => Sparse.paste (Sparse.drop t (8704 * e.1) 8704) (8704 * e.1) e.2) k.slots,
    tiles := c.tileImage.foldl (fun t e => Sparse.paste (Sparse.drop t (66560 * e.1) 66560) (66560 * e.1) e.2) k.tiles,
    ops := k.ops ++ c.ops, mq := c.mq.foldl (fun l m => insertMat m l) k.mq }

/-- The context that a restore reads holds an uncorrectable error: the machine check of the copse's first
bough, with no virtual address (R356, R359, log 61). -/
def State.contextCheck (s : State) (c : Copse) (pa : Nat) : State :=
  match s.boughsOf c.part c.launch c.cid with
  | [] => s
  | b :: _ =>
    if s.doomed b.part b.launch then s
    else s.dataCheck b.uid (checkOf 0x42 pa) b.pc b.emr 0 b.repdone b.ordinals

/-- Lanes of some boughs that are parked on futures have to repeat their TWAIT steps (R368). -/
def State.rewatch (s : State) (uids : List Nat) : State :=
  let again (w : Watch) : Watch := if w.task == 0 && uids.contains w.uid then { w with again := true } else w
  { s with watches := s.watches.map again }

/-- COPSE_RESTORE (R24, R29, R285): the copse whose event came first returns, at a place. -/
def execCopseRestore (launch copse : Nat) (p : Place) (s : State) : Host.Outcome State Fault Refusal :=
  let part := launch / 2 ^ 32
  match s.launch part (launch % 2 ^ 32), s.copse part (launch % 2 ^ 32) copse with
  | some l, some c =>
    match c.at_ with
    | .saved area =>
      let d := s.returnDesc l c
      let back := s.returning c
      if c.event = 0 || (s.part part).noAdmit || !s.placeOk l.part d c.extraBanks.length p ||
          !s.matrixFree c p.core || !s.firstRestore c then .next s
      else if let some x := s.badAt ((s.part part).area area) 0x530000 then
        .next (s.contextCheck c x)
      else
        let s := s.cleanCore l p.core
        let slots := slotsFor d.copse (s.usedSlots p.core)
        let s := s.modCore p.core fun k => k.receive c d p
        let s := s.modBoughs (fun b => b.part == part && b.launch == l.id && b.cid == copse) fun b =>
          let i := back.idxOf b.idx
          b.restored p.core ((slots[i]?).getD 0) ((p.regBases[i]?).getD 0)
        let s := s.rewatch ((s.boughsOf part l.id copse).map fun b => b.uid)
        let s := s.modPart part fun q => { q with areas := q.areas.filter fun a => a != area }
        .next (s.modCopse part l.id copse fun c =>
          { c with at_ := .resident, adm := s.time, core := p.core, scr := p.scr, fif := p.fif, reason := 0, event := 0,
                   bankImage := [], bankBytes := [], slotImage := [], tileImage := [], ops := [], mq := [] })
    | _ => .next s
  | _, _ => .next s

/-! ## The end of a launch (R228, R249, R349, R377) -/

/-- Everything that a launch has written has been performed and acknowledged, and its tokens written
(R228). -/
def State.launchQuiet (s : State) (l : Launch) : Bool :=
  let own (w : Writer) : Bool := w.part == l.part && w.launch == l.id
  !s.stores.any (fun x => own x.by_) && !s.atoms.any (fun x => own x.by_) &&
  !s.acks.any (fun x => x.launch == lkey l.part l.id) && !s.loads.any (fun x => x.part == l.part && x.launch == l.id) &&
  !s.cores.any (fun e => e.2.ops.any fun o => o.part == l.part && o.launch == l.id) &&
  s.time ≥ l.wlast + 2

/-- Every copse of a launch has ended, or every task of a TASK launch (R334). -/
def Launch.isOver (l : Launch) : Bool :=
  l.killed ||
    (if l.desc.task then l.tasks.isEmpty && l.entryq.isEmpty && l.cdone == l.started.length
     else l.cdone == l.ncopses)

/-- The futures of a launch's children that have not been filled (R349, R350). -/
def State.fillChildren (s : State) (l : Launch) : State :=
  match l.origin with
  | .host _ _ => s
  | .device fut => s.childFuture (lkey l.part l.id) l.part fut l.cdone (bit l.killed)
  | .grid cs =>
    (cs.foldl (fun (acc : State × Nat) (c : W64 × Nat × W64) =>
      let done := acc.1.endedCopses l.part l.id acc.2 c.2.1
      let s := if l.killed then acc.1.childFuture (lkey l.part l.id) l.part c.2.2 done 1 else acc.1
      (s, acc.2 + c.2.1)) (s, 0)).1

/-- The records of a launch that has ended: its progress block, and then its completion record or the
futures of its children (R349, R377, R386). The launch is gone. -/
def State.recordEnd (s : State) (l : Launch) : State :=
  let n := if l.desc.task then l.started.length else l.ncopses
  let l := { l with ckilled := n - l.cdone }
  let s := s.putProgress l
  let s := match l.origin with
    | .host q sub => s.complete l.part q (completion s.time 0x01 l.endst sub l.id l.prog.toNat)
    | _ => s.fillChildren l
  { s with launches := s.launches.filter fun x => !(x.part == l.part && x.id == l.id),
           copses := s.copses.filter fun c => !(c.part == l.part && c.launch == l.id) }

/-- LAUNCH_COMPLETION (R228, R249, R377): a deterministic launch ends its last phase first. -/
def execLaunchCompletion (launch : Nat) (s : State) : Host.Outcome State Fault Refusal :=
  match s.launch (launch / 2 ^ 32) (launch % 2 ^ 32) with
  | none => .next s
  | some l =>
    if !l.isOver || !s.launchQuiet l then .next s
    else if l.desc.det && !l.killed then
      match l.phaseWait with
      | none =>
        let (e, s) := s.applyPhase l.part l.id
        .next (s.modLaunch l.part l.id fun l => { l with phaseWait := some (e + 2) })
      | some e => if s.time < e then .next s else .next (s.recordEnd l.endPhase)
    else .next (s.recordEnd l)

end Sys2Proof.Machine
end

