-- ==== Sys2Proof/Machine/System.lean ====
section
/-! DEFINITION. Class 7 but for fences and determinism: system registers, traps, time, TLB invalidation,
HALT, SLEEP, bough blocks and the return from the handler (spec/13_system.md R362-R365, R376). -/

namespace Sys2Proof.Machine

/-! ## System registers (R363) -/

/-- COREID. -/
def Bough.coreId (b : Bough) : W64 := BitVec.ofNat 64 (joinBits [(11, b.core), (2, b.slot / 12), (6, b.slot), (45, 0)])

/-- The value of a system register. -/
def State.sysReg (s : State) (b : Bough) (code : Nat) : W64 :=
  let p := s.part b.part
  match code with
  | 0x000 => b.coreId
  | 0x001 => BitVec.ofNat 64 b.part
  | 0x002 => BitVec.ofNat 64 b.regbase
  | 0x003 => BitVec.ofNat 64 (s.scrBase b)
  | 0x004 => BitVec.ofNat 64 (s.fifBase b)
  | 0x005 => b.utag
  | 0x010 => p.atomplace
  | 0x011 => p.leaseLen
  | 0x012 => p.lwt
  | 0x013 => p.trapvec
  | 0x014 => p.dbgctl
  | 0x015 => p.ptroot
  | 0x016 => ((s.copseOf b).map fun c => c.ctxbase).getD 0
  | 0x020 => b.epc
  | 0x021 => BitVec.zeroExtend 64 b.emask
  | 0x022 => b.ecause
  | 0x023 => b.eaddr
  | 0x024 => b.esavea
  | 0x025 => b.esaveb
  | _ => 0

/-- Values of LEASE_LEN and LWT that a write may set. -/
def leaseLenOk (v : W64) : Bool := 64 ≤ v.toNat && v.toNat ≤ 8192

def lwtOk (v : W64) : Bool := 1250 ≤ v.toNat && v.toNat ≤ 2 ^ 40 - 1

/-- A value that a register accepts (R258, R363). -/
def sysValueOk (code : Nat) (v : W64) : Bool :=
  match code with
  | 0x010 | 0x014 => v.toNat ≤ 1
  | 0x011 => leaseLenOk v
  | 0x012 => lwtOk v
  | _ => true

/-- A write of a system register. -/
def State.setSysReg (s : State) (code : Nat) (v : W64) : State :=
  match code with
  | 0x005 => s.modB fun b => { b with utag := v }
  | 0x010 => s.modPart s.b.part fun p => { p with atomplace := v }
  | 0x011 => s.modPart s.b.part fun p => { p with leaseLen := v }
  | 0x012 => s.modPart s.b.part fun p => { p with lwt := v }
  | 0x013 => s.modPart s.b.part fun p => { p with trapvec := v }
  | 0x014 => s.modPart s.b.part fun p => { p with dbgctl := v }
  | 0x020 => s.modB fun b => { b with epc := v }
  | 0x021 => s.modB fun b => { b with emask := BitVec.truncate 32 v }
  | 0x024 => s.modB fun b => { b with esavea := v }
  | 0x025 => s.modB fun b => { b with esaveb := v }
  | _ => s

/-- SRGET and SRGET.sys (R363, R365). -/
def execSrget (sys : Bool) (h : Hdr) (f : FmtY) (s : State) : Host.Outcome State Fault Refusal :=
  issue (.srget sys h f) s fun t => .done (t.writeSd f (s.sysReg s.b f.imm.toNat))

/-- SRSET and SRSET.sys (R363, R365). -/
def execSrset (sys : Bool) (h : Hdr) (f : FmtY) (s : State) : Host.Outcome State Fault Refusal :=
  issue (.srset sys h f) s fun t =>
    let v := s.ss f.s1
    if sysValueOk f.imm.toNat v then .done (t.setSysReg f.imm.toNat v) else .trap cIllegal 0 0

/-! ## TRAP, BKPT, HALT (R357, R361, R365) -/

/-- A TRAP or BKPT that reaches the host parks the bough, once its record has a slot (R357, R358). -/
def hostTrap (s t : State) (cls cause code : Nat) : Res :=
  if s.ringBusy s.b.part then .hold .fault s.markTrap else .done (s.parkForHost t cls cause code)

/-- TRAP's entry into the handler (R362). -/
def trapEntry (t : State) (code : Nat) : State :=
  let u := t.enterHandler 3 0x60 code 0 t.b.pc
  if u.targetOk u.b u.b.pc then u else u.recordKill 1 cTarget 0 u.b.pc u.b.pc 1

/-- TRAP (R357, R365). -/
def execTrap (h : Hdr) (f : FmtY) (s : State) : Host.Outcome State Fault Refusal :=
  issue (.trap h f) s fun t =>
    if !s.b.sysmode && (s.part s.b.part).trapvec ≠ 0 then .done (trapEntry t f.imm.toNat)
    else hostTrap s t 3 0x60 f.imm.toNat

/-- BKPT (R365): no effect unless DBGCTL enables it. -/
def execBkpt (h : Hdr) (f : FmtY) (s : State) : Host.Outcome State Fault Refusal :=
  issue (.bkpt h f) s fun t =>
    if (s.part s.b.part).dbgctl.getLsbD 0 then hostTrap s t 4 0x61 f.imm.toNat else .done t

/-- HALT (R365). -/
def execHalt (h : Hdr) (f : FmtY) (s : State) : Host.Outcome State Fault Refusal :=
  issue (.halt h f) s fun t => .done (t.killLaunch s.b.part s.b.launch 3 0 f.imm.toNat)

/-! ## TIMEGET and SLEEP (R365) -/

/-- TIMEGET (R31, R365). -/
def execTimeget (h : Hdr) (f : FmtY) (s : State) : Host.Outcome State Fault Refusal :=
  issue (.timeget h f) s fun t => .done (t.writeSd f (BitVec.ofNat 64 s.time))

/-- The end of a sleep: the one that already runs, or the one that this issue starts. -/
def State.sleepEnd (s : State) (f : FmtY) : Nat :=
  match s.b.wait with
  | .sleep t => t
  | _ => if f.sub = 1 then (s.ss f.s1).toNat else s.time + f.imm.toNat

/-- SLEEP and SLEEP.until (R365). -/
def execSleep (h : Hdr) (f : FmtY) (s : State) : Host.Outcome State Fault Refusal :=
  issue (.sleep h f) s fun t =>
    if s.time ≥ s.sleepEnd f then .done t else .hold (.sleep (s.sleepEnd f)) s

/-- SLEEP_EXPIRY (R365): the bough is ready again; its SLEEP then completes. -/
def execSleepExpiry (bough : Nat) (s : State) : Host.Outcome State Fault Refusal :=
  .next (s.modBough bough fun b =>
    match b.wait with
    | .sleep t => if s.time ≥ t then { b with wait := .sleep 0 } else b
    | _ => b)

/-! ## TLB invalidation (R376) -/

/-- A translation of a partition overlaps a range of `n` bytes; `none` is every address. -/
def rangeMeets (range : Option (Nat × Nat)) (va n : Nat) : Bool :=
  match range with
  | none => true
  | some (lo, m) => va < lo + m && lo < va + n

/-- The entry is removed. -/
def TlbEnt.hit (e : TlbEnt) (part : Nat) (range : Option (Nat × Nat)) : Bool :=
  e.part == part && rangeMeets range e.va (2 ^ pageShift e.size)

/-- Removes translations of a partition from every TLB, and the walks' results that boughs still hold. -/
def State.tlbRemove (s : State) (part : Nat) (range : Option (Nat × Nat)) : State :=
  let s := { s with cores := s.cores.map fun (e : Nat × Core) =>
      (e.1, { e.2 with tlb := e.2.tlb.filter fun x => !x.hit part range }),
                    dtlb := s.dtlb.filter fun x => !x.2.hit part range }
  s.modBoughs (fun b => b.part == part) fun b =>
    { b with walkRes := b.walkRes.filter fun r =>
        let n := 2 ^ pageShift (if r.cause = 0 then r.size else 0)
        !rangeMeets range (2 ^ 16 * r.va / n * n) n }

/-- No walk and no access of a partition is in flight: what R376 waits for (log 25). -/
def State.partQuiet (s : State) (part : Nat) : Bool :=
  !s.walks.any (fun w => w.part == part) && !s.loads.any (fun x => x.part == part) &&
  !s.stores.any (fun x => x.by_.part == part) && !s.atoms.any (fun x => x.by_.part == part) &&
  !s.acks.any fun x => x.launch / 2 ^ 32 == part

/-- The range that TLBINV names. -/
def State.invRange (s : State) (f : FmtY) : Option (Nat × Nat) :=
  if f.sub = 0 then some ((s.ss f.s1).toNat, (s.ss f.s2).toNat) else none

/-- The range is made of 64 KiB pages. -/
def rangeOk (range : Option (Nat × Nat)) : Bool := range.all fun x => x.1 % 2 ^ 16 == 0 && x.2 % 2 ^ 16 == 0

/-- TLBINV (R364, R376). -/
def execTlbinv (h : Hdr) (f : FmtY) (s : State) : Host.Outcome State Fault Refusal :=
  issue (.tlbinv h f) s fun t =>
    if !rangeOk (s.invRange f) then .trap cIllegal 0 0
    else if !s.releaseReady s.b false || !s.partQuiet s.b.part then .hold .fence s
    else .done (t.tlbRemove s.b.part (s.invRange f))

/-! ## Bough blocks and ERET (R365, R372) -/

/-- A 64 KiB half of a block, translated; its peer may be unreachable, and one that is read may hold an uncorrectable
error (R356, R390). -/
def State.blockHalf (s : State) (va : Nat) (write : Bool) : Except (Nat × Nat) Nat :=
  match (s.xlateNow s.b.core s.b.part va write).1 with
  | .ok pa _ _ =>
    if s.unreachable s.b.part pa then .error (peerCause pa, va)
    else
    match if write then none else s.badAt pa 0x10000 with
    | some x => .error (checkOf 0x42 x, va + (x - pa))
    | none => .ok pa
  | .fault c => .error (c, va)
  | .miss => .error (0x01, va)

/-- The two halves of a block. -/
def State.blockHalves (s : State) (va : Nat) (write : Bool) : Except (Nat × Nat) (Nat × Nat) :=
  match s.blockHalf va write, s.blockHalf (va + 0x10000) write with
  | .ok a, .ok b => .ok (a, b)
  | .error e, _ => .error e
  | _, .error e => .error e

/-- The block that CTXSAVE writes is that of the trapped program: PC, EMR and SYSMODE are its own. -/
def Bough.trapped (b : Bough) : Bough := { b with pc := b.epc, emr := b.emask, sysmode := false, wait := .none }

/-- Writes a block at its two halves. -/
def State.putHalves (s : State) (x : Nat × Nat) (img : Image) : State :=
  let lo := img.filter fun w => w.1 < 0x10000
  let hi := (img.filter fun w => w.1 ≥ 0x10000).map fun w => (w.1 - 0x10000, w.2)
  (s.putImage x.1 0x10000 lo).putImage x.2 0x10000 hi

/-- What CTXSAVE writes, at its homes: a line that holds a Heartwood entry, and every line where the launch is
deterministic, takes the block's bytes as a store of the bough (R247, R250). -/
def State.saveBlock (s : State) (va : Nat) (x : Nat × Nat) (img : Image) : State :=
  let t := s.putHalves x img
  let lines := (List.range 1024).map fun k =>
    (va + 128 * k, if k < 512 then x.1 + 128 * k else x.2 + 128 * (k - 512))
  let write (by_ : Writer) (u : State) (e : Nat × Nat) : State :=
    (u.homeWrite by_ e.1 e.2 false (.bytes 128 (t.line (e.2 / 128))) false).2
  if s.isDet s.b.part s.b.launch then
    let (id, u) := s.fresh
    lines.foldl (write (u.writer u.b id)) u
  else (lines.filter fun e => (s.heartOf (e.2 / 128)).isSome).foldl (write (s.writer s.b 0)) t

/-- CTXSAVE (R365). -/
def execCtxsave (h : Hdr) (f : FmtY) (s : State) : Host.Outcome State Fault Refusal :=
  issue (.ctxsave h f) s fun t =>
    let va := (s.ss f.s1).toNat
    if va % 0x20000 ≠ 0 then .trap cIllegal 0 0
    else if !s.stopped s.b.uid then .hold .fence s
    else
      match s.blockHalves va true with
      | .error e => faultRes s t s.b.emr e.1 e.2
      | .ok x => .done (t.saveBlock va x (s.blockImage s.b.trapped))

/-- Reads `n` bytes of a block at an offset, as the home returns them to the bough (R248). -/
def State.rdHalves (s : State) (x : Nat × Nat) (off n : Nat) : Nat :=
  let a := if off < 0x10000 then x.1 + off else x.2 + (off - 0x10000)
  if s.isDet s.b.part s.b.launch then
    (List.range n).foldr (fun i v => s.homeRead s.b.part s.b.launch s.b.cid true (a + i) 1 + 256 * v) 0
  else s.rd a n

/-- Every FMT that a bough holds, its own and those that its entries, parked lanes and frames restore, is one that
FMT may hold (R163). -/
def Bough.fmtsValid (b : Bough) : Bool :=
  fmtValid b.fmt && b.stack.all (fun e => fmtValid e.fmt) && b.frames.all (fun f => fmtValid f.fmt) &&
    b.refill.all fun f => f.parks.all fun p => fmtValid p.fmt

/-- CTXREST (R365). A block with an FMT that is never held (R163) is refused as one of another kind is (log 23). -/
def execCtxrest (h : Hdr) (f : FmtY) (s : State) : Host.Outcome State Fault Refusal :=
  issue (.ctxrest h f) s fun t =>
    let va := (s.ss f.s1).toNat
    if va % 0x20000 ≠ 0 then .trap cIllegal 0 0
    else
      match s.blockHalves va false with
      | .error e => faultRes s t s.b.emr e.1 e.2
      | .ok x =>
        let b := s.loadBlock s.b (s.rdHalves x)
        if s.rdHalves x 136 4 ≠ 0x00010001 || !b.fmtsValid then .trap cIllegal 0 0
        else
          .done (t.modB fun b => { s.loadBlock b (s.rdHalves x) with itok := 0, rtok := 0 }).checkEmpty

/-- ERET (R365). -/
def execEret (h : Hdr) (f : FmtY) (s : State) : Host.Outcome State Fault Refusal :=
  issue (.eret h f) s fun t =>
    if slotAddr s.b.epc then .done t.returnFrom.checkEmpty else .trap cTarget 0 s.b.epc

end Sys2Proof.Machine
end

