-- ==== Sys2Proof/Machine/Host.lean ====
section
/-! DEFINITION. The host command queues (spec/14_platform.md R383-R386), the commands (R384), the replies
(spec/13_system.md R360), pre-emption (R367) and the publication of pages (spec/07_memory.md R199). -/

namespace Sys2Proof.Machine

/-! ## Submission entries (R384, R385) -/

/-- The command of an entry. -/
def entryCmd (q x : Nat) : Cmd where
  q := q
  subseq := bitsAt x 0 32
  op := bitsAt x 32 8
  flags := bitsAt x 40 8
  a1 := BitVec.ofNat 64 (bitsAt x 64 64)
  a2 := BitVec.ofNat 64 (bitsAt x 128 64)
  a3 := BitVec.ofNat 64 (bitsAt x 192 64)
  a4 := BitVec.ofNat 64 (bitsAt x 256 64)
  ext := none
  begun := false
  order := 0

/-- The zero fields of every entry. -/
def entryZeros (x : Nat) : Bool := x / 2 ^ 320 == 0 && bitsAt x 48 16 == 0

/-- The operands of LAUNCH: a plain one, or a TASK one with its task array. -/
def launchOk (c : Cmd) : Bool :=
  let lo := c.a3.toNat % 2 ^ 32
  let hi := c.a3.toNat / 2 ^ 32
  c.a4.toNat % 64 == 0 && ((c.flags == 0 && lo ≥ 1 && hi == 0) || (c.flags == 1 && lo == 0 && 1 ≤ hi && hi ≤ 65536))

/-- A leaf entry that MAP may write: valid, and no pointer to a table (R374, R384); another malformed leaf is
written, and a walk that reads it takes cause 0x06 (R375, R381). -/
def mapEntryOk (e : W64) : Bool := e.getLsbD 0 && pteBits e 52 2 != 3

/-- A page multiple. -/
def pageMultiple (v : W64) : Bool := v.toNat % 2 ^ 16 == 0

/-- The operands of a command are in range, and those that it does not use are 0 (R384, R385). An EXT entry
on its own is refused. -/
def cmdOk (c : Cmd) : Bool :=
  let zero (l : List W64) : Bool := l.all fun v => v == 0
  match c.op with
  | 0x01 => launchOk c
  | 0x02 => c.a1.toNat < 2 ^ 32 && zero [c.a2, c.a3, c.a4] && c.flags == 0
  | 0x03 | 0x04 | 0x08 => zero [c.a1, c.a2, c.a3, c.a4] && c.flags == 0
  | 0x05 => c.a1.toNat < 2 ^ 33 && zero [c.a2, c.a3, c.a4] && c.flags == 0
  | 0x06 => pageMultiple c.a1 && pageMultiple c.a2 && zero [c.a3, c.a4] && c.flags ≤ 1
  | 0x07 => c.a1.toNat < 4096 && 1 ≤ c.a3.toNat && c.a3.toNat ≤ 512 && c.a4 == 0 && c.flags == 0
  | 0x09 => c.a1.toNat % 8 == 0 && isHbm c.a1.toNat && mapEntryOk c.a2 && zero [c.a3, c.a4] && c.flags ≤ 1
  | _ => false

/-- An EXT entry is well formed (R384). -/
def extOk (x : Nat) : Bool :=
  let c := entryCmd 0 x
  entryZeros x && c.op == 0 && c.flags == 0 && c.a2 == 0 && c.a3 == 0 && c.a4 == 0

/-- The entry in the slot of a SUBSEQ. -/
def State.slotEntry (s : State) (x : SQueue) (n : W32) : Nat :=
  s.rd (ringBase x.sqbase + 64 * (n.toNat % 2 ^ x.sqsize.toNat)) 64

/-- The id of a host launch. -/
def hostId (c : Cmd) : Nat := c.q * 2 ^ 28 + c.subseq % 2 ^ 28

/-- LID of a command's record (R386). -/
def Cmd.lid (c : Cmd) : Nat := if c.op = 1 then hostId c else if c.op = 2 then c.a1.toNat % 2 ^ 32 else 0

/-- PROG of a command's record (R386). -/
def Cmd.prog (c : Cmd) : Nat := if c.op = 1 then c.a4.toNat else 0

/-- The record of a command is due, now (R386). -/
def State.recordCmd (s : State) (part : Nat) (c : Cmd) (status : Nat) : State :=
  s.complete part c.q (completion s.time c.op status c.subseq c.lid c.prog)

/-- ERRSTAT[1]: an entry was refused (R382). -/
def State.entryError (s : State) (part : Nat) : State :=
  s.modPart part fun p => { p with errstat := p.errstat ||| 2 }

/-- An entry is refused (R385): ERRSTAT[1] is set, and its record has status 0x13. -/
def State.refuseEntry (s : State) (part : Nat) (c : Cmd) : State := (s.entryError part).recordCmd part c 0x13

/-- LASTACC moves. -/
def State.accepted (s : State) (part q : Nat) (n : W32) : State :=
  s.modPart part fun p => p.setQueue q { p.queue q with lastacc := n }

/-- An accepted entry waits to be performed; its place among the launches is that of its acceptance (R24, R385). -/
def State.addCmd (s : State) (part : Nat) (c : Cmd) : State :=
  let (id, s) := s.fresh
  s.modPart part fun p => { p with cmds := p.cmds ++ [{ c with order := id }] }

/-- Accepts announced entries while each stands in its slot; a LAUNCH with FLAGS[0] goes with the entry after
it (R384, R385). In recovery every entry is refused (R391). -/
def State.acceptFuel : Nat → State → Nat → Nat → W32 → State
  | 0, s, _, _, _ => s
  | k + 1, s, part, q, v =>
    let x := (s.part part).queue q
    let n := x.lastacc + 1
    let e := s.slotEntry x n
    let c := entryCmd q e
    if x.lastacc = v || c.subseq ≠ n.toNat then s
    else if c.op = 1 && c.flags % 2 = 1 then
      let e' := s.slotEntry x (n + 1)
      if n = v || (entryCmd q e').subseq ≠ (n + 1).toNat then s
      else
        let s := s.accepted part q (n + 1)
        let s := if s.sirxo.recovery || !entryZeros e || !cmdOk c || !extOk e' then s.refuseEntry part c
          else (s.addCmd part c).addCmd part (entryCmd q e')
        State.acceptFuel k s part q v
    else
      let s := s.accepted part q n
      let s := if s.sirxo.recovery || !entryZeros e || !cmdOk c then s.refuseEntry part c else s.addCmd part c
      State.acceptFuel k s part q v

/-- DOORBELL (R385); a disabled queue, or a value too far ahead, accepts nothing. -/
def State.ring (s : State) (part q : Nat) (v : W64) : State :=
  let x := (s.part part).queue q
  let w := BitVec.truncate 32 v
  let room := 2 ^ x.sqsize.toNat
  if x.sqsize = 0 || (w - (x.lastacc + 1)).toNat > room then s
  else (s.modPart part fun p => p.setQueue q { x with doorbell := v }).acceptFuel (room + 1) part q w

/-- DOORBELL (R385). Sirxo has brought the device up, or refused its image (R391). -/
def execDoorbell (p q : Nat) (v : W64) (s : State) : Host.Outcome State Fault Refusal :=
  .next (if s.sirxo.booted || s.sirxo.recovery then s.ring p q v else s)

/-! ## The order of commands (R385) -/

/-- The command that a queue would begin next: the first that has not begun, where every launch accepted before
it has been performed. -/
def headCmd (q : Nat) : List Cmd → Option Cmd
  | [] => none
  | c :: cs => if c.op ≤ 1 then none else if c.q = q && !c.begun then some c else headCmd q cs

/-- A command meets the conditions under which it begins: TLBINV, and MAP over a valid entry, wait as R376
states, and RESTORE waits for a PREEMPT that has begun (log 27). -/
def State.canBegin (s : State) (part : Nat) (c : Cmd) : Bool :=
  match c.op with
  | 0x04 => !(s.part part).cmds.any fun x => x.op == 3 && x.begun
  | 0x06 => s.partQuiet part
  | 0x09 => s.rd c.a1.toNat 1 % 2 == 0 || s.partQuiet part
  | _ => true

/-- The queue of a partition that is served next: the first after the one served last, round and round, that has
a command which may begin (R385). -/
def State.servedQueue (s : State) (part : Nat) : Option Nat :=
  let p := s.part part
  ((List.range 8).map fun i => (p.turn + 1 + i) % 8).find? fun q => (headCmd q p.cmds).any fun c => s.canBegin part c

/-- A command of a queue with a code, if it may begin: a launch counts as begun at acceptance; the other
commands of a queue begin in order, and the queues take turns (R385). -/
def State.nextCmd (s : State) (part op q : Nat) : Option Cmd :=
  if op ≤ 1 then ((s.part part).cmds.find? fun c => c.op ≤ 1).filter fun c => c.op == op && c.q == q
  else if s.servedQueue part = some q then (headCmd q (s.part part).cmds).filter fun c => c.op == op
  else none

/-- A queue has been served. -/
def State.setTurn (s : State) (part : Nat) (c : Cmd) : State :=
  if c.op ≤ 1 || c.begun then s else s.modPart part fun p => { p with turn := c.q }

/-- A begun command of a queue. -/
def State.begunCmd (s : State) (part op q : Nat) : Option Cmd :=
  (s.part part).cmds.find? fun c => c.op == op && c.q == q && c.begun

/-- A command is performed: it leaves the list. -/
def State.dropCmd (s : State) (part : Nat) (c : Cmd) : State :=
  s.modPart part fun p => { p with cmds := removeFirst (fun x => x.q == c.q && x.subseq == c.subseq) p.cmds }

/-- A change of a command. -/
def State.modCmd (s : State) (part : Nat) (c : Cmd) (f : Cmd → Cmd) : State :=
  s.modPart part fun p => { p with cmds := modifyFirst (fun x => x.q == c.q && x.subseq == c.subseq) f p.cmds }

/-- A command begins and goes on (R385). -/
def State.beginCmd (s : State) (part : Nat) (c : Cmd) : State :=
  (s.modCmd part c fun c => { c with begun := true }).setTurn part c

/-- A command is performed, and its record is due. -/
def State.endCmd (s : State) (part : Nat) (c : Cmd) (status : Nat) : State :=
  ((s.dropCmd part c).setTurn part c).recordCmd part c status

/-! ## LAUNCH (R23, R24, R82, R334, R384, R388) -/

/-- A partition owns a slot in every calendar (R388). -/
def State.hasSlots (s : State) (part : Nat) : Bool :=
  (List.range 8).all (fun d => (List.range 64).any fun i => (Sparse.get s.calnet (64 * d + i)).toNat % 16 == part) &&
  (List.range 16).all fun k => (List.range 64).any fun i =>
    (Sparse.get s.calmem (32 * k + i / 2)).toNat / 16 ^ (i % 2) % 16 == part

/-- The initial tasks are published as by TSPAWN with a count of 0, in array order (R384). -/
def State.publishArray (s : State) (part arr n : Nat) : State :=
  (List.range n).foldl (fun s i =>
    match s.canopyRd part (arr + 8 * i) 8 with
    | none => s
    | some va =>
      if va % 64 ≠ 0 then s
      else
        match s.xlateRec 0 part va true with
        | .error _ => s
        | .ok pa =>
          let r := s.taskRec pa
          if r.st ≠ 0 || (s.taskLaunch part r.entry).isNone then s
          else if r.dep > 0 then s.publish 0 0 part va pa r.dep 1
          else (s.publish 0 0 part va pa r.dep 2).enqueueTask part r.entry va false) s

/-- EXT (R384): the entry gives its task array to the LAUNCH before it. -/
def execExt (p q : Nat) (s : State) : Host.Outcome State Fault Refusal :=
  .next (match s.nextCmd p 1 q with
    | none => s
    | some c =>
      match (s.part p).cmds.find? fun x => x.op == 0 && x.q == q && x.subseq == (c.subseq + 1) % 2 ^ 32 with
      | none => s
      | some e => (s.dropCmd p e).modCmd p c fun c => { c with ext := some e.a1 })

/-- The status that refuses a LAUNCH, and the descriptor that it runs (R386). -/
def State.launchCheck (s : State) (part : Nat) (c : Cmd) : Except Nat Desc :=
  match s.readDesc part c.a1.toNat with
  | none => .error 0x10
  | some d =>
    if d.task != c.ext.isSome then .error 0x13
    else if !d.fits (c.a3.toNat % 2 ^ 32) || !s.hasSlots part then .error 0x11
    else .ok d

/-- A LAUNCH is refused or accepted. -/
def State.runLaunch (s : State) (part : Nat) (c : Cmd) : State :=
  match s.launchCheck part c with
  | .error st => (if st = 0x13 then s.entryError part else s).endCmd part c st
  | .ok d =>
    let l := newLaunch (hostId c) part d c.a2 (c.a3.toNat % 2 ^ 32) c.a4 (.host c.q c.subseq) c.order
    let s := { s.dropCmd part c with launches := insertLaunch l s.launches }
    match c.ext with
    | some arr => s.publishArray part arr.toNat (c.a3.toNat / 2 ^ 32)
    | none => s

/-- LAUNCH_COMMAND (R384). -/
def execLaunchCommand (p q : Nat) (s : State) : Host.Outcome State Fault Refusal :=
  .next (match s.nextCmd p 1 q with
    | none => s
    | some c => if c.flags = 1 && c.ext.isNone then s else s.runLaunch p c)

/-! ## KILL, NOP, COMM (R384) -/

/-- KILL's effect (R361, R384). -/
def State.runKill (s : State) (part : Nat) (c : Cmd) : State :=
  let id := c.a1.toNat
  match s.launch part id with
  | none => s.endCmd part c 0x12
  | some _ => (s.killLaunch part id 4 0 0).endCmd part c 0

/-- KILL (R384). -/
def execKill (p q : Nat) (s : State) : Host.Outcome State Fault Refusal :=
  .next (match s.nextCmd p 2 q with
    | none => s
    | some c => s.runKill p c)

/-- NOP (R384). -/
def execNopCommand (p q : Nat) (s : State) : Host.Outcome State Fault Refusal :=
  .next (match s.nextCmd p 8 q with
    | none => s
    | some c => s.endCmd p c 0)

/-- The entries of a rank table (R384). -/
def State.rankTable (s : State) (part va n : Nat) : Option (List (Nat × Nat)) :=
  (List.range n).mapM fun i => (s.canopyRd part (va + 8 * i) 8).map fun x => (x % 32, bitsAt x 5 4)

/-- COMM's effect; a table that cannot be read is an operand out of range (log 27). -/
def State.runComm (s : State) (part : Nat) (c : Cmd) : State :=
  let id := c.a1.toNat
  match s.rankTable part c.a2.toNat c.a3.toNat with
  | none => (s.entryError part).endCmd part c 0x13
  | some ranks =>
    { s with comms := upsert (fun x => x.part == part && x.id == id) { part, id, ranks } s.comms }.endCmd part c 0

/-- COMM (R384). -/
def execComm (p q : Nat) (s : State) : Host.Outcome State Fault Refusal :=
  .next (match s.nextCmd p 7 q with
    | none => s
    | some c => s.runComm p c)

/-! ## Pre-emption (R367, R384) -/

/-- PREEMPT (R367): admission stops, and every bough of the partition stops issuing. -/
def execPreempt (p q : Nat) (s : State) : Host.Outcome State Fault Refusal :=
  .next (match s.nextCmd p 3 q with
    | none => s
    | some c =>
      (s.beginCmd p c).modPart p fun x => { x with halted := true, noAdmit := true })

/-- The copses of a partition that are on cores, or whose engine operations are. -/
def State.residents (s : State) (part : Nat) : List Copse := s.copses.filter fun c => c.part == part && s.onCore c

/-- The PREEMPTs of a partition that have begun are complete. -/
def State.endPreempts (s : State) (part : Nat) : State :=
  ((s.part part).cmds.filter fun c => c.op == 3 && c.begun).foldl (fun s c => s.endCmd part c 0) s

/-- PREEMPT_SAVE (R367, R382): the halted copses are saved as they can be, and PREEMPT is complete when none
is left. -/
def execPreemptSave (p : Nat) (s : State) : Host.Outcome State Fault Refusal :=
  if !(s.part p).halted then .next s
  else
    let s := (s.residents p).foldl (fun s c => s.preemptOne c) s
    .next (if (s.residents p).isEmpty then s.endPreempts p else s)

/-- RESTORE's effect: admission resumes, and the pre-empted copses are queued for restoring. -/
def State.runRestore (s : State) (part : Nat) (c : Cmd) : State :=
  let s := s.modPart part fun x => { x with halted := false, noAdmit := false }
  let s := (s.copses.filter fun c => c.part == part && c.reason == 2 && c.event == 0).foldl (fun s c =>
    let (id, s) := s.fresh
    s.modCopse part c.launch c.cid fun c => { c with event := id }) s
  s.endCmd part c 0

/-- RESTORE (R384). -/
def execRestore (p q : Nat) (s : State) : Host.Outcome State Fault Refusal :=
  .next (match s.nextCmd p 4 q with
    | none => s
    | some c => s.runRestore p c)

/-! ## Replies (R360) -/

/-- The fault that a reply names. -/
def State.pendingOf (s : State) (part seq : Nat) : Option Pending := (s.part part).pending.find? fun f => f.seq == seq

/-- A fault is answered. -/
def State.answer (s : State) (part : Nat) (f : Pending) : State :=
  let s := s.modPart part fun p => { p with pending := removeFirst (fun x => x.seq == f.seq) p.pending }
  s.modBough f.uid fun b => { b with recorded := b.recorded.filter fun n => n != f.seq }

/-- The copse of a waiting fault is out: the reply waits for its return (R29, R360). -/
def State.isOut (s : State) (f : Pending) : Bool :=
  (s.bough f.uid).any fun b => b.status == .saved

/-- A bough whose fault is serviced: its entry or its parked lanes may go on (R131, R144). -/
def Bough.service (b : Bough) (seq : Nat) : Bough :=
  let hit (e : StackEnt) : Bool := e.kind == .fault && !e.join && e.seq == seq && !e.svc
  let ready := b.refill.map fun f =>
    (f.parks.filter fun p => p.seq == seq).foldl (fun f p => { f with fpReady := f.fpReady ||| (1#32 <<< p.lane) }) f
  { b with stack := b.stack.map fun e => if hit e then { e with svc := true } else e, refill := ready,
           wait := match b.wait with
             | .reply q => if q = seq then .none else .reply q
             | .fault => .none
             | .cursor => if (b.refill.map fun f => f.parks.any fun p => p.seq == seq).getD false then .none else .cursor
             | w => w }

/-- RESUME's effect (R360). -/
def State.resume (s : State) (part : Nat) (f : Pending) : State :=
  let s := s.answer part f
  if f.eng = 0 then s.modBough f.uid fun b => b.service f.seq
  else
    match s.engOp f.eng with
    | some (core, o) => s.setOp core { o with seq := 0 }
    | none => s

/-- The lanes that wait on a fault. -/
def Bough.faultMask (b : Bough) (seq : Nat) : Mask :=
  if b.wait = .reply seq then b.emr
  else
    match b.stack.find? fun e => e.kind == .fault && !e.join && e.seq == seq with
    | some e => e.mask
    | none => Mask.ofPred fun l => (b.refill.map fun f => f.parks.any fun p => p.seq == seq && p.lane == l).getD false

/-- The token that an answered fault's replay would have paid is no longer owed. -/
def Bough.dropTok (b : Bough) (seq : Nat) : Nat × Bough :=
  let t := ((b.stack.find? fun e => e.kind == .fault && !e.join && e.seq == seq).map fun e => e.tok).getD 0
  (t, { b with stack := b.stack.map fun e => if e.kind == .fault && e.seq == seq then { e with tok := 0 } else e })

/-- KILL's effect on a bough's fault (R360, R341): lanes at task depth 1 or more fail their task; at depth 0
the launch is killed. -/
def State.replyKill (s : State) (part : Nat) (f : Pending) (b : Bough) : State :=
  let m := b.deepLanes (b.faultMask f.seq)
  if m = 0 || b.faultMask f.seq &&& ~~~m ≠ 0 then s.killLaunch part f.launch 1 f.seq 0
  else
    let s := (s.focus f.uid).failTasks m
    let (t, b) := s.b.dropTok f.seq
    let s := ({ s with b := { b with wait := .none } }).settleTok f.uid t
    if s.b.emr = 0 then s.settle else s

/-- KILL's effect (R215, R360). -/
def State.replyEnd (s : State) (part : Nat) (f : Pending) : State :=
  let s := s.answer part f
  if f.eng = 0 then
    match s.bough f.uid with
    | some b => s.replyKill part f b
    | none => s
  else
    match s.engOp f.eng with
    | some (core, o) => s.setOp core { o with seq := 0, status := 0x01 }
    | none => s

/-- The course of a REPLY: it names no waiting fault, it is recorded for a copse that is out, or it acts. -/
def State.reply (s : State) (part : Nat) (c : Cmd) (act : State → Pending → State) : State :=
  match s.pendingOf part (c.a1.toNat % 2 ^ 32) with
  | none => s.endCmd part c 0x12
  | some f =>
    if s.isOut f then
      (s.beginCmd part c).modBough f.uid fun b =>
        { b with recorded := if b.recorded.contains f.seq then b.recorded else b.recorded ++ [f.seq] }
    else (act s f).endCmd part c 0

/-- The REPLY of a queue, of a kind, that may act: of those that were recorded and whose fault is back the first
accepted, and where there is none the next command (R360). -/
def State.replyCmd (s : State) (part q k : Nat) : Option Cmd :=
  let ok (c : Cmd) : Bool := c.q == q && c.a1.toNat / 2 ^ 32 == k
  let back (c : Cmd) : Bool := (s.pendingOf part (c.a1.toNat % 2 ^ 32)).all fun f => !s.isOut f
  match (s.part part).cmds.find? fun c => c.op == 5 && c.begun && back c with
  | some c => if ok c then some c else none
  | none => (s.nextCmd part 5 q).filter ok

/-- REPLY RESUME (R360). -/
def execReplyResume (p q : Nat) (s : State) : Host.Outcome State Fault Refusal :=
  .next (match s.replyCmd p q 0 with
    | none => s
    | some c => s.reply p c fun s f => s.resume p f)

/-- REPLY KILL (R360). -/
def execReplyKill (p q : Nat) (s : State) : Host.Outcome State Fault Refusal :=
  .next (match s.replyCmd p q 1 with
    | none => s
    | some c => s.reply p c fun s f => s.replyEnd p f)

/-! ## TLBINV and MAP (R199, R376, R384) -/

/-- TLBINV by command (R376). -/
def execTlbinvCommand (p q : Nat) (s : State) : Host.Outcome State Fault Refusal :=
  .next (match s.nextCmd p 6 q with
    | none => s
    | some c =>
      let range := if c.flags = 1 then none else some (c.a1.toNat, c.a2.toNat)
      (s.tlbRemove p range).endCmd p c 0)

/-- The bytes of the page of a leaf entry. -/
def leafSpan (e : W64) : Nat × Nat := (pteAddr e, 2 ^ pageShift (pteBits e 52 2))

/-- Sets the zero flags of `n` bytes of lines (R17, R199); only HBM has them. A line that holds an entry of a
deterministic launch takes the zeros in its phase copy too (R250). -/
def State.zeroPage (s : State) (pa n : Nat) : State :=
  if isHbm pa then
    let apart (z : Nat) : Bool := z < pa / 128 || (pa + n) / 128 ≤ z
    let t := { s with mem := Sparse.drop s.mem pa n, ecc := s.ecc.filter apart, dcache := s.dcache.filter apart,
                      heart := s.heart.map fun h => if apart h.line then h else { h with copy := 0 },
                      zflag := s.zflag.filter apart ++ (List.range (n / 128)).map fun i => pa / 128 + i }
    (s.heart.filter fun h => !apart h.line).foldl (fun t h => t.foreign h.part h.launch) t
  else s

/-- Removes translations to the bytes of an old page (R384). -/
def State.pageRemove (s : State) (part : Nat) (old : Nat × Nat) : State :=
  let hit (pte : W64) (size : Nat) : Bool :=
    pteAddr pte < old.1 + old.2 && old.1 < pteAddr pte + 2 ^ pageShift size
  let s := { s with cores := s.cores.map fun (e : Nat × Core) =>
      (e.1, { e.2 with tlb := e.2.tlb.filter fun x => !(x.part == part && hit x.pte x.size) }),
                    dtlb := s.dtlb.filter fun x => !(x.2.part == part && hit x.2.pte x.2.size) }
  s.modBoughs (fun b => b.part == part) fun b =>
    { b with walkRes := b.walkRes.filter fun r => r.cause != 0 || !hit r.pte r.size }

/-- MAP begins (R199, R384): the TLBINV over the old page, and the zero flags. -/
def State.runMap (s : State) (part : Nat) (c : Cmd) : State :=
  let old := BitVec.ofNat 64 (s.rd c.a1.toNat 8)
  let s := if old.getLsbD 0 then s.pageRemove part (leafSpan old) else s
  let s := if c.flags = 1 then s else s.zeroPage (leafSpan c.a2).1 (leafSpan c.a2).2
  s.beginCmd part c

/-- MAP (R199). -/
def execMap (p q : Nat) (s : State) : Host.Outcome State Fault Refusal :=
  .next (match s.nextCmd p 9 q with
    | none => s
    | some c => s.runMap p c)

/-- The latest lease end recorded for the lines of a page; 0 where none is (R199). -/
def State.pageLease (s : State) (pa n : Nat) : Nat :=
  s.leases.foldl (fun m e => if pa / 128 ≤ e.1 && e.1 < (pa + n) / 128 then max m e.2 else m) 0

/-- The page's leases have ended (R199). -/
def State.leaseOver (s : State) (c : Cmd) : Bool :=
  let l := s.pageLease (leafSpan c.a2).1 (leafSpan c.a2).2
  l == 0 || s.time ≥ l + 2

/-- No core and no die place keeps a copy of some bytes from before (R241). -/
def State.dropCopies (s : State) (pa n : Nat) : State :=
  let out (sec : Nat) : Bool := !bytesMeet (32 * sec) 32 pa n
  { s with cores := s.cores.map fun (e : Nat × Core) => (e.1, { e.2 with l1 := e.2.l1.filter fun x => out x.pa }),
           dcopies := s.dcopies.filter fun x => !bytesMeet (128 * x.pa) 128 pa n }

/-- The entry is written with V = 1 (R199); what copies of the page's bytes any cache still held are gone, those
of a system-coherent page included, which no lease ends (R241). -/
def State.runPublish (s : State) (part : Nat) (c : Cmd) : State :=
  let s := if c.flags = 1 then s else s.dropCopies (leafSpan c.a2).1 (leafSpan c.a2).2
  (s.homeWrite (outsider part) c.a1.toNat c.a1.toNat true (.bytes 8 c.a2.toNat) false).2.endCmd part c 0

/-- MAP_PUBLISH (R199). -/
def execMapPublish (p q : Nat) (s : State) : Host.Outcome State Fault Refusal :=
  .next (match s.begunCmd p 9 q with
    | none => s
    | some c => if s.leaseOver c then s.runPublish p c else s)

end Sys2Proof.Machine
end

