-- ==== Sys2Proof/Machine/Platform.lean ====
section
/-! DEFINITION. The register blocks (spec/14_platform.md R380, R382, R383, R388, R394), Function Level Reset
(R386), accesses through BAR2 (R379), peers (R261, R381) and links (R390). -/

namespace Sys2Proof.Machine

/-! ## Reading a register block -/

/-- DEVIDENT (R380). -/
def devident (part : Nat) : Nat :=
  joinBits [(8, 0x01), (8, 0x42), (8, 0), (8, 0), (8, 1), (8, part), (16, 0)]

/-- A register of a queue (R383); DOORBELL is write-only. -/
def SQueue.reg (x : SQueue) (r : Nat) : Nat :=
  match r with
  | 0x00 => x.sqbase.toNat
  | 0x08 => x.sqsize.toNat
  | 0x18 => x.cqbase.toNat
  | 0x20 => x.cqsize.toNat
  | 0x28 => x.cqhead.toNat
  | 0x30 => joinBits [(32, x.lastacc.toNat), (32, x.lastdone.toNat)]
  | _ => 0

/-- A register of a partition's block (R382). -/
def Part.reg (p : Part) (o : Nat) : Nat :=
  match o with
  | 0x100 => p.ptroot.toNat
  | 0x108 => p.atomplace.toNat
  | 0x110 => p.leaseLen.toNat
  | 0x118 => p.lwt.toNat
  | 0x120 => p.fqbase.toNat
  | 0x128 => p.fqsize.toNat
  | 0x130 => p.fqhead.toNat
  | 0x138 => p.ctxarea.toNat
  | 0x140 => p.ctxcount.toNat
  | 0x148 => p.ovfbase.toNat
  | 0x150 => p.ovfsize.toNat
  | 0x158 => p.dspbase.toNat
  | 0x160 => p.dspsize.toNat
  | 0x168 => p.poolbase.toNat
  | 0x170 => p.poolsize.toNat
  | 0x178 => p.quota.toNat
  | 0x180 => p.signreq.toNat
  | 0x188 => p.errstat.toNat
  | 0x198 => p.trapvec.toNat
  | 0x1A0 => p.dbgctl.toNat
  | _ =>
    if 0x1000 ≤ o && o < 0x1200 then (p.queue ((o - 0x1000) / 0x40)).reg (o % 0x40)
    else if 0x800 ≤ o && o < 0x87C then (Sparse.get p.peermap ((o - 0x800) / 4)).toNat
    else 0

/-- Telemetry (R394). -/
def Sirxo.reg (x : Sirxo) (o : Nat) : Nat :=
  match o with
  | 0x900 => x.plimit
  | 0x908 => x.pnow
  | 0x910 => x.clknow
  | 0x958 => x.tjmax
  | 0x960 => x.hbmw
  | _ => if 0x918 ≤ o && o ≤ 0x950 then (x.icore[(o - 0x918) / 8]?).getD 0 else 0

/-- What a read of function `fn`'s block returns: in recovery only DEVIDENT and the recovery register (R391). Between
reset and SIRXO_BOOT, where the manual gives no answer, every register but DEVIDENT reads as 0 (log 55). -/
def State.hostReg (s : State) (fn off : Nat) : Nat :=
  let n := off / 0x10000
  let o := off % 0x10000
  if off = 0 then devident fn
  else if !s.sirxo.booted then (if off = 0x190 then bit s.sirxo.recovery else 0)
  else if fn ≠ 0 && n ≠ 0 then 0
  else if 0x400 ≤ o && o < 0x600 then Sparse.getLE s.calnet (o - 0x400) 8
  else if 0x600 ≤ o && o < 0x800 then Sparse.getLE s.calmem (o - 0x600) 8
  else if 0x900 ≤ o && o ≤ 0x960 then (if fn = 0 then s.sirxo.reg o else 0)
  else (s.part (if fn = 0 then n else fn)).reg o

/-! ## FQHEAD, CQHEAD, ERRSTAT -/

/-- Records wait no longer for the slots that FQHEAD frees; the launches of the machine checks among them end,
and traps decide again (R358). -/
def State.setFqhead (s : State) (part : Nat) (v : W64) : State :=
  let s := ((s.modPart part fun p => { p with fqhead := v }).drainFaults part).killDoomed part
  s.modBoughs (fun b => b.part == part && b.wait == .fault && !(s.part part).dooms.any fun d => d.uid == b.uid)
    fun b => { b with wait := .none }

/-- FQHEAD (R358, R382). -/
def execFqhead (p : Nat) (v : W64) (s : State) : Host.Outcome State Fault Refusal := .next (s.setFqhead p v)

/-- CQHEAD frees consumed slots, and completions that wait are written (R386). -/
def State.setCqhead (s : State) (part q : Nat) (v : W64) : State :=
  (s.modPart part fun p => p.setQueue q { p.queue q with cqhead := v }).drainCompletions part q

/-- CQHEAD (R383, R386). -/
def execCqhead (p q : Nat) (v : W64) (s : State) : Host.Outcome State Fault Refusal := .next (s.setCqhead p q v)

/-- ERRSTAT's ones clear bits (R382). -/
def State.clearErr (s : State) (part : Nat) (v : W64) : State :=
  s.modPart part fun p => { p with errstat := p.errstat &&& ~~~v }

/-- ERRSTAT (R382). -/
def execErrstat (p : Nat) (v : W64) (s : State) : Host.Outcome State Fault Refusal := .next (s.clearErr p v)

/-! ## Register writes (R382, R383, R388, R390, R394) -/

/-- ERRSTAT[0]: a write was ignored. -/
def State.ignored (s : State) (part : Nat) : State := s.modPart part fun p => { p with errstat := p.errstat ||| 1 }

/-- The partition has a launch running or saved (R382). -/
def State.busy (s : State) (part : Nat) : Bool := s.launches.any fun l => l.part == part

/-- A value that a partition register accepts (R258, R358, R363, R382, log 28). -/
def regValueOk (o : Nat) (v : W64) : Bool :=
  let n := v.toNat
  match o with
  | 0x100 => n % 4096 == 0
  | 0x108 | 0x1A0 => n ≤ 1
  | 0x110 => leaseLenOk v
  | 0x118 => lwtOk v
  | 0x120 => n % 64 == 0 && isHbm n
  | 0x128 => 6 ≤ n && n ≤ 16
  | 0x138 => n % 2 ^ 16 == 0
  | _ => true

/-- The ring of fault records begins anew (R358). -/
def Part.newRing (p : Part) : Part := { p with recs := 0, fqwait := [] }

/-- A register that the partition's own block may write. -/
def Part.setReg (p : Part) (o : Nat) (v : W64) : Part :=
  match o with
  | 0x100 => { p with ptroot := v }
  | 0x108 => { p with atomplace := v }
  | 0x110 => { p with leaseLen := v }
  | 0x118 => { p with lwt := v }
  | 0x120 => { p.newRing with fqbase := v }
  | 0x128 => { p.newRing with fqsize := v }
  | 0x138 => { p with ctxarea := v }
  | 0x140 => { p with ctxcount := v }
  | 0x148 => { p with ovfbase := v }
  | 0x150 => { p with ovfsize := v }
  | 0x158 => { p with dspbase := v }
  | 0x160 => { p with dspsize := v }
  | 0x198 => { p with trapvec := v }
  | 0x1A0 => { p with dbgctl := v }
  | _ => p

/-- The registers that Part.setReg writes. -/
def ownRegs : List Nat :=
  [0x100, 0x108, 0x110, 0x118, 0x120, 0x128, 0x138, 0x140, 0x148, 0x150, 0x158, 0x160, 0x198, 0x1A0]

/-- A log2 size of a ring: 4 to 16; 0 disables a submission queue (R383). -/
def ringSizeOk (v : W64) : Bool := v == 0 || (4 ≤ v.toNat && v.toNat ≤ 16)

/-- A write of a queue register (R383). Bits [5:1] of SQBASE and CQBASE, which have no meaning, are kept and read back
(log 28). -/
def State.setQueueReg (s : State) (part q r : Nat) (v : W64) : State :=
  let put (f : SQueue → SQueue) : State := s.modPart part fun p => p.setQueue q (f (p.queue q))
  match r with
  | 0x00 => put fun x => { x with sqbase := v }
  | 0x08 => if ringSizeOk v then put fun x => { x with sqsize := v } else s.ignored part
  | 0x10 => s.ring part q v
  | 0x18 => put fun x => { x with cqbase := v }
  | 0x20 => if ringSizeOk v then put fun x => { x with cqsize := v } else s.ignored part
  | 0x28 => s.setCqhead part q v
  | _ => s

/-- A write through the partition's own block. -/
def State.ownWrite (s : State) (part o : Nat) (v : W64) : State :=
  if o = 0x130 then s.setFqhead part v
  else if o = 0x188 then s.clearErr part v
  else if 0x1000 ≤ o && o < 0x1200 then s.setQueueReg part ((o - 0x1000) / 0x40) (o % 0x40) v
  else if !ownRegs.contains o then s
  else if s.busy part || !regValueOk o v then s.ignored part
  else s.modPart part fun p => p.setReg o v

/-- Eight bytes of a calendar; of CALNET the reserved bits [7:4] are dropped (log 28). -/
def putCalendar (m : Sparse 8) (k : Nat) (mask : Nat) (v : W64) : Sparse 8 :=
  (List.range 8).foldl (fun m i => Sparse.set m (k + i) (BitVec.ofNat 8 (v.toNat / 2 ^ (8 * i) % mask))) m

/-- A write of a calendar: while no launch of any partition is running or saved (R388). -/
def State.setCalendar (s : State) (o : Nat) (v : W64) : State :=
  if !s.launches.isEmpty then s.ignored 0
  else if o % 8 ≠ 0 then s
  else if o < 0x600 then { s with calnet := putCalendar s.calnet (o - 0x400) 16 v }
  else { s with calmem := putCalendar s.calmem (o - 0x600) 256 v }

/-- PLIMIT (R394). -/
def State.setPlimit (s : State) (v : W64) : State :=
  if 2000 ≤ v.toNat && v.toNat ≤ 8000 then { s with sirxo := { s.sirxo with plimit := v.toNat } } else s

/-- A value that a PF register of a partition accepts (R308, R382). -/
def Part.pfOk (p : Part) (o : Nat) (v : W64) : Bool :=
  match o with
  | 0x168 => v.toNat % 2 ^ 16 == 0
  | 0x170 => p.quota.toNat ≤ v.toNat && v.toNat ≤ 2 ^ 24 - 1
  | 0x178 => v.toNat ≤ p.poolsize.toNat
  | 0x180 => v.toNat ≤ 1
  | _ => true

/-- A PF register of a partition (R382, R390); the reserved bits [31:18] of PEERMAP are dropped (log 28). -/
def Part.setPf (p : Part) (o : Nat) (v : W64) : Part :=
  match o with
  | 0x168 => { p with poolbase := v }
  | 0x170 => { p with poolsize := v }
  | 0x178 => { p with quota := v }
  | 0x180 => { p with signreq := v }
  | _ =>
    if 0x800 ≤ o && o < 0x87C && o % 4 = 0 then
      { p with peermap := Sparse.set p.peermap ((o - 0x800) / 4) (BitVec.ofNat 32 (v.toNat % 2 ^ 18)) }
    else p

/-- The offsets of PF registers. -/
def isPfReg (o : Nat) : Bool :=
  [0x168, 0x170, 0x178, 0x180, 0x900].contains o || (0x400 ≤ o && o < 0x880)

/-- A write through the physical function's block, of partition n's value. -/
def State.pfWrite (s : State) (n o : Nat) (v : W64) : State :=
  if o = 0x900 then (if n = 0 then s.setPlimit v else s)
  else if 0x400 ≤ o && o < 0x800 then (if n = 0 then s.setCalendar o v else s)
  else if s.busy n || !(s.part n).pfOk o v then s.ignored n
  else s.modPart n fun p => p.setPf o v

/-- PARTITION_REGISTER_WRITE (R382): offset `off` of function `fn`'s block. Before Sirxo has run there is no
register to write; in recovery there are those of the queues, whose entries then complete with status 0x13
(R391, log 55). -/
def execPartitionRegisterWrite (fn off : Nat) (v : W64) (s : State) : Host.Outcome State Fault Refusal :=
  let n := off / 0x10000
  let o := off % 0x10000
  .next (if !s.sirxo.booted then
      (if s.sirxo.recovery && n = 0 && 0x1000 ≤ o && o < 0x1200 then s.ownWrite fn o v else s)
    else if isPfReg o then (if fn = 0 && n < 16 then s.pfWrite n o v else s)
    else if n = 0 then s.ownWrite fn o v
    else s)

/-! ## Function Level Reset (R386) -/

/-- LAUNCHes that were accepted are performed: they count as begun. -/
def State.startAccepted (s : State) (part : Nat) : State :=
  ((s.part part).cmds.filter fun c => c.op == 1).foldl (fun s c =>
    let e := (s.part part).cmds.find? fun x => x.op == 0 && x.q == c.q && x.subseq == (c.subseq + 1) % 2 ^ 32
    match e with
    | some e => (s.dropCmd part e).runLaunch part { c with ext := some e.a1 }
    | none => s.runLaunch part c) s

/-- What a partition has in flight is gone, not performed (R378). -/
def State.dropFlight (s : State) (part : Nat) : State :=
  { s with
    loads := s.loads.filter fun x => x.part != part,
    stores := s.stores.filter fun x => x.by_.part != part,
    atoms := s.atoms.filter fun x => x.by_.part != part,
    acks := s.acks.filter fun x => x.launch / 2 ^ 32 != part,
    walks := s.walks.filter fun x => x.part != part }

/-- Every launch of a partition ends with a status, windows that are open included. -/
def State.killAll (s : State) (part endst : Nat) : State :=
  let s := (s.wins.filter fun w => w.part == part).foldl (fun s w => s.closeWin w) s
  (s.launches.filter fun l => l.part == part).foldl (fun s l => s.killLaunch part l.id endst 0 0) s

/-- The records of every launch of a partition. -/
def State.recordAll (s : State) (part : Nat) : State :=
  (s.launches.filter fun l => l.part == part).foldl (fun s l => s.recordEnd l) s

/-- An accepted entry is performed whole, TIME passing as it directs. -/
def State.performCmd (s : State) (part : Nat) (c : Cmd) : State :=
  match c.op with
  | 0x02 => s.runKill part c
  | 0x03 => (s.modPart part fun x => { x with halted := true, noAdmit := true }).endCmd part c 0
  | 0x04 => s.runRestore part c
  | 0x05 => s.endCmd part c 0x12
  | 0x06 => (s.tlbRemove part (if c.flags = 1 then none else some (c.a1.toNat, c.a2.toNat))).endCmd part c 0
  | 0x07 => s.runComm part c
  | 0x08 => s.endCmd part c 0
  | _ =>
    let s := if c.begun then s else s.runMap part c
    let l := s.pageLease (leafSpan c.a2).1 (leafSpan c.a2).2
    { s with time := if l = 0 then s.time else max s.time (l + 2) }.runPublish part c

/-- Writes every record that is due, whatever the ring holds. -/
def State.forceRecords (s : State) (part : Nat) : State :=
  (List.range 8).foldl (fun s q =>
    let due := ((s.part part).queue q).ready
    let s := s.modPart part fun p => p.setQueue q { p.queue q with ready := [] }
    due.foldl (fun s r => s.putCompletion part q r) s) s

/-- The queue registers are reset, but for HQSTAT. -/
def Part.resetQueues (p : Part) : Part :=
  { p with queues := p.queues.map fun e =>
      (e.1, { SQueue.reset with lastacc := e.2.lastacc, lastdone := e.2.lastdone }) }

/-- FUNCTION_LEVEL_RESET (R386). -/
def execFunctionLevelReset (p : Nat) (s : State) : Host.Outcome State Fault Refusal :=
  let s := (s.startAccepted p).killAll p 4
  let s := (s.dropFlight p).recordAll p
  let s := (s.part p).cmds.foldl (fun s c => s.performCmd p c) s
  .next ((s.forceRecords p).modPart p fun x => x.resetQueues)

/-! ## BAR2 and AtomicOps (R379) -/

/-- Where an offset of the 64 GiB window leads: through the partition's page table (log 29). -/
def State.barXlate (s : State) (part off : Nat) (write : Bool) : Option Nat :=
  if off ≥ 2 ^ 36 then none
  else
    match s.walk part off with
    | .leaf pte size => if write && !pteWritable pte then none else some (leafPa pte size off)
    | .fail _ => none

/-- The pieces of an access from outside: whole where it is naturally aligned, else bytes. -/
def outerPieces (a n : Nat) : List (Nat × Nat × Nat) :=
  if [1, 2, 4, 8, 16].contains n && a % n == 0 then [(a, n, 0)] else (List.range n).map fun i => (a + i, 1, i)

/-- A write from outside at a line's home (R225, R250). -/
def State.outerWrite (s : State) (part pa : Nat) (x : WriteKind) : State :=
  (s.homeWrite (outsider part) pa pa true x false).2

/-- BAR2_ACCESS (R379): pieces that the partition has not mapped are not performed. -/
def execBar2Access (p off : Nat) (a : ExtAcc) (s : State) : Host.Outcome State Fault Refusal :=
  .next (match a with
    | .read _ => s
    | .write n v =>
      (outerPieces off n).foldl (fun s x =>
        match s.barXlate p x.1 true with
        | some pa => s.outerWrite p pa (.bytes x.2.1 (v.toNat / 2 ^ (8 * x.2.2)))
        | none => s) s)

/-- An AtomicOp of 4 or 8 bytes, or a CAS of 4, 8 or 16, at its home. -/
def State.outerAtom (s : State) (part pa : Nat) (a : ExtAtom) : State :=
  let ty (n : Nat) : Ty := if n = 4 then .n32 else .n64
  match a with
  | .fetchAdd n v => if n = 4 || n = 8 then s.outerWrite part pa (.atom 0 (ty n) n [v.toNat]) else s
  | .swap n v => if n = 4 || n = 8 then s.outerWrite part pa (.atom 9 (ty n) n [v.toNat]) else s
  | .cas n cmp new =>
    if (n = 4 || n = 8 || n = 16) && s.rd pa n = cmp.toNat % 2 ^ (8 * n) then
      s.outerWrite part pa (.bytes n new.toNat)
    else s

/-- The bytes of an AtomicOp. -/
def atomSize : ExtAtom → Nat
  | .fetchAdd n _ | .swap n _ | .cas n _ _ => n

/-- HOST_ATOMICOP (R379): one that is not naturally aligned, or not mapped, is not performed. -/
def execHostAtomicop (p off : Nat) (a : ExtAtom) (s : State) : Host.Outcome State Fault Refusal :=
  .next (match s.barXlate p off true with
    | some pa => if atomSize a != 0 && pa % atomSize a == 0 then s.outerAtom p pa a else s
    | none => s)

/-! ## Peers (R261, R381) -/

/-- What a peer's request does at its home. -/
def State.peerAct (s : State) (pa : Nat) (r : PeerReq) : State :=
  match r with
  | .acc (.read _) => s
  | .acc (.write n v) =>
    (outerPieces pa n).foldl (fun s x => s.outerWrite 0 x.1 (.bytes x.2.1 (v.toNat / 2 ^ (8 * x.2.2)))) s
  | .atom aop ty n v => if n != 0 && pa % n == 0 then s.outerWrite 0 pa (.atom aop ty n [v.toNat]) else s
  | .cas n cmp new => if n != 0 && pa % n == 0 then s.outerAtom 0 pa (.cas n cmp new) else s

/-- PEER_REQUEST (R261, R381): peers see the HBM alone. -/
def execPeerRequest (pa : Nat) (r : PeerReq) (s : State) : Host.Outcome State Fault Refusal :=
  if isHbm pa then .next (s.peerAct pa r) else .fault (.reservedAddress pa)

/-! ## Links (R390) -/

/-- One bit of the CRC-64 of ECMA-182. -/
def crcBit (c : W64) (b : Bool) : W64 :=
  let x := (c.getLsbD 63) != b
  if x then (c <<< 1) ^^^ 0x42F0E1EBA9EA3693#64 else c <<< 1

/-- One byte, its highest bit first. -/
def crcByte (c : W64) (x : Byte) : W64 :=
  (List.range 8).foldl (fun c i => crcBit c (x.getLsbD (7 - i))) c

/-- The CRC of bytes. -/
def crc64 (xs : List Byte) : W64 := xs.foldl crcByte 0

/-- A flit is 256 bytes whose last eight are the CRC of the others (log 30). -/
def flitOk (xs : List Byte) : Bool := xs.length == 256 && xs.drop 248 == leBytes 8 (crc64 (xs.take 248)).toNat

/-- A change of a link. -/
def State.modLink (s : State) (k : Nat) (f : Link → Link) : State :=
  { s with links := (s.links.zipIdx).map fun x => if x.2 = k then f x.1 else x.1 }

/-- FLIT_RECEIVE (R390): a good flit is delivered and ends the sender's trouble; a bad one asks for a replay,
and takes the link down where the flit has been replayed eight times (log 30). -/
def execFlitReceive (link : Nat) (flit : List Byte) (s : State) : Host.Outcome State Fault Refusal :=
  .next (s.modLink link fun l =>
    if !l.up then l
    else if flitOk flit then { l with asked := false, replays := 0 }
    else if l.replays ≥ 8 then { l with up := false, asked := false }
    else { l with asked := true })

/-- FLIT_REPLAY (R390): a flit whose replay the receiver has asked for is sent once more; its receiver decides whether
with success. -/
def execFlitReplay (link : Nat) (s : State) : Host.Outcome State Fault Refusal :=
  .next (s.modLink link fun l =>
    if l.up && l.asked then { l with asked := false, replays := min 8 (l.replays + 1) } else l)

end Sys2Proof.Machine
end

