-- ==== Sys2Proof/Machine/Sirxo.lean ====
section
/-! DEFINITION. Sirxo: bring-up (spec/14_platform.md R391), attestation (R392), power, clock and thermal
control (R393, R394). -/

namespace Sys2Proof.Machine

/-! ## Bring-up (R391) -/

/-- Calendars in equal shares: slot i of each belongs to partition i mod 16 (log 31). -/
def equalNet : Sparse 8 := Sparse.ofList 0 ((List.range 512).map fun i => BitVec.ofNat 8 (i % 16))

def equalMem : Sparse 8 :=
  Sparse.ofList 0 ((List.range 512).map fun i => BitVec.ofNat 8 (2 * i % 16 + 16 * ((2 * i + 1) % 16)))

/-- The 18 links, up (R390, R391). -/
def upLinks : List Link := List.replicate 18 { Link.reset with up := true }

/-- A good image brings the package up; a refused one leaves recovery. -/
def State.boot (s : State) : State :=
  if s.sirxo.imageOk then
    { s with calnet := equalNet, calmem := equalMem, links := upLinks,
             sirxo := { s.sirxo with booted := true, recovery := false, shutdown := false } }
  else { s with sirxo := { s.sirxo with booted := false, recovery := true } }

/-- SIRXO_BOOT (R391). -/
def execSirxoBoot (s : State) : Host.Outcome State Fault Refusal :=
  .next (if s.sirxo.booted && !s.sirxo.shutdown then s else s.boot)

/-! ## Attestation (R392) -/

/-- What measurement block 3 covers: the calendars, and the pool quota and SIGNREQ of every partition. -/
def State.config (s : State) : Nat :=
  joinBits [(4096, Sparse.getLE s.calnet 0 512), (4096, Sparse.getLE s.calmem 0 512),
    (512, joinBits ((List.range 16).map fun p => (32, (s.part p).quota.toNat))),
    (16, joinBits ((List.range 16).map fun p => (1, (s.part p).signreq.toNat)))]

/-- The blocks that a function measures (R392): a digest of the boot ROM, of the firmware image and of the
configuration, and DEVIDENT. Each carries what it covers, so that block 3 changes when its registers do. -/
def State.blocks (s : State) (p : Nat) : List Measurement :=
  [{ index := 1, covers := Config.romData, value := (Config.sm3 Config.romData).toNat },
   { index := 2, covers := Config.imageData, value := (Config.sm3 Config.imageData).toNat },
   { index := 3, covers := s.config, value := (Config.sm3 s.config).toNat },
   { index := 4, covers := devident p, value := devident p }]

/-- A function's mailbox takes an answer. -/
def State.answerDoe (s : State) (p : Nat) (a : SpdmAnswer) : State :=
  { s with sirxo := { s.sirxo with doe := upsert (fun x => x.1 == p) (p, a) s.sirxo.doe } }

/-- GET_VERSION (R392): SPDM 1.2 and 1.3. -/
def execGetVersion (p : Nat) (s : State) : Host.Outcome State Fault Refusal :=
  .next (s.answerDoe p (.version [0x12, 0x13]))

/-- GET_CAPABILITIES (R392). -/
def execGetCapabilities (p : Nat) (s : State) : Host.Outcome State Fault Refusal :=
  .next (s.answerDoe p (.capabilities Config.spdmCaps))

/-- NEGOTIATE_ALGORITHMS (R392). -/
def execNegotiateAlgorithms (p : Nat) (s : State) : Host.Outcome State Fault Refusal :=
  .next (s.answerDoe p (.algorithms .sm2P256 .sm3_256))

/-- GET_DIGESTS (R392). -/
def execGetDigests (p : Nat) (s : State) : Host.Outcome State Fault Refusal :=
  .next (s.answerDoe p (.digests (Config.sm3 (Config.certChain p))))

/-- GET_CERTIFICATE (R392). -/
def execGetCertificate (p : Nat) (s : State) : Host.Outcome State Fault Refusal :=
  .next (s.answerDoe p (.certificate (Config.certChain p)))

/-- CHALLENGE (R392): the device identity key signs the nonce. -/
def execChallenge (p : Nat) (nonce : BitVec 256) (s : State) : Host.Outcome State Fault Refusal :=
  .next (s.answerDoe p (.challengeAuth nonce.toNat (Config.sm2 nonce.toNat)))

/-- GET_MEASUREMENTS (R392). -/
def execGetMeasurements (p : Nat) (s : State) : Host.Outcome State Fault Refusal :=
  .next (s.answerDoe p (.measurements (s.blocks p)))

/-! ## Power (R393, R394) -/

/-- The arithmetic clock that a sample allows: a step of 25 MHz down above the limit or at 105 °C, and up once
power is 3 % below it. -/
def Sirxo.clock (x : Sirxo) (m : PowerMeasure) : Nat :=
  if m.watts > x.plimit || m.tj ≥ 840 then max 625 (x.throttle - 25)
  else if 100 * m.watts ≤ 97 * x.plimit then min 1250 (x.throttle + 25)
  else x.throttle

/-- A PREEMPT or a host KILL has been accepted and its halt is not complete: the arithmetic clock runs at
1.25 GHz (R393). -/
def State.raised (s : State) : Bool :=
  s.parts.any fun e => e.2.cmds.any fun c => c.op == 2 || (c.op == 3 && !(c.begun && s.haltDone e.1))

/-- The arithmetic clock, in MHz (R393). -/
def State.arithClock (s : State) : Nat := if s.raised then 1250 else s.sirxo.throttle

/-- POWER_SAMPLE (R393, R394): CLKNOW shows the clock as it then is. -/
def execPowerSample (m : PowerMeasure) (s : State) : Host.Outcome State Fault Refusal :=
  .next { s with sirxo := { s.sirxo with
    throttle := s.sirxo.clock m, clknow := if s.raised then 1250 else s.sirxo.clock m,
    pnow := m.watts, icore := m.icore, tjmax := m.tj, hbmw := m.hbm } }

/-- THERMAL_SHUTDOWN (R393): at 115 °C every launch of every partition is killed with end status 2, and the
cores are held in reset. -/
def execThermalShutdown (s : State) : Host.Outcome State Fault Refusal :=
  if s.sirxo.tjmax < 920 then .next s
  else
    let s := (List.range 16).foldl (fun s p => (s.startAccepted p).killAll p 2) s
    .next { s with sirxo := { s.sirxo with shutdown := true } }

end Sys2Proof.Machine
end

