-- ==== Sys2Proof/Machine/Dispatch.lean ====
section
/-! DEFINITION. The meaning of every instruction and step: one arm each. -/

namespace Sys2Proof.Machine

/-- What an instruction or step does. -/
def exec (i : Instr) (s : State) : Host.Outcome State Fault Refusal :=
  match i with
  | .iadd h f => Sys2Proof.Machine.execIadd h f s
  | .isub h f => Sys2Proof.Machine.execIsub h f s
  | .imul h f => Sys2Proof.Machine.execImul h f s
  | .imulhi h f => Sys2Proof.Machine.execImulhi h f s
  | .imad h f => Sys2Proof.Machine.execImad h f s
  | .imin h f => Sys2Proof.Machine.execImin h f s
  | .imax h f => Sys2Proof.Machine.execImax h f s
  | .iabs h f => Sys2Proof.Machine.execIabs h f s
  | .icmp h f => Sys2Proof.Machine.execIcmp h f s
  | .isel h f => Sys2Proof.Machine.execIsel h f s
  | .andL h f => Sys2Proof.Machine.execAnd h f s
  | .orL h f => Sys2Proof.Machine.execOr h f s
  | .xorL h f => Sys2Proof.Machine.execXor h f s
  | .notL h f => Sys2Proof.Machine.execNot h f s
  | .tern h f => Sys2Proof.Machine.execTern h f s
  | .shl h f => Sys2Proof.Machine.execShl h f s
  | .shr h f => Sys2Proof.Machine.execShr h f s
  | .sha h f => Sys2Proof.Machine.execSha h f s
  | .fshl h f => Sys2Proof.Machine.execFshl h f s
  | .fshr h f => Sys2Proof.Machine.execFshr h f s
  | .popc h f => Sys2Proof.Machine.execPopc h f s
  | .clz h f => Sys2Proof.Machine.execClz h f s
  | .brev h f => Sys2Proof.Machine.execBrev h f s
  | .bfx h f => Sys2Proof.Machine.execBfx h f s
  | .bfi h f => Sys2Proof.Machine.execBfi h f s
  | .bsel h f => Sys2Proof.Machine.execBsel h f s
  | .mov h f => Sys2Proof.Machine.execMov h f s
  | .movi h f => Sys2Proof.Machine.execMovi h f s
  | .movw h f => Sys2Proof.Machine.execMovw h f s
  | .laneid h f => Sys2Proof.Machine.execLaneid h f s
  | .xlane h f => Sys2Proof.Machine.execXlane h f s
  | .vote h f => Sys2Proof.Machine.execVote h f s
  | .plop h f => Sys2Proof.Machine.execPlop h f s
  | .pmov h f => Sys2Proof.Machine.execPmov h f s
  | .lnset h f => Sys2Proof.Machine.execLnset h f s
  | .lnadv h f => Sys2Proof.Machine.execLnadv h f s
  | .lnget h f => Sys2Proof.Machine.execLnget h f s
  | .coef h f => Sys2Proof.Machine.execCoef h f s
  | .addr h f => Sys2Proof.Machine.execAddr h f s
  | .rep h f => Sys2Proof.Machine.execRep h f s
  | .fadd h f => Sys2Proof.Machine.execFadd h f s
  | .fsub h f => Sys2Proof.Machine.execFsub h f s
  | .fmul h f => Sys2Proof.Machine.execFmul h f s
  | .ffma h f => Sys2Proof.Machine.execFfma h f s
  | .fmin num h f => Sys2Proof.Machine.execFmin num h f s
  | .fmax num h f => Sys2Proof.Machine.execFmax num h f s
  | .fcmp h f => Sys2Proof.Machine.execFcmp h f s
  | .fclass h f => Sys2Proof.Machine.execFclass h f s
  | .frcp h f => Sys2Proof.Machine.execFrcp h f s
  | .frsq h f => Sys2Proof.Machine.execFrsq h f s
  | .fsqrt h f => Sys2Proof.Machine.execFsqrt h f s
  | .fdiv h f => Sys2Proof.Machine.execFdiv h f s
  | .fexp2 h f => Sys2Proof.Machine.execFexp2 h f s
  | .flog2 h f => Sys2Proof.Machine.execFlog2 h f s
  | .fsin h f => Sys2Proof.Machine.execFsin h f s
  | .fcos h f => Sys2Proof.Machine.execFcos h f s
  | .ftanh h f => Sys2Proof.Machine.execFtanh h f s
  | .frnd h f => Sys2Proof.Machine.execFrnd h f s
  | .fscale h f => Sys2Proof.Machine.execFscale h f s
  | .hadd2 h f => Sys2Proof.Machine.execHadd2 h f s
  | .hmul2 h f => Sys2Proof.Machine.execHmul2 h f s
  | .hfma2 h f => Sys2Proof.Machine.execHfma2 h f s
  | .hmin2 h f => Sys2Proof.Machine.execHmin2 h f s
  | .hmax2 h f => Sys2Proof.Machine.execHmax2 h f s
  | .ffmaw h f => Sys2Proof.Machine.execFfmaw h f s
  | .cvtFf h f => Sys2Proof.Machine.execCvtFf h f s
  | .cvtFi h f => Sys2Proof.Machine.execCvtFi h f s
  | .cvtIf h f => Sys2Proof.Machine.execCvtIf h f s
  | .cvtIi h f => Sys2Proof.Machine.execCvtIi h f s
  | .cvtPack h f => Sys2Proof.Machine.execCvtPack h f s
  | .cvtUnpack h f => Sys2Proof.Machine.execCvtUnpack h f s
  | .cvtb h f => Sys2Proof.Machine.execCvtb h f s
  | .unpk h f => Sys2Proof.Machine.execUnpk h f s
  | .dot16 h f => Sys2Proof.Machine.execDot16 h f s
  | .dot4 h f => Sys2Proof.Machine.execDot4 h f s
  | .dot8 h f => Sys2Proof.Machine.execDot8 h f s
  | .fmtset h f => Sys2Proof.Machine.execFmtset h f s
  | .fmtget h f => Sys2Proof.Machine.execFmtget h f s
  | .fmtmod h f => Sys2Proof.Machine.execFmtmod h f s
  | .dith h f => Sys2Proof.Machine.execDith h f s
  | .fsigm h f => Sys2Proof.Machine.execFsigm h f s
  | .ferf h f => Sys2Proof.Machine.execFerf h f s
  | .bra h f => Sys2Proof.Machine.execBra h f s
  | .brc h f => Sys2Proof.Machine.execBrc h f s
  | .mbr h f => Sys2Proof.Machine.execMbr h f s
  | .jmpi h f => Sys2Proof.Machine.execJmpi h f s
  | .call h f => Sys2Proof.Machine.execCall h f s
  | .callIndirect h f => Sys2Proof.Machine.execCallIndirect h f s
  | .ret h f => Sys2Proof.Machine.execRet h f s
  | .exit h f => Sys2Proof.Machine.execExit h f s
  | .nop h f => Sys2Proof.Machine.execNop h f s
  | .yield h f => Sys2Proof.Machine.execYield h f s
  | .emrget h f => Sys2Proof.Machine.execEmrget h f s
  | .emrset h f => Sys2Proof.Machine.execEmrset h f s
  | .join h f => Sys2Proof.Machine.execJoin h f s
  | .rfenter h f => Sys2Proof.Machine.execRfenter h f s
  | .refill h f => Sys2Proof.Machine.execRefill h f s
  | .refillLast h f => Sys2Proof.Machine.execRefillLast h f s
  | .rfinfo h f => Sys2Proof.Machine.execRfinfo h f s
  | .rfexit h f => Sys2Proof.Machine.execRfexit h f s
  | .waitf h f => Sys2Proof.Machine.execWaitf h f s
  | .brx h f => Sys2Proof.Machine.execBrx h f s
  | .loop h f => Sys2Proof.Machine.execLoop h f s
  | .splitq h f => Sys2Proof.Machine.execSplitq h f s
  | .rfskip h f => Sys2Proof.Machine.execRfskip h f s
  | .setpri h f => Sys2Proof.Machine.execSetpri h f s
  | .ld h f => Sys2Proof.Machine.execLd h f s
  | .st h f => Sys2Proof.Machine.execSt h f s
  | .ldro h f => Sys2Proof.Machine.execLdro h f s
  | .prefL1 h f => Sys2Proof.Machine.execPrefL1 h f s
  | .prefDie h f => Sys2Proof.Machine.execPrefDie h f s
  | .acopy sl dl h f => Sys2Proof.Machine.execAcopy sl dl h f s
  | .agather h f => Sys2Proof.Machine.execAgather h f s
  | .ascatter h f => Sys2Proof.Machine.execAscatter h f s
  | .acoll h f => Sys2Proof.Machine.execAcoll h f s
  | .afill h f => Sys2Proof.Machine.execAfill h f s
  | .bankrole h f => Sys2Proof.Machine.execBankrole h f s
  | .bankq h f => Sys2Proof.Machine.execBankq h f s
  | .cinvSys h f => Sys2Proof.Machine.execCinvSys h f s
  | .cinvRo h f => Sys2Proof.Machine.execCinvRo h f s
  | .zline h f => Sys2Proof.Machine.execZline h f s
  | .xprobe h f => Sys2Proof.Machine.execXprobe h f s
  | .toktest h f => Sys2Proof.Machine.execToktest h f s
  | .atom h f => Sys2Proof.Machine.execAtom h f s
  | .red h f => Sys2Proof.Machine.execRed h f s
  | .cas h f => Sys2Proof.Machine.execCas h f s
  | .bar h f => Sys2Proof.Machine.execBar h f s
  | .barArrive h f => Sys2Proof.Machine.execBarArrive h f s
  | .barWait h f => Sys2Proof.Machine.execBarWait h f s
  | .gbar h f => Sys2Proof.Machine.execGbar h f s
  | .lcadd h f => Sys2Proof.Machine.execLcadd h f s
  | .lcread h f => Sys2Proof.Machine.execLcread h f s
  | .lcmerge h f => Sys2Proof.Machine.execLcmerge h f s
  | .lcbase h f => Sys2Proof.Machine.execLcbase h f s
  | .lcseed h f => Sys2Proof.Machine.execLcseed h f s
  | .opclaim h f => Sys2Proof.Machine.execOpclaim h f s
  | .oprel h f => Sys2Proof.Machine.execOprel h f s
  | .opfill glob h f => Sys2Proof.Machine.execOpfill glob h f s
  | .layout h f => Sys2Proof.Machine.execLayout h f s
  | .bankcnt h f => Sys2Proof.Machine.execBankcnt h f s
  | .mma ovr h f => Sys2Proof.Machine.execMma ovr h f s
  | .mmas ovr h f => Sys2Proof.Machine.execMmas ovr h f s
  | .accld loc h f => Sys2Proof.Machine.execAccld loc h f s
  | .accst loc h f => Sys2Proof.Machine.execAccst loc h f s
  | .acczero h f => Sys2Proof.Machine.execAcczero h f s
  | .acccvt rs h f => Sys2Proof.Machine.execAcccvt rs h f s
  | .accscale h f => Sys2Proof.Machine.execAccscale h f s
  | .attn full h f => Sys2Proof.Machine.execAttn full h f s
  | .smerge h f => Sys2Proof.Machine.execSmerge h f s
  | .kvgather h f => Sys2Proof.Machine.execKvgather h f s
  | .kvappend h f => Sys2Proof.Machine.execKvappend h f s
  | .seqcommit h f => Sys2Proof.Machine.execSeqcommit h f s
  | .seqcommitFork h f => Sys2Proof.Machine.execSeqcommitFork h f s
  | .seqcommitRel h f => Sys2Proof.Machine.execSeqcommitRel h f s
  | .seqinfo h f => Sys2Proof.Machine.execSeqinfo h f s
  | .tspawn nb h f => Sys2Proof.Machine.execTspawn nb h f s
  | .twait nb h f => Sys2Proof.Machine.execTwait nb h f s
  | .tfillFut h f => Sys2Proof.Machine.execTfillFut h f s
  | .tfillSig h f => Sys2Proof.Machine.execTfillSig h f s
  | .tinfo h f => Sys2Proof.Machine.execTinfo h f s
  | .tyield h f => Sys2Proof.Machine.execTyield h f s
  | .tcancel h f => Sys2Proof.Machine.execTcancel h f s
  | .enq nb h f => Sys2Proof.Machine.execEnq nb h f s
  | .deq nb h f => Sys2Proof.Machine.execDeq nb h f s
  | .qstat h f => Sys2Proof.Machine.execQstat h f s
  | .qcreate h f => Sys2Proof.Machine.execQcreate h f s
  | .qcreateFree h f => Sys2Proof.Machine.execQcreateFree h f s
  | .launch h f => Sys2Proof.Machine.execLaunch h f s
  | .launchAgg h f => Sys2Proof.Machine.execLaunchAgg h f s
  | .sibjoin h f => Sys2Proof.Machine.execSibjoin h f s
  | .sibleave h f => Sys2Proof.Machine.execSibleave h f s
  | .ballot h f => Sys2Proof.Machine.execBallot h f s
  | .canchk h f => Sys2Proof.Machine.execCanchk h f s
  | .sibinfo h f => Sys2Proof.Machine.execSibinfo h f s
  | .nestset h f => Sys2Proof.Machine.execNestset h f s
  | .fenceAcq h f => Sys2Proof.Machine.execFenceAcq h f s
  | .fenceRel h f => Sys2Proof.Machine.execFenceRel h f s
  | .fenceAcqrel h f => Sys2Proof.Machine.execFenceAcqrel h f s
  | .srget sys h f => Sys2Proof.Machine.execSrget sys h f s
  | .srset sys h f => Sys2Proof.Machine.execSrset sys h f s
  | .trap h f => Sys2Proof.Machine.execTrap h f s
  | .bkpt h f => Sys2Proof.Machine.execBkpt h f s
  | .timeget h f => Sys2Proof.Machine.execTimeget h f s
  | .detphase h f => Sys2Proof.Machine.execDetphase h f s
  | .detq h f => Sys2Proof.Machine.execDetq h f s
  | .tlbinv h f => Sys2Proof.Machine.execTlbinv h f s
  | .halt h f => Sys2Proof.Machine.execHalt h f s
  | .sleep h f => Sys2Proof.Machine.execSleep h f s
  | .ctxsave h f => Sys2Proof.Machine.execCtxsave h f s
  | .ctxrest h f => Sys2Proof.Machine.execCtxrest h f s
  | .eret h f => Sys2Proof.Machine.execEret h f s
  | .lineEntry => Sys2Proof.Machine.execLineEntry s
  | .instructionCompletion a => Sys2Proof.Machine.execInstructionCompletion a s
  | .loadDataReturn a => Sys2Proof.Machine.execLoadDataReturn a s
  | .leaseGrant a b => Sys2Proof.Machine.execLeaseGrant a b s
  | .storePerform a => Sys2Proof.Machine.execStorePerform a s
  | .storeAcknowledgement a => Sys2Proof.Machine.execStoreAcknowledgement a s
  | .atomicBatch a b => Sys2Proof.Machine.execAtomicBatch a b s
  | .walkComplete a => Sys2Proof.Machine.execWalkComplete a s
  | .engineStart a b => Sys2Proof.Machine.execEngineStart a b s
  | .tokenWrite a => Sys2Proof.Machine.execTokenWrite a s
  | .matrixBegin a => Sys2Proof.Machine.execMatrixBegin a s
  | .retireAtEnd => Sys2Proof.Machine.execRetireAtEnd s
  | .refillCursorAdvance a => Sys2Proof.Machine.execRefillCursorAdvance a s
  | .phaseEnd a => Sys2Proof.Machine.execPhaseEnd a s
  | .futureWake a => Sys2Proof.Machine.execFutureWake a s
  | .taskStart a b => Sys2Proof.Machine.execTaskStart a b s
  | .cancellationDelivery a => Sys2Proof.Machine.execCancellationDelivery a s
  | .aggregationWindowClose a => Sys2Proof.Machine.execAggregationWindowClose a s
  | .lwtExpiry a b => Sys2Proof.Machine.execLwtExpiry a b s
  | .copseAdmission a b c => Sys2Proof.Machine.execCopseAdmission a b c s
  | .copseRestore a b c => Sys2Proof.Machine.execCopseRestore a b c s
  | .sleepExpiry a => Sys2Proof.Machine.execSleepExpiry a s
  | .yieldExpiry a => Sys2Proof.Machine.execYieldExpiry a s
  | .launchCompletion a => Sys2Proof.Machine.execLaunchCompletion a s
  | .instanceClose a b c => Sys2Proof.Machine.execInstanceClose a b c s
  | .doorbell a b c => Sys2Proof.Machine.execDoorbell a b c s
  | .ext a b => Sys2Proof.Machine.execExt a b s
  | .launchCommand a b => Sys2Proof.Machine.execLaunchCommand a b s
  | .kill a b => Sys2Proof.Machine.execKill a b s
  | .preempt a b => Sys2Proof.Machine.execPreempt a b s
  | .preemptSave a => Sys2Proof.Machine.execPreemptSave a s
  | .restore a b => Sys2Proof.Machine.execRestore a b s
  | .replyResume a b => Sys2Proof.Machine.execReplyResume a b s
  | .replyKill a b => Sys2Proof.Machine.execReplyKill a b s
  | .tlbinvCommand a b => Sys2Proof.Machine.execTlbinvCommand a b s
  | .comm a b => Sys2Proof.Machine.execComm a b s
  | .nopCommand a b => Sys2Proof.Machine.execNopCommand a b s
  | .map a b => Sys2Proof.Machine.execMap a b s
  | .mapPublish a b => Sys2Proof.Machine.execMapPublish a b s
  | .fqhead a b => Sys2Proof.Machine.execFqhead a b s
  | .cqhead a b c => Sys2Proof.Machine.execCqhead a b c s
  | .errstat a b => Sys2Proof.Machine.execErrstat a b s
  | .partitionRegisterWrite a b c => Sys2Proof.Machine.execPartitionRegisterWrite a b c s
  | .functionLevelReset a => Sys2Proof.Machine.execFunctionLevelReset a s
  | .bar2Access a b c => Sys2Proof.Machine.execBar2Access a b c s
  | .hostAtomicop a b c => Sys2Proof.Machine.execHostAtomicop a b c s
  | .peerRequest a b => Sys2Proof.Machine.execPeerRequest a b s
  | .flitReceive a b => Sys2Proof.Machine.execFlitReceive a b s
  | .flitReplay a => Sys2Proof.Machine.execFlitReplay a s
  | .sirxoBoot => Sys2Proof.Machine.execSirxoBoot s
  | .getVersion a => Sys2Proof.Machine.execGetVersion a s
  | .getCapabilities a => Sys2Proof.Machine.execGetCapabilities a s
  | .negotiateAlgorithms a => Sys2Proof.Machine.execNegotiateAlgorithms a s
  | .getDigests a => Sys2Proof.Machine.execGetDigests a s
  | .getCertificate a => Sys2Proof.Machine.execGetCertificate a s
  | .challenge a b => Sys2Proof.Machine.execChallenge a b s
  | .getMeasurements a => Sys2Proof.Machine.execGetMeasurements a s
  | .powerSample a => Sys2Proof.Machine.execPowerSample a s
  | .thermalShutdown => Sys2Proof.Machine.execThermalShutdown s

end Sys2Proof.Machine
end

