-- ==== Sys2Proof/Machine/Schedule.lean ====
section
/-! DEFINITION. The turn of the device: which bough of a quadrant issues (spec/01_machine.md R26), the order in
which the agenda lets things happen, and what happens where it is empty (log 2). -/

namespace Sys2Proof.Machine

/-! ## Issue arbitration (R26) -/

/-- What the turn of the focus bough leads to. -/
def State.tryTurn (s : State) : State :=
  match s.boughPlan with
  | .next t => t
  | .run i t =>
    match exec i t with
    | .next u => u
    | _ => t

/-- A bough is ready: its next instruction has no unmet wait, of its line's WM, its scoreboard or its own (R26). -/
def State.isReady (s : State) (b : Bough) : Bool :=
  let t := (s.focus b.uid).modB fun b => { b with ready := 1 }
  t.mayIssue && !b.wait.parked && !t.held t.tryTurn

/-- The boughs resident on the quadrant of a bough (R25, R139). -/
def State.quadrant (s : State) (b : Bough) : List Bough :=
  s.allBoughs.filter fun x =>
    x.core == b.core && x.slot / 12 == b.slot / 12 && (x.status == .running || x.status == .ended)

/-- The class and the age of a bough: the lower comes first (R26, rule 2). -/
def State.rank (s : State) (b : Bough) : List Nat :=
  [3 - b.setpri.toNat, ((s.copseOf b).map fun c => c.adm).getD 0,
   (s.launches.takeWhile fun l => !(l.part == b.part && l.id == b.launch)).length, b.cid, b.idx]

/-- The lexicographic order. -/
def lexLess : List Nat → List Nat → Bool
  | x :: xs, y :: ys => x < y || (x == y && lexLess xs ys)
  | _, _ => false

/-- The bough of a list whose rank comes first. -/
def State.foremost (s : State) (bs : List Bough) : Option Bough :=
  bs.foldl (fun o b =>
    match o with
    | none => some b
    | some x => if lexLess (s.rank b) (s.rank x) then some b else some x) none

/-- The bough that a quadrant picks among its ready ones (R26): first, those ready for three cycles or more for
each bough that it holds, the longest first; else by class and age. -/
def State.pick (s : State) (q : List Bough) : Option Bough :=
  let r := q.filter fun b => s.isReady b
  let late := r.filter fun b => b.ready ≥ 3 * q.length
  let most := late.foldl (fun n b => max n b.ready) 0
  s.foremost (if late.isEmpty then r else late.filter fun b => b.ready == most)

/-- The focus goes to the bough that issues next on the quadrant of a bough; where none is ready, to that bough
itself, whose turn then finds it waiting. -/
def State.turnOf (s : State) (uid : Nat) : State :=
  match s.bough uid with
  | none => s.focus uid
  | some b =>
    let q := s.quadrant b
    if q.length ≤ 1 then s.focus uid else s.focus (((s.pick q).map fun x => x.uid).getD uid)

/-- `n` cycles pass: each ready bough has been ready for as many more (R26). -/
def State.countReady (s : State) (n : Nat) : State :=
  let r := (s.allBoughs.filter fun b => s.isReady b).map fun b => b.uid
  s.modBoughs (fun _ => true) fun b => { b with ready := if r.contains b.uid then b.ready + n else 0 }

/-! ## What may go on -/

/-- The steps of loads, stores, atomics and walks in flight. -/
def State.flightSteps (s : State) : List Instr :=
  (s.infl.map fun x => Instr.instructionCompletion x.id) ++
  (s.loads.flatMap fun x => (List.range x.acc.length).map (fun j => Instr.leaseGrant x.id j) ++ [.loadDataReturn x.id]) ++
  (s.stores.map fun x => Instr.storePerform x.id) ++ (s.acks.map fun x => Instr.storeAcknowledgement x.id) ++
  (s.atoms.flatMap fun x =>
    (List.range x.groups.length).map (fun g => Instr.atomicBatch x.id g) ++ [.loadDataReturn x.id]) ++
  s.walks.map fun w => Instr.walkComplete w.id

/-- The steps of engines and of matrix queues. -/
def State.unitSteps (s : State) : List Instr :=
  s.cores.flatMap fun e =>
    (e.2.ops.map fun o => if o.status = 0xFF then Instr.engineStart o.id 16 else .tokenWrite o.id) ++
    e.2.mq.map fun m => Instr.matrixBegin m.id

/-- The steps that reach boughs from outside them. -/
def State.wakeSteps (s : State) : List Instr :=
  ((s.watches.filter fun w => w.ready).map fun w => Instr.futureWake w.id) ++
  (s.cancels.map fun c => Instr.cancellationDelivery c.id) ++
  s.allBoughs.filterMap fun b =>
    match b.wait with
    | .sleep _ => some (Instr.sleepExpiry b.uid)
    | .yield _ => some (.yieldExpiry b.uid)
    | .inst g => some (.instanceClose b.launch b.cid ((Sparse.get b.rjoined g).toNat - 1))
    | _ => none

/-- The Canopy's steps for a launch. -/
def State.launchSteps (s : State) (l : Launch) : List Instr :=
  let k := lkey l.part l.id
  let next : List Instr :=
    if !l.waiting then []
    else
      match s.nextPlace l with
      | some p => if l.desc.task then [.taskStart k p] else [.copseAdmission k l.started.length p]
      | none => []
  next ++ (if l.desc.det then [.phaseEnd k] else []) ++ (if l.isOver then [.launchCompletion k] else [])

/-- The Canopy's steps for a copse. -/
def State.copseSteps (s : State) (c : Copse) : List Instr :=
  let k := lkey c.part c.launch
  match c.at_ with
  | .resident => if s.mayEvict c then [.lwtExpiry k c.cid] else []
  | .saved _ =>
    match (s.launch c.part c.launch).bind fun l => s.restorePlace l c with
    | some p => if c.event = 0 then [] else [.copseRestore k c.cid p]
    | none => []
  | .ended => []

/-- The step that performs a command. -/
def Cmd.step (p : Nat) (c : Cmd) : Instr :=
  match c.op with
  | 0 => .ext p c.q
  | 1 => if c.flags = 1 && c.ext.isNone then .ext p c.q else .launchCommand p c.q
  | 2 => .kill p c.q
  | 3 => .preempt p c.q
  | 4 => .restore p c.q
  | 5 => if c.a1.toNat / 2 ^ 32 = 0 then .replyResume p c.q else .replyKill p c.q
  | 6 => .tlbinvCommand p c.q
  | 7 => .comm p c.q
  | 8 => .nopCommand p c.q
  | _ => if c.begun then .mapPublish p c.q else .map p c.q

/-- The steps of a partition's commands. -/
def State.hostSteps (s : State) : List Instr :=
  s.parts.flatMap fun e =>
    (e.2.cmds.map fun c => c.step e.1) ++ if e.2.halted then [.preemptSave e.1] else []

/-- Every step that may have something to do. -/
def State.allSteps (s : State) : List Instr :=
  s.flightSteps ++ s.unitSteps ++ s.wakeSteps ++ (s.launches.flatMap fun l => s.launchSteps l) ++
    (s.copses.flatMap fun c => s.copseSteps c) ++
    (s.wins.map fun w => Instr.aggregationWindowClose w.id) ++ s.hostSteps

/-- The one whose turn it is: they take turns as `n` rises. -/
def State.pending (s : State) (n : Nat) : Option Instr :=
  let l := s.allSteps
  l[n % l.length]?

/-! ## The turn -/

/-- The focus goes to the next bough. -/
def State.rotate (s : State) : State :=
  match s.boughs with
  | [] => s
  | x :: rest => { s with b := x, boughs := if s.b.uid = 0 then rest else rest ++ [s.b] }

/-- Cycles pass, ended boughs are released, and copses whose event has arrived are queued. -/
def State.tick (s : State) (dt : Nat) : State :=
  ({ s with time := s.time + dt + 1 }.countReady (dt + 1)).reap.queueRestores

/-- The focus bough has something to issue. -/
def State.mayTurn (s : State) : Bool := s.b.status == .running && s.b.wait == .none

/-- What the next turn does. With an empty agenda the quadrant of the focus bough issues, in 62 of every 64
cycles; in the others, and while that bough waits, the other steps go on in even cycles and the focus moves on
in odd ones, so that every quadrant and every step has its turn (R30, log 2). -/
def State.plan (s : State) : Plan :=
  match s.agenda with
  | t :: rest =>
    let s := { s with agenda := rest }.tick t.dt
    match t.act with
    | .issue uid => (s.turnOf uid).boughPlan
    | .ev i => .run i s
    | .eccError line => .next (s.spoil line)
    | .hostWrite a bytes =>
      .next ((bytes.zipIdx).foldl (fun s x => s.poke 0 (hostBase + a + x.2) 1 x.1.toNat) s)
  | [] =>
    let s := s.tick 0
    let onward : Plan := (s.rotate.turnOf s.rotate.b.uid).boughPlan
    if s.mayTurn && s.time % 64 < 62 then (s.turnOf s.b.uid).boughPlan
    else
      match s.pending (if s.mayTurn then s.time / 64 else s.time / 2) with
      | some i => if s.time % 2 = 0 then .run i s else onward
      | none => onward

end Sys2Proof.Machine
end

