-- ==== Sys2Proof/Machine/Step.lean ====
section
/-! DEFINITION. One step of the device: its next turn, and the instruction or step that the turn runs. -/

namespace Sys2Proof.Machine

/-- One step. -/
def step (s : State) : Host.Outcome State Fault Refusal :=
  match s.plan with
  | .next t => .next t
  | .run i t => exec i t

/-- The descriptor of a launch that holds one bough (R82). -/
def oneDesc : Desc where
  entry := 0
  regs := 256
  copse := 1
  scrb := 0
  fifb := 0
  det := false
  racechk := false
  cosched := false
  task := false
  fmt0 := 0
  lease := 0
  nlive := 0
  live := []
  regions := []

/-- The launch, the copse and the bough that a word runs in where no bough has the focus (log 7). -/
def State.withBough (s : State) : State :=
  if s.b.status = .running then s
  else
    let l : Launch :=
      { id := 0, part := 0, desc := oneDesc, param := 0, ncopses := 1, prog := 0, origin := .host 0 0,
        started := [0], killed := false, endst := 0, faultseq := 0,
        haltcode := 0, phases := 0, tokens := 0, bytes := 0, iters := 0, ckilled := 0, cdone := 0,
        garr := [], ggen := 0, phaseWait := none, evAll := 0, evNow := 0, lastev := 0, caught := [],
        races := [], entryq := [], tasks := [], cancelled := [], insts := [], wlast := 0,
        onCores := [], order := 0 }
    let c : Copse :=
      { launch := 0, cid := 0, part := 0, core := 0, at_ := .resident, adm := s.time, scr := 0, scrn := 0, fif := 0,
        fifn := 0, bars := [], queues := [], written := 0, insts := [], ctxbase := 0, reason := 0, event := 0,
        tsave := 0, bankImage := [], bankBytes := [], slotImage := [], tileImage := [], ops := [], mq := [] }
    { s with launches := s.launches ++ [l], copses := s.copses ++ [c],
             b := { Bough.blank with uid := s.nuid, status := .running, nregs := 256,
                                     emr := 0xFFFFFFFF#32, live := 0xFFFFFFFF#32 },
             nuid := s.nuid + 1 }

/-- The line that holds words in its first slot, or in a pair of its first two (R34, R35, R37). -/
def wordLine (lo : Nat) (hi : Option Nat) : BitVec 512 :=
  let pt := if hi.isSome then 1 else 0
  let tm := if hi.isSome then 0x1D else 0x1F
  let nop := 0x447000000000700000000000
  let body := lo + 2 ^ 96 * (hi.getD nop) + 2 ^ 192 * nop + 2 ^ 288 * nop + 2 ^ 384 * nop +
    2 ^ 480 * (2 ^ 12 * 15 + 2 ^ 16 * 15 + 2 ^ 20 * tm + 2 ^ 25 * pt)
  let body := body + 2 ^ 510 * parity 256 body
  BitVec.ofNat 512 (body + 2 ^ 511 * parity 256 (body / 2 ^ 256))

/-- The state with an instruction in the line that the focus bough stands in, entered, and that bough ready for
longer than any other, so that the next step runs it (R26, log 7). -/
def State.withFetchWord (s : State) (nbits w : Nat) : State :=
  let s := s.withBough
  let (lo, hi) := tableWords nbits w
  let ready := s.boughs.foldl (fun n b => n + b.ready) 144
  { s with agenda := [{ dt := 0, act := .issue s.b.uid }], sirxo := { s.sirxo with booted := true, shutdown := false },
           b := { s.b with pc := lineAddr s.b.pc, entered := true, checkTM := false, wait := .none, ready,
                           line := some { addr := lineAddr s.b.pc, bits := wordLine lo hi },
                           rep := none, stack := [], refill := none } }

end Sys2Proof.Machine
end

