-- ==== Sys2Proof/Safety.lean ====
section
/-! DEFINITION. What claims are stated in: the canonical form of memory, when an instruction issues, and
what an instruction leaves unchanged. -/

namespace Sys2Proof.Machine

/-! ## Memory and steps -/

/-- Memory is in its canonical form. -/
abbrev State.memOk (s : State) : Prop := Memory.wf s.mem = true

/-- A step answers a next state. -/
def State.steps (s : State) : Prop := ∃ t : State, step s = Host.Outcome.next t

/-- `k` steps from a state meet no fault and no refusal. -/
def State.safeFor (k : Nat) (s : State) : Prop :=
  ∃ t : State, Sys2Proof.core.run k s = Host.Outcome.next t

/-! ## Issue -/

/-- The state from which an issuing instruction reads its operands: its path position is taken, its flag is
busy and the PC has moved on (R36, R38, R91). -/
def State.issued (s : State) (i : Instr) : State := begin_ i true s

/-- The fields of an instruction pass the checks that come first, and nothing stops the bough before them (R42,
R62, R63, R131, R288, R354); what the launch allows is not among them. -/
structure Decoded (i : Instr) (s : State) : Prop where
  rejoined : s.b.nf = 0 ∨ isRejoin i = false
  uncancelled : (s.b.sib.any fun x => x.cancelled) = false ∨ isCancelPoint i = false
  legal : i.legal = true
  accepts : fmtAccepts s.b.fmt i = true
  flagged : (hdrOf i).fs = .none ∨ (s.b.fsFlag (hdrOf i).fs).isSome = true
  allowed : isSystem i = true → s.b.sysmode = true

/-- An instruction issues: no check before its effect stops it and nothing makes it wait (R47, R63, R131,
R151, R288, R312, R354; R26, R38, R92, R203, R209, R301). -/
structure Issues (i : Instr) (s : State) : Prop where
  /-- No lane waits at a fault that the instruction would rejoin (R131). -/
  rejoined : s.b.nf = 0 ∨ isRejoin i = false
  /-- No cancellation stops the bough here (R354). -/
  uncancelled : (s.b.sib.any fun x => x.cancelled) = false ∨ isCancelPoint i = false
  /-- The fields are those of an instruction (R42, R63). -/
  legal : i.legal = true
  /-- The instruction accepts the FMT that the bough holds (R288). -/
  accepts : fmtAccepts s.b.fmt i = true
  /-- FS names no flag, or one that the line gives (R35, R38). -/
  flagged : (hdrOf i).fs = .none ∨ (s.b.fsFlag (hdrOf i).fs).isSome = true
  /-- A system instruction runs in system mode (R62). -/
  allowed : isSystem i = true → s.b.sysmode = true
  /-- Its launch allows it: a barrier's count, a launch's kind (R255, R272, R274). -/
  lawful : s.illegalHere i = false
  /-- Every register lies in the allotment (R56). -/
  registers : s.b.badReg i = none
  /-- The guard holds in some active lane (R47). -/
  executing : s.b.guard (hdrOf i) ≠ 0
  /-- Every lane that has not exited is active, where the instruction needs that (R130). -/
  converged : needsFull i = true → s.b.fullMask = true
  /-- The bough is outside a refill region, where the instruction needs that (R151). -/
  outside : s.b.refill = none ∨ badInRefill i = false
  /-- Nothing in flight will write its operands (R26, R92, R209). -/
  ready : s.scoreboard i = false
  /-- No compare-and-swap of the bough waits to write its predicate (log 18). -/
  settled : s.predPending s.b.uid = false
  /-- No acquire of the bough is outstanding before an access (R203, R269). -/
  acquired : isMem i = true → s.acquiring s.b.uid = false
  /-- No queued matrix instruction of the bough still reads or writes LOCAL bytes (R301). -/
  tiled : isLocal i = true → s.matLocal s.b.uid = false
  /-- The flag's count can rise (R38). -/
  counted : s.b.replaying = true ∨ ((s.b.fsFlag (hdrOf i).fs).any fun n => s.b.flag n == 15) = false

/-! ## Frames -/

/-- Nothing of the device changes but the running bough, and the note of an instruction whose flag waits
for its completion. -/
def OnlyBough (s t : State) : Prop := t = { s with b := t.b, infl := t.infl, nuid := t.nuid }

/-- Of the running bough nothing changes but its vector, scalar and predicate registers and what every
issue moves: the PC and a repetition, the forwarding window, completion flags, refill phases, the wait, and
the counts of readiness. -/
def RegistersOnly (b c : Bough) : Prop :=
  c = { b with vregs := c.vregs, sregs := c.sregs, preds := c.preds,
               pc := c.pc, rep := c.rep, fw := c.fw, flags := c.flags, refill := c.refill, wait := c.wait,
               replaying := c.replaying, itok := c.itok, rtok := c.rtok, stepdone := c.stepdone,
               walkRes := c.walkRes, ready := c.ready, trapAt := c.trapAt }

/-- Predicates are those of `b` but for the lanes of `m` in PD, which take the values of `g`; with PD = 7
nothing is written (R49, R89). -/
def WritesPred (b c : Bough) (pd : Pd) (m : Mask) (g : Nat → Bool) : Prop :=
  ∀ k l : Nat, l < 32 → (c.pred k).getLsbD l =
    if pd.map (fun p => p.val) = some k ∧ m.getLsbD l = true then g l else (b.pred k).getLsbD l

/-- Scalar registers are those of `b` but for `r`, which takes `v`; s63 stays zero (R56, R89). -/
def WritesScalar (b c : Bough) (r : Nat) (v : W64) : Prop :=
  ∀ k : Nat, c.sreg k = if k = r ∧ r ≠ 63 then v else b.sreg k

/-- The `n` registers from `r` hold the words of `g l` in every lane `l` of `m`; no other banked register
changes, and none at all where the result is transient (R48, R91, R92). -/
def WritesLanes (b c : Bough) (tr : Bool) (r n : Nat) (m : Mask) (g : Nat → Nat) : Prop :=
  (∀ l j : Nat, l < 32 → j < n → m.getLsbD l = true →
    c.vreg (r + j) l = BitVec.ofNat 32 (g l / 2 ^ (32 * j))) ∧
  ∀ q l : Nat, l < 32 → (tr = true ∨ m.getLsbD l = false ∨ q < r ∨ r + n ≤ q) → c.banked q l = b.banked q l

/-- DST of a format-A instruction holds `g`: the scalar once, extended by its type, or `n` registers of
each executing lane (R89, R95). -/
def WritesA (b c : Bough) (h : Hdr) (f : FmtA) (n : Nat) (g : Nat → Nat) : Prop :=
  if f.knd.getLsbD 2 then WritesScalar b c f.dst.toNat (extScalar f.ty (g 0)) ∧ c.vregs = b.vregs
  else WritesLanes b c h.tr f.dst.toNat n (b.guard h) g ∧ c.sregs = b.sregs

/-- DST of a format-I instruction, likewise. -/
def WritesI (b c : Bough) (h : Hdr) (f : FmtI) (n : Nat) (g : Nat → Nat) : Prop :=
  if f.kndd then WritesScalar b c f.dst.toNat (extScalar f.ty (g 0)) ∧ c.vregs = b.vregs
  else WritesLanes b c h.tr f.dst.toNat n (b.guard h) g ∧ c.sregs = b.sregs

/-- DST of an instruction that has a V and an I form, each form with its own result. -/
def WritesAI (b c : Bough) (h : Hdr) (f : FmtAI) (n : FmtA → Nat) (g : FmtA → Nat → Nat) (g' : FmtI → Nat → Nat) : Prop :=
  match f with
  | .a f => WritesA b c h f (n f) (g f)
  | .i f => WritesI b c h f f.ty.regs (g' f)

/-- The frame of an instruction whose only results are registers and predicates: nothing else of the
device or of the running bough changes. -/
def RegisterFrame (s t : State) : Prop := OnlyBough s t ∧ RegistersOnly s.b t.b

/-- Wherever the instruction issues it completes; DST of format A takes the result of each executing lane,
and nothing else changes, the predicates included. `g` reads the bough as the issued instruction sees it. -/
def CompletesA (i : Instr) (s : State) (h : Hdr) (f : FmtA) (n : Nat) (g : Bough → Nat → Nat) : Prop :=
  Issues i s → ∃ t : State, exec i s = Host.Outcome.next t ∧ RegisterFrame s t ∧ t.b.preds = s.b.preds ∧
    WritesA s.b t.b h f n (g (s.issued i).b)

/-- The same of an instruction that has a V and an I form. -/
def CompletesAI (i : Instr) (s : State) (h : Hdr) (f : FmtAI) (n : FmtA → Nat) (g : FmtA → Bough → Nat → Nat)
    (g' : FmtI → Bough → Nat → Nat) : Prop :=
  Issues i s → ∃ t : State, exec i s = Host.Outcome.next t ∧ RegisterFrame s t ∧ t.b.preds = s.b.preds ∧
    WritesAI s.b t.b h f n (fun f => g f (s.issued i).b) (fun f => g' f (s.issued i).b)

/-- Wherever the instruction issues it completes; the predicate destination takes `g` in each executing
lane, and nothing else changes, the vector and scalar registers included. -/
def CompletesPred (i : Instr) (s : State) (h : Hdr) (pd : Pd) (g : Bough → Nat → Bool) : Prop :=
  Issues i s → ∃ t : State, exec i s = Host.Outcome.next t ∧ RegisterFrame s t ∧
    t.b.vregs = s.b.vregs ∧ t.b.sregs = s.b.sregs ∧ WritesPred s.b t.b pd (s.b.guard h) (g (s.issued i).b)

/-- Wherever the instruction issues it completes; SD takes `v`, and nothing else changes, the vector
registers and the predicates included. -/
def CompletesSd (i : Instr) (s : State) (sd : BitVec 6) (v : W64) : Prop :=
  Issues i s → ∃ t : State, exec i s = Host.Outcome.next t ∧ RegisterFrame s t ∧
    t.b.vregs = s.b.vregs ∧ t.b.preds = s.b.preds ∧ WritesScalar s.b t.b sd.toNat v

/-- The frame of a conversion: registers, predicates, and of FMT the field PHASE (R166). -/
def ConversionFrame (s t : State) : Prop :=
  OnlyBough s t ∧ RegistersOnly { s.b with fmt := t.b.fmt } t.b

/-- Wherever the conversion issues it completes; DST of format A takes the result of each executing lane,
and nothing else changes but PHASE, which a stochastic rounding advances by 1 modulo 32 (R166). -/
def CompletesCvt (i : Instr) (s : State) (h : Hdr) (f : FmtA) (n : Nat) (g : Bough → Nat → Nat) : Prop :=
  Issues i s → ∃ t : State, exec i s = Host.Outcome.next t ∧ ConversionFrame s t ∧ t.b.preds = s.b.preds ∧
    WritesA s.b t.b h f n (g (s.issued i).b) ∧
    t.b.fmt = if rmCode s.b.fmt f.rm = 5 ∧ fmtSE s.b.fmt = true then
        BitVec.ofNat 32 (s.b.fmt.toNat % 2 ^ 27 + 2 ^ 27 * ((s.b.fmt.toNat / 2 ^ 27 + 1) % 32))
      else s.b.fmt

/-- The frame of a transfer of control: of the running bough only its mask and the lanes that EMRSET has
cleared, its stack, what the entries into its next lines check, and what every issue moves. -/
def TransferFrame (s t : State) : Prop :=
  OnlyBough s t ∧
  RegistersOnly { s.b with emr := t.b.emr, idle := t.b.idle, stack := t.b.stack, entered := t.b.entered,
                           checkTM := t.b.checkTM, tmDue := t.b.tmDue } t.b ∧
  (∀ a ∈ s.b.tmDue, a ∈ t.b.tmDue) ∧
  t.b.vregs = s.b.vregs ∧ t.b.preds = s.b.preds

/-- The frame of an instruction that changes nothing at all of its bough's registers. -/
def QuietFrame (s t : State) : Prop :=
  RegisterFrame s t ∧ t.b.vregs = s.b.vregs ∧ t.b.sregs = s.b.sregs ∧ t.b.preds = s.b.preds

/-- The frame of an instruction that puts an access in flight: no byte of memory and no register changes;
of the device only the accesses in flight, what the caches and TLBs hold, and the notes of issue. -/
def FlightFrame (s t : State) : Prop :=
  t = { s with b := t.b, loads := t.loads, stores := t.stores, atoms := t.atoms, cores := t.cores,
               dtlb := t.dtlb, dcache := t.dcache, infl := t.infl, nuid := t.nuid } ∧
  RegistersOnly s.b t.b ∧ t.b.vregs = s.b.vregs ∧ t.b.sregs = s.b.sregs ∧ t.b.preds = s.b.preds ∧
  ∀ k : Nat, t.core k = { s.core k with l1 := (t.core k).l1, roc := (t.core k).roc, tlb := (t.core k).tlb }

/-- Every access translates and reaches its memory (R188, R390). -/
def Reaches (s : State) (x : Xlated) : Prop :=
  x.miss = [] ∧ x.bad = [] ∧ x.good ≠ [] ∧ (x.good.find? fun p => s.unreachable s.b.part p.pa) = none

/-- What an access does before it acts (R188, R390): the walks that it lacks are asked for and it waits; and
a peer that no link reaches is a machine check. -/
def AccessWaits (i : Instr) (s : State) (x : Xlated) : Prop :=
  (x.miss ≠ [] → exec i s =
    Host.Outcome.next ((s.requestWalks s.b.uid s.b.part s.b.core x.miss.eraseDups).hold .walk)) ∧
  ∀ p : Piece, x.miss = [] → (x.good.find? fun p => s.unreachable s.b.part p.pa) = some p →
    exec i s = Host.Outcome.next (s.machineCheck 0x43 (peerDetail p.pa) (BitVec.ofNat 64 p.va))

/-- The frame of an instruction that acts on the copse or the launch of its bough: no byte of memory and no
register changes but the named ones; of the device only copses, launches and the notes of issue. -/
def GroupFrame (s t : State) : Prop :=
  t = { s with b := t.b, copses := t.copses, launches := t.launches, infl := t.infl, nuid := t.nuid } ∧
  t.b.vregs = s.b.vregs ∧ t.b.emr = s.b.emr ∧ t.b.stack = s.b.stack ∧ t.b.fmt = s.b.fmt

/-- The frame of an instruction that acts on its core: no byte of memory and no register changes but the
named ones; of the device only the core and the notes of issue. -/
def CoreFrame (s t : State) : Prop :=
  t = { s with b := t.b, cores := t.cores, infl := t.infl, nuid := t.nuid } ∧ RegistersOnly s.b t.b ∧
  t.b.vregs = s.b.vregs ∧ ∀ k : Nat, k ≠ s.b.core → t.core k = s.core k

/-- Row r, column q of a tile, or of a pair, in the accumulator type (R286). -/
def Core.cell (c : Core) (fmt : W32) (acc r q : Nat) : Nat := (((c.tileRows fmt acc)[r]?).bind fun x => x[q]?).getD 0

/-- SUM and REF of row r of a tile's side area (R322). -/
def Core.side (c : Core) (t r : Nat) : Nat × Nat := ((c.sideRows t)[r]?).getD (0, 0)

/-- No byte of the tiles changes but those of the values of a tile or a pair, and with `side` those of its side
area. -/
def TilesOutside (c d : Core) (fmt : W32) (acc : Nat) (side : Bool) : Prop :=
  ∀ a : Nat, (∀ t ∈ accTiles fmt acc, a < tileBase t ∨ tileBase t + (if side then 66560 else 65536) ≤ a) →
    Sparse.get d.tiles a = Sparse.get c.tiles a

/-- `n` LOCAL bytes from an address lie in SCR banks of a copse (R13, R189). -/
def Core.scratch (c : Core) (own : Nat × Nat) (a n : Nat) : Prop :=
  ∀ i : Nat, i < n → a + i < 0xC0000 ∧ c.role ((a + i) / 0x4000) = .scr ∧ c.owner ((a + i) / 0x4000) = some own

/-- The TLBs of a core hold the translations of `n` bytes, which lie at consecutive physical addresses from
`pa` on (R188). -/
def State.tlbHolds (s : State) (core part a n pa : Nat) (write : Bool) : Prop :=
  ∀ i : Nat, i < n → a + i < 2 ^ 56 ∧ s.unreachable part (pa + i) = false ∧ ∃ e : TlbEnt,
    s.tlbFind core part (a + i) = some e ∧ leafPa e.pte e.size (a + i) = pa + i ∧
      (write = true → pteWritable e.pte = true)

/-- An engine operation may read a byte, and the byte is `v`: LOCAL as its copse reads it, GLOBAL as its home
answers (R211, R212, R248). -/
def State.engSees (s : State) (core : Nat) (o : EngOp) (loc : Bool) (a v : Nat) : Prop :=
  o.allowed false loc a = true ∧
    if loc then (s.localRd core o.part o.launch o.cid a).toNat = v
    else ∃ pa : Nat, s.tlbHolds core o.part a 1 pa false ∧
      s.homeCheck o.part o.launch (s.isDet o.part o.launch) pa 1 = none ∧
      s.homeRead o.part o.launch o.cid (s.isDet o.part o.launch) pa 1 = v

/-- An engine operation may write `n` bytes: LOCAL ones in SCR banks of its copse, or GLOBAL ones at `pa`,
outside a deterministic launch and every line of a log (R211, R245). -/
def State.engMayWrite (s : State) (core : Nat) (o : EngOp) (loc : Bool) (a n pa : Nat) : Prop :=
  (∀ i : Nat, i < n → o.allowed true loc (a + i) = true) ∧
    if loc then (s.core core).scratch (lkey o.part o.launch, o.cid) a n
    else s.tlbHolds core o.part a n pa true ∧ s.isDet o.part o.launch = false ∧
      ∀ i : Nat, i < n → s.heartOf ((pa + i) / 128) = none

/-- The bytes of a number at consecutive addresses, little-endian. -/
def Holds (s : State) (pa n v : Nat) : Prop :=
  ∀ j : Nat, j < n → Sparse.get s.mem (pa + j) = BitVec.ofNat 8 (v / 256 ^ j)

/-- No byte of memory outside `n` bytes at an address changes. -/
def MemoryOutside (s t : State) (pa n : Nat) : Prop :=
  ∀ a : Nat, a < pa ∨ pa + n ≤ a → Sparse.get t.mem a = Sparse.get s.mem a

/-- No byte of memory changes. -/
def MemorySame (s t : State) : Prop := ∀ a : Nat, Sparse.get t.mem a = Sparse.get s.mem a

/-- Memory takes the bytes of a store, or the zeroes of a line, and no other byte changes. -/
def StoreLands (s t : State) (x : Store) : Prop :=
  (∀ n v : Nat, x.kind = .bytes n v → MemoryOutside s t x.pa n ∧ Holds t x.pa n v) ∧
  (x.kind = .zero → MemoryOutside s t (x.pa / 128 * 128) 128 ∧ Holds t (x.pa / 128 * 128) 128 0 ∧
    x.pa / 128 ∈ t.zflag)

/-- The phase copy of a line takes the bytes of a store, or the zeroes of a line, and no other byte changes. -/
def CopyTakes (x : Store) (c d : BitVec 1024) : Prop :=
  (x.kind = .zero → d = 0) ∧
  ∀ n v : Nat, x.kind = .bytes n v → ∀ j : Nat, j < 128 → d.toNat / 256 ^ j % 256 =
    if x.pa % 128 ≤ j ∧ j < x.pa % 128 + n then v / 256 ^ (j - x.pa % 128) % 256 else c.toNat / 256 ^ j % 256

/-- A launch has met an event, in this phase and so in all (R256). -/
def State.met (s : State) (part launch k : Nat) : Prop :=
  ∃ l : Launch, s.launch part launch = some l ∧ l.evNow.getLsbD k = true ∧ l.evAll.getLsbD k = true

/-- `n` bytes from `a` hold a number, and no other byte of the core's LOCAL storage or of memory changes. -/
def StoresLocal (s t : State) (core a n v : Nat) : Prop :=
  MemorySame s t ∧ Sparse.getLE (t.core core).store a n = v ∧
    ∀ c : Nat, c < a ∨ a + n ≤ c → Sparse.get (t.core core).store c = Sparse.get (s.core core).store c

/-- `n` bytes that an engine wrote hold a number, and no other byte of LOCAL storage or of memory changes. -/
def EngWrote (s t : State) (core : Nat) (loc : Bool) (a n pa v : Nat) : Prop :=
  if loc then StoresLocal s t core a n v
  else MemoryOutside s t pa n ∧ Holds t pa n v ∧ (t.core core).store = (s.core core).store

end Sys2Proof.Machine
end

