-- ==== Sys2Proof/Certificates/Slice0/Obligations.lean ====
section
/-! DEFINITION. The statements for the provers. -/

section

open Sys2Proof Sys2Proof.Machine

/-! ## Class 0: integers, lanes and predicates -/

/-- R99, R100: the integer arithmetic of format A. DST takes the exact result, saturated where SAT is set
and then modulo 2^w, per 16-bit half under .x2; PD takes the carry, borrow or overflow of the exact result.
R98, R99: the I form of IMAD writes a · IMM + DST. -/
def Obligations.IntegerArithmetic : Prop :=
  (∀ (h : Hdr) (f : FmtA) (s : State),
      ∀ p ∈ ([(.iadd h f, addX), (.isub h f, subX), (.imul h f, mulX), (.imulhi h f, mulHiX f.ty.width),
          (.imad h (.a f), madX), (.imin h f, minX), (.imax h f, maxX), (.iabs h f, absX)] :
          List (Instr × (Int → Int → Int → Int → Int))),
        Issues p.1 s →
          let b := (s.issued p.1).b
          let x (w lo l : Nat) : Int :=
            p.2 (b.intA f w lo l) (b.intB f w lo l) (b.intC f w lo l) (b.carryIn f l)
          ∃ t : State, exec p.1 s = Host.Outcome.next t ∧ RegisterFrame s t ∧
            WritesA s.b t.b h f f.ty.regs (fun l =>
              if f.sub.getLsbD 7 then
                satWrap f.sat f.ty.signed 16 (x 16 0 l) + 2 ^ 16 * satWrap f.sat f.ty.signed 16 (x 16 16 l)
              else satWrap f.sat f.ty.signed f.ty.width (x f.ty.width 0 l)) ∧
            WritesPred s.b t.b f.pd (s.b.guard h) fun l =>
              if f.sub.getLsbD 7 then
                outOfRange f.ty.signed 16 (x 16 0 l) || outOfRange f.ty.signed 16 (x 16 16 l)
              else outOfRange f.ty.signed f.ty.width (x f.ty.width 0 l)) ∧
  (∀ (h : Hdr) (f : FmtI) (s : State), Issues (.imad h (.i f)) s →
      let b := (s.issued (.imad h (.i f))).b
      let w := f.ty.width
      ∃ t : State, exec (.imad h (.i f)) s = Host.Outcome.next t ∧ RegisterFrame s t ∧ t.b.preds = s.b.preds ∧
        WritesI s.b t.b h f f.ty.regs fun l =>
          satWrap f.sat f.ty.signed w
            (absNeg false f.nega (intOf f.ty.signed w (b.src f.kndd f.sa f.ty.regs l)) * immInt f.ty f.imm +
              intOf f.ty.signed w (b.src f.kndd f.dst f.ty.regs l)))

/-- R101, R102: ICMP writes the comparison of A and B to PD and nothing else; ISEL takes A where the
predicate, inverted by SUB[3], holds, and else B, and writes no predicate.
R103: AND, OR and XOR of two sources, or of a source and the extended immediate; NOT; and TERN, whose
truth table is SUB. -/
def Obligations.CompareSelectLogic : Prop :=
  (∀ (h : Hdr) (f : FmtA) (s : State),
     (CompletesPred (.icmp h f) s h f.pd fun b l =>
       intCond (f.sub.toNat % 8) (b.intA f f.ty.width 0 l) (b.intB f f.ty.width 0 l)) ∧
     CompletesA (.isel h f) s h f f.ty.regs fun b l =>
       if (b.pred (f.sub.toNat % 8)).getLsbD l != f.sub.getLsbD 3 then b.srcA f f.ty.regs l
       else b.srcB f f.ty.regs l) ∧
  (∀ (h : Hdr) (s : State),
     (∀ (f : FmtAI), ∀ p ∈ ([(.andL h f, (· &&& ·)), (.orL h f, (· ||| ·)), (.xorL h f, (· ^^^ ·))] :
         List (Instr × (Nat → Nat → Nat))),
       CompletesAI p.1 s h f (fun f => f.ty.regs)
         (fun f b l => p.2 (b.srcA f f.ty.regs l) (b.srcB f f.ty.regs l))
         (fun f b l => p.2 (b.src f.kndd f.sa f.ty.regs l) (wrap f.ty.width (immInt f.ty f.imm)))) ∧
     ∀ f : FmtA,
       (CompletesA (.notL h f) s h f f.ty.regs fun b l => 2 ^ f.ty.width - 1 - b.srcA f f.ty.regs l) ∧
       CompletesA (.tern h f) s h f f.ty.regs fun b l =>
         ofBits f.ty.width fun i =>
           f.sub.getLsbD (4 * bit ((b.srcA f f.ty.regs l).testBit i) +
             2 * bit ((b.srcB f f.ty.regs l).testBit i) + bit ((b.srcC f f.ty.regs l).testBit i)))

/-- R104, R105: shifts by an amount of which a width or more shifts everything out, and funnel shifts of A
above B.
R106, R107, R108: counts and reversal, the extraction and insertion of a bit field, and the selection of
bytes. -/
def Obligations.ShiftsAndBitFields : Prop :=
  (∀ (h : Hdr) (f : FmtA) (s : State),
     let w := f.ty.width
     let n := f.ty.regs
     (CompletesA (.shl h f) s h f n fun b l => b.srcA f n l * 2 ^ min (b.srcB f 1 l) w % 2 ^ w) ∧
     (CompletesA (.shr h f) s h f n fun b l => b.srcA f n l % 2 ^ w / 2 ^ min (b.srcB f 1 l) w) ∧
     (CompletesA (.sha h f) s h f n fun b l => wrap w (intOf true w (b.srcA f n l) / 2 ^ min (b.srcB f 1 l) w)) ∧
     (CompletesA (.fshl h f) s h f n fun b l =>
       (b.srcA f n l * 2 ^ w + b.srcB f n l) * 2 ^ min (b.srcC f 1 l) w / 2 ^ w % 2 ^ w) ∧
     CompletesA (.fshr h f) s h f n fun b l =>
       (b.srcA f n l * 2 ^ w + b.srcB f n l) / 2 ^ min (b.srcC f 1 l) w % 2 ^ w) ∧
  (∀ (h : Hdr) (f : FmtA) (s : State),
     let w := f.ty.width
     let n := f.ty.regs
     (CompletesA (.popc h f) s h f 1 fun b l => popcount w (b.srcA f n l)) ∧
     (CompletesA (.clz h f) s h f 1 fun b l => clzN w (b.srcA f n l)) ∧
     (CompletesA (.brev h f) s h f n fun b l => ofBits w fun i => (b.srcA f n l).testBit (w - 1 - i)) ∧
     (CompletesA (.bfx h f) s h f n fun b l =>
       let d := fieldOf w (b.srcB f 1 l)
       if d.2 = 0 then 0 else wrap w (intOf f.ty.signed d.2 (b.srcA f n l / 2 ^ d.1))) ∧
     (CompletesA (.bfi h f) s h f n fun b l =>
       let d := fieldOf w (b.srcB f 1 l)
       ofBits w fun i =>
         if d.1 ≤ i && i < d.1 + d.2 then (b.srcA f n l).testBit (i - d.1) else (b.srcC f n l).testBit i) ∧
     CompletesA (.bsel h f) s h f 1 fun b l => bselN (b.srcA f 1 l) (b.srcB f 1 l) (b.srcC f 1 l))

/-- R109, R110: MOV copies B, MOVI writes the immediate extended by its type, MOVW a 64-bit immediate, and
LANEID the lane's number.
R111, R112, R113: XLANE takes the value of the lane it names, by index, rotation, offset or butterfly
within its segment, with a predicate that says whether that lane executes; VOTE writes the lanes that hold a
predicate, their number, whether some or all do, whether SB agrees, or one lane's SB;
PLOP a truth table of three predicates; PMOV moves the predicates to and from registers. -/
def Obligations.MovesAndLanes : Prop :=
  (∀ (h : Hdr) (s : State),
     (∀ f : FmtA, (CompletesA (.mov h f) s h f f.ty.regs fun b l => b.srcB f f.ty.regs l) ∧
       CompletesA (.laneid h f) s h f 1 fun _ l => l) ∧
     (∀ f : FmtI, Issues (.movi h f) s →
       ∃ t : State, exec (.movi h f) s = Host.Outcome.next t ∧ RegisterFrame s t ∧ t.b.preds = s.b.preds ∧
         WritesI s.b t.b h f f.ty.regs fun _ =>
           if f.ty = .f32 then f.imm.toNat
           else if f.ty = .f16 ∨ f.ty = .bf16 then f.imm.toNat % 2 ^ 16
           else wrap f.ty.width (immInt f.ty f.imm)) ∧
     ∀ f : FmtMovw, Issues (.movw h f) s →
       ∃ t : State, exec (.movw h f) s = Host.Outcome.next t ∧ RegisterFrame s t ∧ t.b.preds = s.b.preds ∧
         if f.scalar then WritesScalar s.b t.b f.dst.toNat f.imm ∧ t.b.vregs = s.b.vregs
         else WritesLanes s.b t.b h.tr f.dst.toNat 2 (s.b.guard h) (fun _ => f.imm.toNat) ∧ t.b.sregs = s.b.sregs) ∧
  (∀ (h : Hdr) (f : FmtA) (s : State),
     (Issues (.xlane h f) s →
       let b := (s.issued (.xlane h f)).b
       let w := 32 / 2 ^ (f.sub.toNat / 4)
       let base (l : Nat) : Nat := l - l % w
       let named (l : Nat) : Int :=
         match f.sub.toNat % 4 with
         | 0 => base l + b.srcB f 1 l % w
         | 1 => base l + (l % w + b.srcB f 1 l) % w
         | 2 => l + signed32 (b.srcB f 1 l)
         | _ => base l + ((l % w) ^^^ (b.srcB f 1 l % w) : Nat)
       let inside (l : Nat) : Bool := decide ((base l : Int) ≤ named l) && decide (named l < base l + w)
       let runs (l : Nat) : Bool := (s.b.guard h).getLsbD (named l).toNat
       let kept (l : Nat) : Nat := (b.banked f.sa.toNat l).toNat +
         (if f.ty.regs = 2 then 2 ^ 32 * (b.banked (f.sa.toNat + 1) l).toNat else 0)
       ∃ t : State, exec (.xlane h f) s = Host.Outcome.next t ∧ RegisterFrame s t ∧
         (WritesA s.b t.b h f f.ty.regs fun l =>
           if inside l = false then b.srcA f f.ty.regs l
           else if runs l = true then b.srcA f f.ty.regs (named l).toNat else kept (named l).toNat) ∧
         WritesPred s.b t.b f.pd (s.b.guard h) fun l => inside l && runs l) ∧
     (Issues (.vote h f) s →
       let b := (s.issued (.vote h f)).b
       let part := (List.range 32).filter fun l => (s.b.guard h).getLsbD l
       let yes := part.filter fun l => (b.pred (f.sub.toNat / 8 % 8)).getLsbD l != f.sub.getLsbD 6
       let sb (l : Nat) : Nat := b.srcB f f.ty.regs l
       let lane := (b.sreg f.sc.toNat).toNat % 32
       let kept : Nat := (b.banked f.sb.toNat lane).toNat +
         (if f.ty.regs = 2 then 2 ^ 32 * (b.banked (f.sb.toNat + 1) lane).toNat else 0)
       let v : W64 :=
         match f.sub.toNat % 8 with
         | 0 => BitVec.ofNat 64 (ofBits 32 fun l => yes.contains l)
         | 1 => BitVec.ofNat 64 yes.length
         | 2 => if yes = [] then 0 else 1
         | 3 => if yes = part then 1 else 0
         | 4 => if (part.all fun l => sb l == sb (part.headD 0)) = true then 1 else 0
         | 5 => extScalar f.ty (sb (part.headD 0))
         | _ => extScalar f.ty (if (s.b.guard h).getLsbD lane = true then sb lane else kept)
       ∃ t : State, exec (.vote h f) s = Host.Outcome.next t ∧ RegisterFrame s t ∧ t.b.vregs = s.b.vregs ∧
         WritesScalar s.b t.b f.dst.toNat v ∧ WritesPred s.b t.b f.pd (s.b.guard h) fun _ => v == 1) ∧
     (CompletesPred (.plop h f) s h f.pd fun b l =>
       let p (r : BitVec 8) : Nat := bit ((b.pred r.toNat).getLsbD l)
       f.sub.getLsbD (4 * p f.sa + 2 * p f.sb + p f.sc)) ∧
     (f.sub = 0 → CompletesA (.pmov h f) s h f 1 fun b l => (b.lanePreds l).toNat + 128) ∧
     (f.sub ≠ 0 → Issues (.pmov h f) s →
       let b := (s.issued (.pmov h f)).b
       ∃ t : State, exec (.pmov h f) s = Host.Outcome.next t ∧ RegisterFrame s t ∧ t.b.vregs = s.b.vregs ∧
         t.b.sregs = s.b.sregs ∧ ∀ k l : Nat, k < 7 → l < 32 → (t.b.pred k).getLsbD l =
           if (s.b.guard h).getLsbD l = true then (b.srcA f 1 l).testBit k else (s.b.pred k).getLsbD l))

/-- R115, R116, R117, R118: the loop nest. LNSET stores START, BOUND, STEP and MODE of a level and sets its
indices; LNADV steps a level, and under .nest carries into the levels above, with a predicate of the live
lanes; LNGET reads an index or a stored item; COEF writes three or two coefficients of a set.
R119: ADDR writes the address of the form to a pair of registers and its validity to the predicate.
R121: REP sets the repetition of the next instruction, a count above 65535 is an illegal instruction. -/
def Obligations.LoopNestAndAddresses : Prop :=
  (∀ (h : Hdr) (f : FmtY) (s : State),
      let k := f.sub.toNat % 4
      (Issues (.lnset h f) s → (s.issued (.lnset h f)).lnForbidden h k = false →
        let b := (s.issued (.lnset h f)).b
        ∃ t : State, exec (.lnset h f) s = Host.Outcome.next t ∧ OnlyBough s t ∧
          RegistersOnly { s.b with nest := t.b.nest } t.b ∧
          t.b.vregs = s.b.vregs ∧ t.b.sregs = s.b.sregs ∧ t.b.preds = s.b.preds ∧
          t.b.lnStart k = BitVec.truncate 32 (b.sreg f.s1.toNat) ∧
          t.b.lnBound k = BitVec.truncate 32 (b.sreg f.s2.toNat) ∧
          t.b.lnStep k = BitVec.truncate 32 (b.sreg f.s3.toNat) ∧
          t.b.lnMode k = BitVec.ofNat 32 (f.sub.toNat / 4) ∧
          (∀ j : Nat, j < 4 → j ≠ k → t.b.lnStart j = s.b.lnStart j ∧ t.b.lnBound j = s.b.lnBound j ∧
            t.b.lnStep j = s.b.lnStep j ∧ t.b.lnMode j = s.b.lnMode j) ∧
          ∀ j l : Nat, j < 4 → l < 32 → t.b.ind j l =
            if j = k ∧ (s.b.guard h).getLsbD l = true then
              if f.sub.toNat / 4 = 2 then b.vreg f.vd.toNat l
              else if f.sub.toNat / 4 = 1 then t.b.lnStart k + BitVec.ofNat 32 l * t.b.lnStep k else t.b.lnStart k
            else s.b.ind j l) ∧
      (Issues (.lnadv h f) s → (s.issued (.lnadv h f)).lnForbidden h k = false →
        ∃ t : State, exec (.lnadv h f) s = Host.Outcome.next t ∧ OnlyBough s t ∧
          RegistersOnly { s.b with nest := t.b.nest } t.b ∧ t.b.vregs = s.b.vregs ∧ t.b.sregs = s.b.sregs ∧
          WritesPred s.b t.b f.pd (s.b.guard h) (fun l => (lnadvLane (f.sub.getLsbD 2) l 4 k s.b).2) ∧
          ∀ j l : Nat, j < 4 → l < 32 → t.b.ind j l =
            if (s.b.guard h).getLsbD l = true then (lnadvLane (f.sub.getLsbD 2) l 4 k s.b).1.ind j l
            else s.b.ind j l) ∧
      (Issues (.lnget h f) s →
        ∃ t : State, exec (.lnget h f) s = Host.Outcome.next t ∧ RegisterFrame s t ∧ t.b.preds = s.b.preds ∧
          if f.sub.toNat < 4 then
            WritesLanes s.b t.b h.tr f.vd.toNat 1 (s.b.guard h) (fun l => (s.b.ind f.sub.toNat l).toNat) ∧
              t.b.sregs = s.b.sregs
          else WritesScalar s.b t.b f.sd.toNat (lngetScalar s.b f) ∧ t.b.vregs = s.b.vregs) ∧
      (Issues (.coef h f) s →
        let c := f.imm.toNat % 16
        ∃ t : State, exec (.coef h f) s = Host.Outcome.next t ∧ OnlyBough s t ∧
          RegistersOnly { s.b with coef := t.b.coef } t.b ∧ t.b.vregs = s.b.vregs ∧ t.b.sregs = s.b.sregs ∧
          t.b.preds = s.b.preds ∧
          ∀ j e : Nat, j < 16 → e < 5 → t.b.coefAt j e =
            if j = c ∧ f.sub = 0 ∧ e < 3 then s.b.sreg ([f.s1, f.s2, f.s3][e]?.getD 0).toNat
            else if j = c ∧ f.sub ≠ 0 ∧ 3 ≤ e then s.b.sreg ([f.s1, f.s2][e - 3]?.getD 0).toNat
            else s.b.coefAt j e)) ∧
  (∀ (h : Hdr) (s : State),
      (∀ f : FmtM, Issues (.addr h f) s →
        let b := (s.issued (.addr h f)).b
        ∃ t : State, exec (.addr h f) s = Host.Outcome.next t ∧ RegisterFrame s t ∧ t.b.sregs = s.b.sregs ∧
          WritesLanes s.b t.b h.tr f.dv.toNat 2 (s.b.guard h) (fun l => (b.addr f l).toNat) ∧
          WritesPred s.b t.b f.pd (s.b.guard h) fun l =>
            if f.sp = .localSp then (b.addr f l).toNat ≤ 0xBFFFF else (b.addr f l).toNat < 2 ^ 56) ∧
      ∀ f : FmtY, Issues (.rep h f) s →
        let n := if f.sub.getLsbD 4 then (s.b.sreg f.s1.toNat).toNat else f.imm.toNat % 2 ^ 16
        (n ≤ 65535 → ∃ t : State, exec (.rep h f) s = Host.Outcome.next t ∧ RegisterFrame s t ∧
          t.b.vregs = s.b.vregs ∧ t.b.sregs = s.b.sregs ∧ t.b.preds = s.b.preds ∧
          t.b.rep = some { fields := BitVec.ofNat 4 f.sub.toNat, stride := BitVec.ofNat 8 (f.imm.toNat / 2 ^ 16),
                           done := 0, left := n }) ∧
        (65535 < n → exec (.rep h f) s = Host.Outcome.next (s.takeTrap cIllegal 0 0)))

/-! ## Class 1: floating point -/

/-- R157, R169, R170: FADD, FSUB, FMUL and FFMA. Each element of DST is the exact result of the operands, their
signs changed and subnormals flushed, rounded once to the type, flushed, and clamped where SAT is set. An I
form takes the immediate as B and DST as the addend.
R175, R176: the packed pairs, whose selectors take an element of each source for each element of the
result, and the widening multiply-add. -/
def Obligations.FloatArithmetic : Prop :=
  (∀ (h : Hdr) (f : FmtAI) (s : State),
      ∀ p ∈ ([(.fadd h f, fun m a b _ => a.add m b), (.fsub h f, fun m a b _ => a.add m b.neg),
          (.fmul h f, fun _ a b _ => a.mul b), (.ffma h f, fun m a b c => a.fma m b c)] :
          List (Instr × (Mode → Fp → Fp → Fp → Fp))),
        CompletesAI p.1 s h f xRegs
          (fun f b l =>
            let y (e : Nat) : Nat :=
              let x (k raw : Nat) : Fp := (fmtOf f.ty).val
                (operand b.fmt f.ty (f.abs.getLsbD k) (f.neg.getLsbD k) (element f.ty raw e))
              result b.fmt f.ty f.sat ((fmtOf f.ty).round (modeOf b.fmt f.rm) false
                (p.2 (modeOf b.fmt f.rm) (x 2 (b.srcA f (xRegs f) l)) (x 1 (b.srcB f (xRegs f) l))
                  (x 0 (b.srcC f (xRegs f) l))))
            if f.sub.getLsbD 7 then y 0 + 2 ^ (fmtOf f.ty).width * y 1 else y 0)
          fun f b l =>
            let x (neg : Bool) (raw : Nat) : Fp := (fmtOf f.ty).val (operand b.fmt f.ty false neg raw)
            result b.fmt f.ty f.sat ((fmtOf f.ty).round (modeOf b.fmt f.rm) false
              (p.2 (modeOf b.fmt f.rm) (x f.nega (b.src false f.sa f.ty.regs l)) (x false (floatImm f))
                (x false (b.src false f.dst f.ty.regs l))))) ∧
  (∀ (h : Hdr) (f : FmtA) (s : State),
      let fm := fmtOf f.ty
      let n := hRegs f.ty
      (∀ p ∈ ([(.hadd2 h f, fun m a b _ => a.add m b), (.hmul2 h f, fun _ a b _ => a.mul b),
          (.hfma2 h f, fun m a b c => a.fma m b c)] : List (Instr × (Mode → Fp → Fp → Fp → Fp))),
        CompletesA p.1 s h f n fun b l => elements f.ty true fun e =>
          result b.fmt f.ty f.sat (fm.round (modeOf b.fmt f.rm) false
            (p.2 (modeOf b.fmt f.rm) (fm.val (hElem b f 2 (b.srcA f n l) e)) (fm.val (hElem b f 1 (b.srcB f n l) e))
              (fm.val (hElem b f 0 (b.srcC f n l) e))))) ∧
      (∀ p ∈ ([(.hmin2 h f, false), (.hmax2 h f, true)] : List (Instr × Bool)),
        CompletesA p.1 s h f n fun b l => elements f.ty true fun e =>
          minMax p.2 (f.sub.getLsbD 6) f.ty (hElem b f 2 (b.srcA f n l) e) (hElem b f 1 (b.srcB f n l) e)) ∧
      CompletesA (.ffmaw h f) s h f 1 fun b l =>
        let x (k raw e : Nat) : Fp :=
          fm.val (operand b.fmt f.ty (f.abs.getLsbD k) (f.neg.getLsbD k) (element f.ty raw e))
        let m := modeOf b.fmt f.rm
        result b.fmt .f32 f.sat (fmtF32.round m false
          ((x 2 (b.srcA f 1 l) (bit (f.sub.getLsbD 0))).fma m (x 1 (b.srcB f 1 l) (bit (f.sub.getLsbD 1)))
            (addendF32 b f l))))

/-- R171, R172, R173: FMIN and FMAX, whose .num form drops a single NaN; FCMP, whose verdict goes to PD alone;
and FCLASS, which writes one bit.
R174: square root, quotient, rounding to an integral value and scaling by a power of two are rounded once
from the exact result; the reciprocals are faithful, and the elementary functions lie within their bounds,
every value inside the bound being open (log 14). -/
def Obligations.FloatOrderAndFunctions : Prop :=
  (∀ (h : Hdr) (s : State),
     (∀ (f : FmtAI) (num : Bool),
       ∀ p ∈ ([(.fmin num h f, false), (.fmax num h f, true)] : List (Instr × Bool)),
         CompletesAI p.1 s h f xRegs
           (fun f b l => elements f.ty (f.sub.getLsbD 7) fun e =>
             let x (k raw : Nat) : Nat :=
               operand b.fmt f.ty (f.abs.getLsbD k) (f.neg.getLsbD k) (element f.ty raw e)
             minMax p.2 num f.ty (x 2 (b.srcA f (xRegs f) l)) (x 1 (b.srcB f (xRegs f) l)))
           fun f b l =>
             minMax p.2 num f.ty (operand b.fmt f.ty false f.nega (b.src false f.sa f.ty.regs l))
               (operand b.fmt f.ty false false (floatImm f))) ∧
     (∀ f : FmtA, CompletesPred (.fcmp h (.a f)) s h f.pd fun b l =>
       let x (k raw : Nat) : Fp := (fmtOf f.ty).val (operand b.fmt f.ty (f.abs.getLsbD k) (f.neg.getLsbD k) raw)
       floatCond (f.sub.toNat % 8) (x 2 (b.srcA f f.ty.regs l)) (x 1 (b.srcB f f.ty.regs l))) ∧
     (∀ f : FmtI, CompletesPred (.fcmp h (.i f)) s h f.pd fun b l =>
       let x (neg : Bool) (raw : Nat) : Fp := (fmtOf f.ty).val (operand b.fmt f.ty false neg raw)
       floatCond (f.sub.toNat % 8) (x f.nega (b.src false f.sa f.ty.regs l)) (x false (floatImm f))) ∧
     ∀ f : FmtA, CompletesA (.fclass h f) s h f 1 fun b l => 2 ^ classOf f.ty (b.srcA f f.ty.regs l)) ∧
  (∀ (h : Hdr) (f : FmtA) (s : State),
     let fm := fmtOf f.ty
     let a (b : Bough) (l : Nat) : Nat :=
       operand b.fmt f.ty (f.abs.getLsbD 2) (f.neg.getLsbD 2) (b.srcA f f.ty.regs l)
     let one (i : Instr) (g : Mode → Nat → Nat) : Prop :=
       CompletesA i s h f f.ty.regs fun b l => result b.fmt f.ty f.sat (g (modeOf b.fmt f.rm) (a b l))
     one (.fsqrt h f) (fun m x => fm.round m false ((fm.val x).sqrt keepBits)) ∧
     one (.frnd h f) (fun m x => fm.round .rn false (fpRound m (fm.val x))) ∧
     one (.frcp h f) (fun _ x => faithful 0x53 f.ty x ((Fp.fin false 1 0).div keepBits (fm.val x))) ∧
     one (.frsq h f) (fun _ x => faithful 0x54 f.ty x (fpRsq (fm.val x))) ∧
     one (.fexp2 h f) (fun _ x => bounded Fmt.withinUnits 0x57 f.ty x (fpExp2 (fm.val x))) ∧
     one (.flog2 h f) (fun _ x => bounded (log2Ok (fm.val x)) 0x58 f.ty x (fpLog2 (fm.val x))) ∧
     one (.fsin h f) (fun _ x => bounded Fmt.within22 0x59 f.ty x (fpTrig false (fm.val x))) ∧
     one (.fcos h f) (fun _ x => bounded Fmt.within22 0x5A f.ty x (fpTrig true (fm.val x))) ∧
     one (.ftanh h f) (fun _ x => bounded Fmt.withinUnits 0x5B f.ty x (fpTanh (fm.val x))) ∧
     one (.fsigm h f) (fun _ x => bounded Fmt.withinUnits 0x76 f.ty x (fpSigm (fm.val x))) ∧
     one (.ferf h f) (fun _ x => bounded Fmt.withinUnits 0x77 f.ty x (fpErf (fm.val x))) ∧
     (CompletesA (.fdiv h f) s h f f.ty.regs fun b l =>
       let x (k raw : Nat) : Fp := fm.val (operand b.fmt f.ty (f.abs.getLsbD k) (f.neg.getLsbD k) raw)
       result b.fmt f.ty f.sat (fm.round (modeOf b.fmt f.rm) false
         ((x 2 (b.srcA f f.ty.regs l)).div keepBits (x 1 (b.srcB f f.ty.regs l))))) ∧
     CompletesA (.fscale h f) s h f f.ty.regs fun b l =>
       result b.fmt f.ty f.sat (fm.round (modeOf b.fmt f.rm) false
         (fpScale (signed32 (b.srcB f 1 l)) (fm.val (a b l)))))

/-- R166, R177, R183: the conversions between formats, from and to integers, of a pair into one register and
back, and DITH. The forms that round stochastically advance PHASE, and nothing else does.
R160, R161, R178, R179: UNPK writes the 32 elements of a block, each times the scale that SB holds; CVTB
writes the bytes of a block to the lanes and its scale byte to SB. -/
def Obligations.Conversions : Prop :=
  (∀ (h : Hdr) (f : FmtA) (s : State),
      (CompletesCvt (.cvtFf h f) s h f f.ty.regs fun b l =>
        flush (fmtFTZ b.fmt) f.ty ((fmtOf f.ty).roundBy (roundingOf b.fmt f.rm) f.sat l
          ((fmtOf (srcTy f)).val (cvtA b f l)))) ∧
      (CompletesCvt (.cvtPack h f) s h f 1 fun b l =>
        let one (k raw e : Nat) : Nat :=
          flush (fmtFTZ b.fmt) f.ty ((fmtOf f.ty).roundBy (roundingOf b.fmt f.rm) f.sat ((2 * l + e) % 32)
            (fmtF32.val (operand b.fmt .f32 (f.abs.getLsbD k) (f.neg.getLsbD k) raw)))
        one 2 (b.srcA f 1 l) 0 + 2 ^ 16 * one 1 (b.srcB f 1 l) 1) ∧
      (CompletesA (.cvtFi h f) s h f f.ty.regs fun b l =>
        intBits f.ty (fpToInt (modeOf b.fmt f.rm) f.ty ((fmtOf (srcTy f)).val (cvtA b f l)))) ∧
      (CompletesA (.cvtIf h f) s h f f.ty.regs fun b l =>
        flush (fmtFTZ b.fmt) f.ty
          ((fmtOf f.ty).round (modeOf b.fmt f.rm) false (ofDyadic false (cvtInt b f l) 0))) ∧
      (CompletesA (.cvtIi h f) s h f f.ty.regs fun b l =>
        intBits f.ty (if f.sat then clampTy f.ty (cvtInt b f l) else reduce f.ty (cvtInt b f l))) ∧
      (CompletesA (.cvtUnpack h f) s h f 2 fun b l =>
        elements .f32 true fun e =>
          flush (fmtFTZ b.fmt) .f32 (fmtF32.round .rn false ((fmtOf f.ty).val
            (operand b.fmt f.ty (f.abs.getLsbD 2) (f.neg.getLsbD 2) (element f.ty (b.srcA f 1 l) e))))) ∧
      CompletesA (.dith h f) s h f 1 fun b l => ditherT (b.fmt.toNat / 2 ^ 27) (b.srcB f 1 l % 32)) ∧
  (∀ (h : Hdr) (f : FmtA) (s : State),
      (CompletesA (.unpk h f) s h f 1 fun b l =>
        flush (fmtFTZ b.fmt) .f32 (fmtF32.round .rn false (fmtX19.val
          (expandX19 ((b.sreg f.sb.toNat).toNat % 256)
            ((blockValues f.ty (unpkBlock b (b.guard h) f))[l]?.getD .nan))))) ∧
      (f.knd.getLsbD 2 = false → Issues (.cvtb h f) s →
        let b := (s.issued (.cvtb h f)).b
        let r := if f.rm = .rs then roundingOf b.fmt f.rm else .by_ (modeOf b.fmt f.rm)
        let p := packBlock f.ty r (lanes.map fun l => fmtF32.val (operand b.fmt .f32 false false (b.srcA f 1 l)))
        ∃ t : State, exec (.cvtb h f) s = Host.Outcome.next t ∧ ConversionFrame s t ∧ t.b.preds = s.b.preds ∧
          WritesScalar s.b t.b f.sb.toNat (BitVec.ofNat 64 p.1) ∧
          WritesLanes s.b t.b h.tr f.dst.toNat 1 (s.b.guard h) (fun l => p.2 / 2 ^ (32 * l)) ∧
          t.b.fmt = (s.b.advancePhase r).fmt))

/-- R167, R168, R180, R181: the dot products of 16, 4 or 8 elements with one addend, summed exactly within the
alignment window and rounded once, or, for integers, summed exactly and wrapped or saturated. -/
def Obligations.DotProducts : Prop :=
  ∀ (h : Hdr) (f : FmtA) (s : State),
    (CompletesA (.dot16 h f) s h f 1 fun b l =>
      let m := modeOf b.fmt f.rm
      let xs (r : Nat) : List Fp := (List.range 16).map fun i => (fmtOf f.ty).val (byteOf (b.wide r l 4) i)
      result b.fmt .f32 f.sat (fmtF32.round m false
        (dotSum m 25 5 (List.zipWith Fp.mul (xs f.sa.toNat) (xs f.sb.toNat)) (addendF32 b f l)))) ∧
    (CompletesA (.dot4 h f) s h f 1 fun b l =>
      let m := modeOf b.fmt f.rm
      let xs (k r : Nat) : List Fp := (List.range 4).map fun i => (fmtOf f.ty).val
        (operand b.fmt f.ty (f.abs.getLsbD k) (f.neg.getLsbD k) (element f.ty (b.wide r l 2) i))
      result b.fmt .f32 f.sat (fmtF32.round m false
        (dotSum m 32 3 (List.zipWith Fp.mul (xs 2 f.sa.toNat) (xs 1 f.sb.toNat)) (addendF32 b f l)))) ∧
    CompletesA (.dot8 h f) s h f 1 fun b l =>
      let xs (signed : Bool) (r : Nat) : List Int :=
        (List.range 8).map fun i => intOf signed 8 (byteOf (b.wide r l 2) i)
      satWrap f.sat true 32 ((List.zipWith (fun x y => x * y) (xs f.ty.signed f.sa.toNat)
        (xs (!f.sub.getLsbD 0) f.sb.toNat)).foldl (fun s x => s + x) (signed32 (b.srcC f 1 l)))

/-- R163, R182: FMTSET and FMTMOD write FMT where the value is one that FMT may hold, and are illegal
instructions where it is not; FMTGET reads FMT.
R281: LCBASE and LCSEED write the old base code or seed to SD, and then take the new one. -/
def Obligations.BoughRegisters : Prop :=
  (∀ (h : Hdr) (f : FmtY) (s : State),
      let sets (i : Instr) (x : W32) : Prop := Issues i s →
        (fmtValid x = true → ∃ t : State, exec i s = Host.Outcome.next t ∧ OnlyBough s t ∧
          RegistersOnly { s.b with fmt := x } t.b ∧ t.b.vregs = s.b.vregs ∧ t.b.sregs = s.b.sregs ∧
          t.b.preds = s.b.preds) ∧
        (fmtValid x = false → exec i s = Host.Outcome.next (s.takeTrap cIllegal 0 0))
      sets (.fmtset h f) (if f.sub = 0 then BitVec.truncate 32 (s.b.sreg f.s1.toNat) else f.imm) ∧
      sets (.fmtmod h f) ((s.b.fmt &&& ~~~f.imm) ||| (BitVec.truncate 32 (s.b.sreg f.s1.toNat) &&& f.imm)) ∧
      CompletesSd (.fmtget h f) s f.sd (BitVec.zeroExtend 64 s.b.fmt)) ∧
  (∀ (h : Hdr) (f : FmtY) (s : State),
      (Issues (.lcbase h f) s → ∃ t : State, exec (.lcbase h f) s = Host.Outcome.next t ∧ OnlyBough s t ∧
        RegistersOnly { s.b with lcb := BitVec.ofNat 64 (f.imm.toNat % 4) } t.b ∧ t.b.vregs = s.b.vregs ∧
        t.b.preds = s.b.preds ∧ WritesScalar s.b t.b f.sd.toNat s.b.lcb) ∧
      (Issues (.lcseed h f) s → ∃ t : State, exec (.lcseed h f) s = Host.Outcome.next t ∧ OnlyBough s t ∧
        RegistersOnly { s.b with lcseed := s.b.sreg f.s1.toNat } t.b ∧ t.b.vregs = s.b.vregs ∧
        t.b.preds = s.b.preds ∧ WritesScalar s.b t.b f.sd.toNat s.b.lcseed))

/-! ## Class 2: control -/

/-- R42, R43, R132, R133, R134: the transfers that every active lane makes together. A target that no slot of a
line accepts is an illegal target, and one whose line cannot be read now is checked when control first enters
there (log 62); else the PC takes the target where the branch is taken, and no lane leaves the
running split. LOOP also counts its register down.
R126, R131, R134, R135: the transfers that lanes make by themselves. Where every active lane has the same
next address the split goes on there whole; where the executing lanes and the others part, the split is
divided: a join entry at the reconvergence point, unless that entry already tops the stack, an entry of the
lanes that wait, and the other lanes running. A divergence where lanes wait at a fault ends the split
instead, with nothing checked. CALL writes its return address to a scalar register. -/
def Obligations.Transfers : Prop :=
  (∀ (h : Hdr) (f : FmtJ) (s : State),
     let tgt := targetOf s.b.pc f.tgt f.tsl
     let goes (i : Instr) (taken : Bool) (a : W64) (r : Nat) (v : W64) : Prop := Issues i s →
       (s.targetOk s.b a = false → exec i s = Host.Outcome.next (s.takeTrap cTarget 0 a)) ∧
       (s.targetOk s.b a = true → ∃ t : State, exec i s = Host.Outcome.next t ∧ TransferFrame s t ∧
         WritesScalar s.b t.b r v ∧ t.b.emr = s.b.emr ∧ t.b.stack = s.b.stack ∧
         (s.peekLine s.b a = none → a ∈ t.b.tmDue) ∧ t.b.pc = if taken then a else (s.issued i).b.pc)
     let n := (s.b.sreg f.as.toNat).toNat - 1
     (f.bm = .any → goes (.bra h f) true tgt 63 0) ∧
     (f.bm = .all → goes (.bra h f) (s.b.guard h == s.b.emr) tgt 63 0) ∧
     goes (.brc h f) (s.b.sreg f.as.toNat != 0) tgt 63 0 ∧
     goes (.jmpi h f) true (s.b.sreg f.as.toNat) 63 0 ∧
     goes (.brx h f) true (tgt + 64 * s.b.sreg f.as.toNat) 63 0 ∧
     goes (.loop h f) (n != 0) tgt f.as.toNat (BitVec.ofNat 64 n)) ∧
  (∀ (h : Hdr) (f : FmtJ) (s : State),
     let g := s.b.guard h
     let n := nextAddr s.b.pc false
     let tgt := targetOf s.b.pc f.tgt f.tsl
     let join (rc : W64) : List StackEnt :=
       if (s.b.reach.head?.any fun e => e.join && e.kind == .branch && e.addr == rc) then []
       else [{ s.b.entry s.b.emr .branch true rc with check := true }]
     let goes (i : Instr) (a rc : W64) (r : Nat) (v : W64) : Prop := Issues i s →
       (∀ x : W64, s.badTarget [a, rc] = some x → g = s.b.emr ∨ a = n ∨ s.b.nf = 0 →
         exec i s = Host.Outcome.next (s.takeTrap cTarget 0 x)) ∧
       (s.badTarget [a, rc] = none → g = s.b.emr ∨ a = n →
         ∃ t : State, exec i s = Host.Outcome.next t ∧ TransferFrame s t ∧ WritesScalar s.b t.b r v ∧
           t.b.emr = s.b.emr ∧ t.b.stack = s.b.stack ∧ t.b.pc = a) ∧
       (g ≠ s.b.emr → a ≠ n → s.b.nf ≠ 0 →
         exec i s = Host.Outcome.next (s.endSplit s.b.pc)) ∧
       (s.badTarget [a, rc] = none → g ≠ s.b.emr → a ≠ n → s.b.nf = 0 → s.b.stack.length + 2 ≤ 1024 →
         s.lineNear s.b rc = true → s.lineNear s.b n = true →
         ∃ t : State, exec i s = Host.Outcome.next t ∧ TransferFrame s t ∧ WritesScalar s.b t.b r v ∧
           (∀ x ∈ [a, rc], s.peekLine s.b x = none → x ∈ t.b.tmDue) ∧
           t.b.emr = (if a = rc then s.b.emr &&& ~~~g else g) ∧ t.b.pc = (if a = rc then n else a) ∧
           t.b.stack = (if a = rc ∨ n = rc then [] else [s.b.entry (s.b.emr &&& ~~~g) .branch false n]) ++
             join rc ++ s.b.stack)
     (f.bm = .lane → goes (.bra h f) tgt (targetOf s.b.pc f.rcv f.rsl) 63 0) ∧
     goes (.call h f) tgt n f.as.toNat n ∧
     goes (.callIndirect h f) (s.b.sreg f.as.toNat) n f.as.toNat n)

/-- R126, R131, R133, R137: MBR sends each executing lane to the target of its lowest pair whose predicate holds, and
every other lane past the pair of slots. Every lane whose address is that of the running split stays in it,
and each other lane whose address is not the reconvergence point waits in an entry at its address. Where lanes
wait at a fault, and the lanes part, the split ends instead, with nothing checked. -/
def Obligations.MultiwayBranch : Prop :=
  ∀ (h : Hdr) (f : FmtMbr) (s : State), Issues (.mbr h f) s →
    let rc := targetOf s.b.pc f.rcOff f.rcSlot
    let n := nextAddr s.b.pc true
    let ps := mbrPairs f
    let goal (p : MbrPair) : W64 := targetOf s.b.pc p.off p.slot
    let dest (l : Nat) : W64 :=
      if (s.b.guard h).getLsbD l then ((ps.find? fun p => (pairHolds p s.b).getLsbD l).map goal).getD n else n
    (s.b.nf ≠ 0 → (∃ l k : Nat, l < 32 ∧ k < 32 ∧ s.b.emr.getLsbD l = true ∧ s.b.emr.getLsbD k = true ∧
        dest l ≠ dest k) → exec (.mbr h f) s = Host.Outcome.next (s.endSplit s.b.pc)) ∧
    (∀ x : W64, s.badTarget (ps.map goal ++ [rc]) = some x →
      (s.b.nf = 0 ∨ ∀ l k : Nat, l < 32 → k < 32 → s.b.emr.getLsbD l = true → s.b.emr.getLsbD k = true →
        dest l = dest k) → exec (.mbr h f) s = Host.Outcome.next (s.takeTrap cTarget 0 x)) ∧
    (s.badTarget (ps.map goal ++ [rc]) = none → s.b.nf = 0 → s.b.stack.length + 5 ≤ 1024 →
      s.lineNear s.b rc = true → s.lineNear s.b n = true → (∀ p ∈ ps, s.lineNear s.b (goal p) = true) →
      ∃ (t : State) (es : List StackEnt), exec (.mbr h f) s = Host.Outcome.next t ∧ TransferFrame s t ∧
        t.b.sregs = s.b.sregs ∧ t.b.emr ≠ 0 ∧ (∃ base : List StackEnt, t.b.stack = es ++ base ∧
          base.drop (base.length - s.b.stack.length) = s.b.stack ∧ base.length ≤ s.b.stack.length + 1) ∧
        (∀ e ∈ es, e.kind = .branch ∧ e.join = false ∧ e.addr ≠ rc ∧
          ∀ l : Nat, l < 32 → (e.mask.getLsbD l = true ↔ s.b.emr.getLsbD l = true ∧ dest l = e.addr)) ∧
        ∀ l : Nat, l < 32 → s.b.emr.getLsbD l = true →
          (t.b.emr.getLsbD l = true ↔ dest l = t.b.pc) ∧
          (dest l = t.b.pc ∨ dest l = rc ∨ ∃ e ∈ es, e.mask.getLsbD l = true))

/-- R128, R129, R135, R136, R139: JOIN takes the executing lanes out of the running split where a branch joins
them, and is illegal convergence where none does; RET goes to the address in its register where a slot can
stand there; EMRSET takes the lanes of its operand that are settable; EXIT takes the executing lanes out of
the bough, and out of every entry of its stack. Where it leaves the running split empty, the topmost entry's
lanes run on, and where no entry is left the bough has ended; inside a region it is illegal in a lane at task
depth 0 (R151); in a lane that runs a task it makes the task's record DONE, with no saved frame (R335).
R139, R140: NOP changes nothing; YIELD holds the bough out of issue; EMRGET and SPLITQ read the mask and the stack; SETPRI sets the priority; WAITF passes where every flag of its mask is
clear and waits where one is not. -/
def Obligations.MasksAndExits : Prop :=
  (∀ (h : Hdr) (s : State),
     let g := s.b.guard h
     (∀ f : FmtJ, Issues (.join h f) s →
       (((s.b.topJoin.any fun e => e.kind == .branch) = false →
         exec (.join h f) s = Host.Outcome.next (s.takeTrap cConverge 0 0)) ∧
       ((s.b.topJoin.any fun e => e.kind == .branch) = true → g ≠ s.b.emr →
         ∃ t : State, exec (.join h f) s = Host.Outcome.next t ∧ TransferFrame s t ∧ t.b.sregs = s.b.sregs ∧
           t.b.emr = s.b.emr &&& ~~~g ∧ t.b.stack = s.b.stack ∧ t.b.pc = (s.issued (.join h f)).b.pc))) ∧
     (∀ f : FmtJ, Issues (.ret h f) s →
       let a := s.b.sreg f.as.toNat
       (slotAddr a = false → exec (.ret h f) s = Host.Outcome.next (s.takeTrap cTarget 0 a)) ∧
       (slotAddr a = true → ∃ t : State, exec (.ret h f) s = Host.Outcome.next t ∧ TransferFrame s t ∧
         t.b.sregs = s.b.sregs ∧ t.b.emr = s.b.emr ∧ t.b.stack = s.b.stack ∧ t.b.pc = a)) ∧
     (∀ f : FmtY, Issues (.emrset h f) s →
       let m := BitVec.truncate 32 (s.b.sreg f.s1.toNat) &&& s.b.settable
       m ≠ 0 → ∃ t : State, exec (.emrset h f) s = Host.Outcome.next t ∧ TransferFrame s t ∧
         t.b.sregs = s.b.sregs ∧ t.b.emr = m ∧ t.b.stack = s.b.stack ∧
         t.b.pc = (s.issued (.emrset h f)).b.pc) ∧
     ∀ f : FmtY, Issues (.exit h f) s →
       let left (e : StackEnt) : StackEnt := { e with mask := e.mask &&& ~~~g }
       let plain : Prop := s.b.frames = [] ∧ s.b.refill = none ∧ ∀ l : Nat, s.b.task l = 0
       let whole (t : State) : Prop := exec (.exit h f) s = Host.Outcome.next t ∧
         t.b.vregs = s.b.vregs ∧ t.b.sregs = s.b.sregs ∧ t.b.preds = s.b.preds
       (s.b.refill ≠ none → (∃ l : Nat, g.getLsbD l = true ∧ s.b.depth l = 0) →
         exec (.exit h f) s = Host.Outcome.next (s.takeTrap cRefill 0 0)) ∧
       (plain → g ≠ s.b.emr → ∃ t : State, whole t ∧ OnlyBough s t ∧
         t.b.emr = s.b.emr &&& ~~~g ∧ t.b.live = s.b.live &&& ~~~g ∧ t.b.stack = s.b.stack.map left ∧
         t.b.pc = (s.issued (.exit h f)).b.pc) ∧
       (plain → g = s.b.emr → s.b.tgroups = [] → s.b.stack = [] → ∃ t : State, whole t ∧ MemorySame s t ∧
         t.b.status = .ended ∧ t.b.emr = 0 ∧ t.b.live = 0) ∧
       (∀ (e : StackEnt) (es : List StackEnt), plain → g = s.b.emr → s.b.tgroups = [] → s.b.stack = e :: es →
         e.kind = .branch → e.mask &&& ~~~g ≠ 0 → ∃ t : State, whole t ∧ OnlyBough s t ∧
           t.b.emr = e.mask &&& ~~~g ∧ t.b.pc = e.addr ∧ t.b.fmt = e.fmt ∧ t.b.stack = es.map left ∧
           t.b.live = s.b.live &&& ~~~g) ∧
       ∀ l pa : Nat, s.b.frames = [] → s.b.refill = none → l < 32 → g = 1#32 <<< l → g ≠ s.b.emr →
         s.b.task l ≠ 0 → s.xlateRec s.b.core s.b.part (64 * s.b.task l) true = .ok pa → s.rd (pa + 16) 8 = 0 →
         ∃ t : State, whole t ∧ t.b.emr = s.b.emr &&& ~~~g ∧ t.b.live = s.b.live &&& ~~~g ∧ t.b.task l = 0 ∧
           Holds t (pa + 36) 2 5 ∧ Holds t (pa + 56) 8 0 ∧
           ∀ a : Nat, ¬ (pa + 36 ≤ a ∧ a < pa + 38) → ¬ (pa + 56 ≤ a ∧ a < pa + 64) →
             Sparse.get t.mem a = Sparse.get s.mem a) ∧
  (∀ (h : Hdr) (f : FmtY) (s : State),
     (Issues (.nop h f) s → ∃ t : State, exec (.nop h f) s = Host.Outcome.next t ∧ QuietFrame s t) ∧
     (Issues (.yield h f) s → ∃ t : State, exec (.yield h f) s = Host.Outcome.next t ∧ OnlyBough s t ∧
       RegistersOnly { s.b with waitSince := t.b.waitSince } t.b ∧ t.b.vregs = s.b.vregs ∧ t.b.sregs = s.b.sregs ∧
       t.b.preds = s.b.preds ∧ t.b.wait = .yield (s.time + max f.imm.toNat 1 + 1)) ∧
     CompletesSd (.emrget h f) s f.sd (BitVec.zeroExtend 64 s.b.emr) ∧
     CompletesSd (.splitq h f) s f.sd (splitqValue s f) ∧
     (Issues (.setpri h f) s → ∃ t : State, exec (.setpri h f) s = Host.Outcome.next t ∧ OnlyBough s t ∧
       RegistersOnly { s.b with setpri := BitVec.ofNat 2 f.imm.toNat } t.b ∧ t.b.vregs = s.b.vregs ∧
       t.b.sregs = s.b.sregs ∧ t.b.preds = s.b.preds) ∧
     (Issues (.waitf h f) s →
       ((∀ n : Nat, n < 12 → f.imm.getLsbD n = true → s.b.flag n = 0) →
         ∃ t : State, exec (.waitf h f) s = Host.Outcome.next t ∧ QuietFrame s t) ∧
       ((∃ n : Nat, n < 12 ∧ f.imm.getLsbD n = true ∧ s.b.flag n ≠ 0) →
         exec (.waitf h f) s = Host.Outcome.next (s.hold .flags))))

/-- R114, R120, R142, R143, R145: RFENTER of a region whose source is a level, where every active lane finds an
iteration. Illegal inside a task; an address that no line accepts is an illegal target; while the instance
before is open the bough waits. Else the active lanes take consecutive ordinals in lane order, each with its
value in its index of the level, and run from the prologue. -/
def Obligations.RefillEntry : Prop :=
  ∀ (h : Hdr) (f : FmtY) (s : State) (r : Region) (la : Launch), Issues (.rfenter h f) s →
    s.launchOf s.b = some la → la.desc.regions[f.imm.toNat]? = some r →
    let g := f.imm.toNat
    let j := (Sparse.get s.b.rjoined g).toNat
    let x : RInst := (s.instGet s.b r g j).getD
      { region := g, inst := j, next := 0, cursor := 0, skipped := [], closed := false,
        start := s.b.lnStart r.level, bound := s.b.lnBound r.level, step := s.b.lnStep r.level, members := [] }
    let rank (l : Nat) : Nat := (s.b.emr.list.takeWhile fun k => k < l).length
    (s.b.deepLanes s.b.emr ≠ 0 → exec (.rfenter h f) s = Host.Outcome.next (s.takeTrap cRefill 0 0)) ∧
    (s.b.deepLanes s.b.emr = 0 → ∀ a : W64, s.badTarget [r.prologue, r.body, r.retire, r.stop] = some a →
      exec (.rfenter h f) s = Host.Outcome.next (s.takeTrap cTarget 0 a)) ∧
    (s.b.deepLanes s.b.emr = 0 → s.badTarget [r.prologue, r.body, r.retire, r.stop] = none →
      s.b.stack.length < 1024 → s.lineNear s.b r.stop = true → (s.nextInst s.b r g).2 = true →
      exec (.rfenter h f) s = Host.Outcome.next (s.hold (.inst g))) ∧
    (s.b.deepLanes s.b.emr = 0 → s.badTarget [r.prologue, r.body, r.retire, r.stop] = none →
      s.b.stack.length < 1024 → s.lineNear s.b r.stop = true → (s.nextInst s.b r g).2 = false →
      r.task = false → x.closed = false → r.level < 4 → (s.copseOf s.b).isSome = true →
      (∀ k : Nat, k < s.b.emr.list.length → passedBound (x.value (x.next + k)) x.bound x.step = false) →
      ∃ t : State, exec (.rfenter h f) s = Host.Outcome.next t ∧ MemorySame s t ∧
        t.b.vregs = s.b.vregs ∧ t.b.sregs = s.b.sregs ∧ t.b.preds = s.b.preds ∧
        t.b.emr = s.b.emr ∧ t.b.pc = r.prologue ∧
        t.b.stack.head? = some { s.b.entry s.b.emr .refill true r.stop with check := true } ∧
        t.b.refill.map (fun y => (y.region, y.inst, y.prologue)) = some (g, j, s.b.emr) ∧
        t.instGet t.b r g j = some { x with next := x.next + s.b.emr.list.length,
                                            members := x.members ++ [s.b.uid] } ∧
        ∀ l : Nat, l < 32 → s.b.emr.getLsbD l = true →
          t.b.ind r.level l = x.value (x.next + rank l) ∧
          t.b.refill.map (fun y => Sparse.get y.ord l) = some (BitVec.ofNat 64 (x.next + rank l)))

/-- R146, R147, R148: inside a region. REFILL and REFILL.last where every lane goes on run the body again;
RFSKIP and RFEXIT take the executing lanes of an unordered region out of the running split, count their
ordinals as retired, and RFEXIT closes the source and drains them. Each is illegal for lanes in no fitting
phase and outside a region.
R143, R147, R149, R377: what the device does with a bough of a region by itself. The lanes that have
retired reach the region's end: the cursor and the launch's count of iterations rise by their number, and
where each finds a next iteration they run from the prologue. A bough that waits on the cursor, and holds the
cursor's ordinal in a retire-pending lane, retires that lane. The boughs that wait for an instance to close
wait no longer once it has. -/
def Obligations.RefillProgress : Prop :=
  (∀ (h : Hdr) (f : FmtY) (s : State),
     (∀ p ∈ ([(.refill h f), (.refillLast h f)] : List Instr), Issues p s →
       (s.b.refill = none → exec p s = Host.Outcome.next (s.takeTrap cRefill 0 0)) ∧
       ∀ (r : Region) (x : Refill), s.regionOf s.b = some r → (s.issued p).b.refill = some x →
         let c := s.b.emr &&& (if f.sub.getLsbD 3 then ~~~(s.b.pred (f.sub.toNat % 8)) else s.b.pred (f.sub.toNat % 8))
         (s.b.emr &&& ~~~x.body ≠ 0 → exec p s = Host.Outcome.next (s.takeTrap cRefill 0 0)) ∧
         (s.b.emr &&& ~~~x.body = 0 → s.b.deepLanes s.b.emr = 0 → s.b.branchAbove r.stop = true →
           exec p s = Host.Outcome.next (s.takeTrap cConverge 0 0)) ∧
         (s.b.emr &&& ~~~x.body = 0 → s.b.deepLanes s.b.emr = 0 → s.b.branchAbove r.stop = false →
           c = s.b.emr → (s.issued p).dispatchWork = false →
           ∃ t : State, exec p s = Host.Outcome.next t ∧ TransferFrame s t ∧ t.b.sregs = s.b.sregs ∧
             t.b.emr = s.b.emr ∧ t.b.stack = s.b.stack ∧ t.b.pc = r.body)) ∧
     ∀ p ∈ ([(.rfskip h f, false), (.rfexit h f, true)] : List (Instr × Bool)), Issues p.1 s →
       (s.b.refill = none → exec p.1 s = Host.Outcome.next (s.takeTrap cRefill 0 0)) ∧
       ∀ (r : Region) (x : Refill) (y : RInst), s.regionOf s.b = some r → (s.issued p.1).b.refill = some x →
         s.instGet s.b r x.region x.inst = some y →
         let g := s.b.guard h
         (g &&& ~~~(x.prologue ||| x.body) ≠ 0 → exec p.1 s = Host.Outcome.next (s.takeTrap cRefill 0 0)) ∧
         (g &&& ~~~(x.prologue ||| x.body) = 0 → s.b.deepLanes g = 0 → r.ordered = false → r.task = false →
           g &&& ~~~x.hasOrd = 0 → g ≠ s.b.emr →
           ∃ t : State, exec p.1 s = Host.Outcome.next t ∧ MemorySame s t ∧ t.b.vregs = s.b.vregs ∧
             t.b.sregs = s.b.sregs ∧ t.b.preds = s.b.preds ∧ t.b.emr = s.b.emr &&& ~~~g ∧
             t.b.pc = (s.issued p.1).b.pc ∧
             (t.instGet t.b r x.region x.inst).map (fun z => z.cursor) = some (y.cursor + g.list.length) ∧
             (p.2 = true → (t.instGet t.b r x.region x.inst).map (fun z => z.closed) = some true ∧
               (t.b.refill.map fun z => z.drained) = some (x.drained ||| g)))) ∧
  (∀ s : State,
     (∀ (r : Region) (f : Refill) (x : RInst) (la : Launch) (e : StackEnt) (rest : List StackEnt),
       s.b.status = .running → s.b.emr ≠ 0 → s.regionOf s.b = some r → s.b.refill = some f → r.stop = s.b.pc →
       s.b.nf = 0 → r.ordered = false → r.task = false → s.b.emr &&& ~~~f.retire = 0 →
       s.b.emr &&& (f.prologue ||| f.body ||| f.drainAfter) = 0 → f.pset = 0 →
       s.instGet s.b r f.region f.inst = some x → x.closed = false → s.launchOf s.b = some la →
       (∀ k : Nat, k < s.b.emr.list.length → passedBound (x.value (x.next + k)) x.bound x.step = false) →
       s.b.stack = e :: rest → e.kind = .refill → s.b.base < s.b.stack.length →
       s.b.stack.length < 1024 → s.lineNear s.b r.body = true →
       ∃ t : State, exec .retireAtEnd s = Host.Outcome.next t ∧ MemorySame s t ∧ t.b.vregs = s.b.vregs ∧
         t.b.sregs = s.b.sregs ∧ t.b.preds = s.b.preds ∧ t.b.emr = s.b.emr ∧ t.b.pc = r.prologue ∧
         t.instGet t.b r f.region f.inst = some { x with next := x.next + s.b.emr.list.length,
                                                         cursor := x.cursor + s.b.emr.list.length } ∧
         (t.launchOf t.b).map (fun l => l.iters) = some (la.iters + s.b.emr.list.length)) ∧
     (∀ (k l : Nat) (r : Region) (f : Refill) (x : RInst) (e : StackEnt) (rest : List StackEnt),
       let b := (s.focus k).b
       b.uid = k → b.status = .running → b.emr = 0 → b.wait = .cursor → (s.focus k).regionOf b = some r →
       b.refill = some f → (s.focus k).instGet b r f.region f.inst = some x → r.ordered = true →
       f.holder x.cursor = some l → f.rp.getLsbD l = true → b.stack = e :: rest → e.kind = .refill →
       b.base < b.stack.length →
       ∃ t : State, exec (.refillCursorAdvance k) s = Host.Outcome.next t ∧ MemorySame s t ∧
         t.b.uid = k ∧ t.b.vregs = b.vregs ∧ t.b.sregs = b.sregs ∧ t.b.preds = b.preds ∧
         t.b.emr = 1#32 <<< l ∧ t.b.pc = r.retire ∧ t.b.wait = .none) ∧
     ∀ (la c k : Nat) (b : Bough) (r : Region) (g : Nat) (d : Launch) (x : RInst), b ∈ s.allBoughs →
       b.launch = la → b.cid = c → b.wait = .inst g → s.launchOf b = some d →
       d.desc.regions[g]? = some r → s.instGet b r g k = some x → (Sparse.get b.rjoined g).toNat = k + 1 →
       ∃ t : State, exec (.instanceClose la c k) s = Host.Outcome.next t ∧ MemorySame s t ∧
         (if x.isOver r then { b with wait := .none } else b) ∈ t.allBoughs)

/-- R152: RFINFO reads the ordinal, the value and the distance from the cursor of each executing lane's
iteration, the cursor and the region's word; outside a region every item reads 0.
R217: TOKTEST. Where no operation of the bough holds the token that it names, SD takes the register's
value and the predicate holds; else SD says that the operation runs, with its progress so far.
R26, R139, R365: the waits that time ends. A bough whose YIELD or SLEEP has run out is ready again; one
whose wait has not run out stays as it is, and so does every other bough. -/
def Obligations.QueriesAndExpiries : Prop :=
  ((∀ (h : Hdr) (f : FmtY) (s : State), Issues (.rfinfo h f) s →
       let n := f.sub.toNat
       ∃ t : State, exec (.rfinfo h f) s = Host.Outcome.next t ∧ RegisterFrame s t ∧ t.b.preds = s.b.preds ∧
         (s.b.refill = none →
           if n ≤ 2 then WritesLanes s.b t.b h.tr f.vd.toNat 1 (s.b.guard h) (fun _ => 0) ∧ t.b.sregs = s.b.sregs
           else WritesScalar s.b t.b f.sd.toNat 0 ∧ t.b.vregs = s.b.vregs) ∧
         ∀ (r : Region) (x : Refill) (y : RInst), s.regionOf s.b = some r →
           (s.issued (.rfinfo h f)).b.refill = some x → s.instGet s.b r x.region x.inst = some y →
           let o (l : Nat) : Nat := (Sparse.get x.ord l).toNat
           if n ≤ 2 then
             WritesLanes s.b t.b h.tr f.vd.toNat 1 (s.b.guard h) (fun l =>
               if n = 0 then o l % 2 ^ 32
               else if n = 1 then (if r.task then 0 else (y.value (o l)).toNat)
               else min (o l - y.cursor) (2 ^ 32 - 1)) ∧ t.b.sregs = s.b.sregs
           else
             WritesScalar s.b t.b f.sd.toNat
               (if n = 3 then BitVec.ofNat 64 y.cursor
                else BitVec.ofNat 64 (x.region % 2 ^ 4 + 2 ^ 4 * bit r.ordered + 2 ^ 5 * bit r.perLaunch +
                  2 ^ 6 * bit r.task + 2 ^ 7)) ∧ t.b.vregs = s.b.vregs) ∧
   (∀ (h : Hdr) (f : FmtY) (s : State), Issues (.toktest h f) s →
       let busy := (s.cores.flatMap fun c => c.2.ops).find? fun o => o.uid == s.b.uid && o.tk == f.s1.toNat &&
         (match o.instr.view with
          | some (_, .e _) | some (_, .attn _ _) => true
          | _ => false)
       ∃ t : State, exec (.toktest h f) s = Host.Outcome.next t ∧ RegisterFrame s t ∧ t.b.vregs = s.b.vregs ∧
         (busy = none → WritesScalar s.b t.b f.sd.toNat (s.b.sreg f.s1.toNat) ∧
           WritesPred s.b t.b f.pd (s.b.guard h) fun _ => true) ∧
         ∀ o : EngOp, busy = some o →
           WritesScalar s.b t.b f.sd.toNat (BitVec.ofNat 64 (0xFF * 2 ^ 32 + o.progress % 2 ^ 32)) ∧
           WritesPred s.b t.b f.pd (s.b.guard h) fun _ => false)) ∧
  (∀ (s : State) (k : Nat) (b : Bough), k ≠ 0 → s.bough k = some b →
     (∀ n : Nat, b.wait = .yield n →
       ∃ t : State, exec (.yieldExpiry k) s = Host.Outcome.next t ∧
         t = { s with b := t.b, boughs := t.boughs } ∧
         t.bough k = some (if n ≤ s.time then { b with wait := .none } else b) ∧
         ∀ m : Nat, m ≠ k → t.bough m = s.bough m) ∧
     ∀ n : Nat, b.wait = .sleep n → n ≠ 0 →
       ∃ t : State, exec (.sleepExpiry k) s = Host.Outcome.next t ∧
         t = { s with b := t.b, boughs := t.boughs } ∧
         t.bough k = some (if n ≤ s.time then { b with wait := .sleep 0 } else b) ∧
         ∀ m : Nat, m ≠ k → t.bough m = s.bough m)

/-! ## Class 3: loads and stores -/

/-- R90, R188, R194, R195, R202, R203: LD. A LOCAL load reads its bytes as it issues, once nothing in flight
writes a register that it reads; a GLOBAL load whose pages all translate goes into flight with one access per
lane, aligned, or per byte; what the L1 may answer is answered with the bytes of a live sector. -/
def Obligations.LoadIssues : Prop :=
  ∀ (h : Hdr) (f : FmtM) (s : State), Issues (.ld h f) s →
    let g := s.b.guard h
    let as_ := (s.issued (.ld h f)).b.accesses f g
    let n := f.sz.bytes
    let x := s.xlateLanes s.b false n as_
    (f.sp = .localSp → s.windowBusy n as_ = true → exec (.ld h f) s = Host.Outcome.next (s.hold .scoreboard)) ∧
    (f.sp = .localSp → s.windowBusy n as_ = false →
      ∃ (t : State) (y : Load), exec (.ld h f) s = Host.Outcome.next t ∧ FlightFrame s t ∧
        t.loads = s.loads ++ [y] ∧ y = { s.b.newLoad h f g with id := y.id, tok := y.tok, acc := y.acc } ∧
        y.acc.map (fun a => (a.lane, a.got)) = as_.map fun la => (la.1, some
          ((s.issued (.ld h f)).localRdN s.b.core s.b.part s.b.launch s.b.cid la.2 n))) ∧
    (f.sp ≠ .localSp → AccessWaits (.ld h f) s x) ∧
    (f.sp ≠ .localSp → Reaches s x →
      ∃ (t : State) (y : Load), exec (.ld h f) s = Host.Outcome.next t ∧ FlightFrame s t ∧
        t.loads = s.loads ++ [y] ∧ t.stores = s.stores ∧ t.atoms = s.atoms ∧
        y = { s.b.newLoad h f g with id := y.id, tok := y.tok, acc := y.acc } ∧
        y.acc.map (fun a => (a.lane, a.pa, a.n, a.off)) = x.good.map (fun p => (p.lane, p.pa, p.n, p.off)) ∧
        ∀ a ∈ y.acc, a.got = none ∨ ∃ e ∈ (s.core s.b.core).l1, e.live s.time = true ∧ e.pa = a.pa / 32 ∧
          a.got = some (e.read a.pa a.n))

/-- R204, R205, R207: LDRO is answered by the read-only path, from a line that its cache holds or else from
memory, whole at its issue (the model's choice, log 11: R200 leaves the moment open); PREF.l1 asks for sectors and returns nothing to a register, PREF.die brings the line of a translated address
into its home slice, as the most recently used (the replacement is the model's choice, log 64); XPROBE writes
what a translation of each lane's address gives, and its verdict to the predicate. None faults a lane by
itself but LDRO.
R196, R198, R202, R203, R206: ST and ZLINE. A release waits until it may pass; a LOCAL store writes its
bytes as it issues; a GLOBAL store sends one write per access to its home, with the bytes of the source
registers, and ZLINE one zeroing per line; no byte of memory changes before the home performs it. One waits
while an atomic of its core has yet to act on the L1's copy of its bytes (the model's choice, log 59). -/
def Obligations.ReadOnlyAndStores : Prop :=
  (∀ (h : Hdr) (f : FmtM) (s : State),
     let g := s.b.guard h
     (Issues (.ldro h f) s →
       let x := s.xlateLanes s.b false f.sz.bytes ((s.issued (.ldro h f)).b.accesses f g)
       AccessWaits (.ldro h f) s x ∧
       (Reaches s x → (∀ p ∈ x.good, s.roCheck p = none) → ∃ (t : State) (y : Load), exec (.ldro h f) s = Host.Outcome.next t ∧ FlightFrame s t ∧
         t.loads = s.loads ++ [y] ∧
         y = { s.b.newLoad h f g with id := y.id, tok := y.tok, acc := y.acc, ro := true } ∧
         y.acc.map (fun a => (a.lane, a.pa, a.n, a.off)) = x.good.map (fun p => (p.lane, p.pa, p.n, p.off)) ∧
         ∀ a ∈ y.acc, ∃ v : BitVec 1024,
           (v = BitVec.ofNat 1024 (s.rd (a.pa / 128 * 128) 128) ∨
             ∃ r ∈ (s.core s.b.core).roc, r.pa = a.pa / 128 ∧ r.bytes = v) ∧
           a.got = some (v.toNat / 2 ^ (8 * (a.pa % 128)) % 2 ^ (8 * a.n)))) ∧
     (Issues (.prefL1 h f) s → ∃ t : State, exec (.prefL1 h f) s = Host.Outcome.next t ∧ FlightFrame s t ∧
       t.stores = s.stores ∧ t.atoms = s.atoms ∧
       (t.loads = s.loads ∨ ∃ y : Load, t.loads = s.loads ++ [y] ∧ y.n = 0 ∧ y.mask = 0)) ∧
     (Issues (.prefDie h f) s → ∃ t : State, exec (.prefDie h f) s = Host.Outcome.next t ∧ FlightFrame s t ∧
       t.loads = s.loads ∧ t.stores = s.stores ∧ t.atoms = s.atoms ∧
       ∀ (pa size : Nat) (pte : W64) (st : State), f.am = .uniform →
         (s.issued (.prefDie h f)).xlateNow s.b.core s.b.part
           ((s.issued (.prefDie h f)).b.addr f 0).toNat false = (.ok pa pte size, st) →
         t.dcache = if isHbm pa && !s.zflag.contains (pa / 128) && (s.badAt pa 1).isNone then
             takeLine s.dcache (pa / 128)
           else s.dcache) ∧
     (Issues (.xprobe h f) s →
       let rs := (g.list.foldl (fun (r : State × List (Nat × Nat)) l =>
         ((r.1.probe s.b.core s.b.part ((s.issued (.xprobe h f)).b.addr f l).toNat (f.aop == 1)).2,
          r.2 ++ [(l, (r.1.probe s.b.core s.b.part ((s.issued (.xprobe h f)).b.addr f l).toNat (f.aop == 1)).1)]))
         (s.issued (.xprobe h f), [])).2
       let v (l : Nat) : Nat := ((rs.find? fun e => e.1 == l).map fun e => e.2).getD 0
       ∃ t : State, exec (.xprobe h f) s = Host.Outcome.next t ∧
         t = { s with b := t.b, cores := t.cores, dtlb := t.dtlb, infl := t.infl, nuid := t.nuid } ∧
         RegistersOnly s.b t.b ∧ t.b.sregs = s.b.sregs ∧
         WritesLanes s.b t.b h.tr f.dv.toNat 1 g v ∧ WritesPred s.b t.b f.pd g fun l => v l % 2 == 1)) ∧
  (∀ (h : Hdr) (f : FmtM) (s : State),
     let g := s.b.guard h
     let n := f.sz.bytes
     (Issues (.st h f) s →
       let b := (s.issued (.st h f)).b
       let as_ := b.accesses f g
       let v (l : Nat) : Nat := b.storeData f (if l = 32 then (g.list.getLast?).getD 0 else l)
       let x := s.xlateLanes s.b true n as_
       let busy := s.l1Busy s.b.core x.good 1
       let held := f.ord && !s.releaseReady s.b (f.sc == .core)
       (held = true → exec (.st h f) s = Host.Outcome.next (s.hold .fence)) ∧
       (held = false → f.sp = .localSp → s.windowBusy n as_ = true →
         exec (.st h f) s = Host.Outcome.next (s.hold .scoreboard)) ∧
       (held = false → f.sp = .localSp → s.windowBusy n as_ = false →
         ∃ t : State, exec (.st h f) s = Host.Outcome.next t ∧ MemorySame s t ∧ t.stores = s.stores ∧
           t.b.sregs = s.b.sregs ∧ t.b.preds = s.b.preds ∧
           t = finish_ (.st h f) s.b.path (as_.foldl (fun t la =>
             t.localWrN s.b.core s.b.part s.b.launch s.b.cid la.2 n (v la.1)) (s.issued (.st h f)))) ∧
       (held = false → f.sp ≠ .localSp → busy = true →
         exec (.st h f) s = Host.Outcome.next (s.hold .scoreboard)) ∧
       (held = false → f.sp ≠ .localSp → busy = false → AccessWaits (.st h f) s x) ∧
       (held = false → f.sp ≠ .localSp → busy = false → Reaches s x →
         ∃ (t : State) (ys : List Store), exec (.st h f) s = Host.Outcome.next t ∧ FlightFrame s t ∧
           t.loads = s.loads ∧ t.atoms = s.atoms ∧ t.stores = s.stores ++ ys ∧
           ys.map (fun y => (y.uid, y.va, y.pa, y.kind)) = x.good.map fun p =>
             (s.b.uid, p.va, p.pa, .bytes p.n (v p.lane / 2 ^ (8 * p.off) % 2 ^ (8 * p.n))))) ∧
     (Issues (.zline h f) s →
       let x := s.xlateLanes s.b true 1 ((s.issued (.zline h f)).b.accesses f g)
       let busy := s.l1Busy s.b.core x.good 128
       (busy = true → exec (.zline h f) s = Host.Outcome.next (s.hold .scoreboard)) ∧
       (busy = false → AccessWaits (.zline h f) s x) ∧
       (busy = false → Reaches s x →
         ∃ (t : State) (ys : List Store), exec (.zline h f) s = Host.Outcome.next t ∧ FlightFrame s t ∧
           t.loads = s.loads ∧ t.atoms = s.atoms ∧ t.stores = s.stores ++ ys ∧
           ys.map (fun y => (y.uid, y.pa, y.kind)) = (firstOfLine [] x.good).map fun p =>
             (s.b.uid, p.pa / 128 * 128, .zero))))

/-- R131, R188, R356, R358: some lanes of a GLOBAL load cannot translate their address, in a partition with a
fault queue. Those lanes leave the running split for an entry that waits at the load; the others go on past it,
and where none is left the fault join is pushed beneath at once, at the load itself. A walk that read an
uncorrectable error is a machine check instead, also where other lanes of the load meet a replayable fault, and
then no lane parks (R357; log 48, a deduction).
R144: in a refill region the same holds, but of the lane that runs an ordered retire section: it leaves its split
and becomes FP, with its address and FMT, and the cursor stays. -/
def Obligations.ReplayableFault : Prop :=
  ∀ (h : Hdr) (f : FmtM) (s : State), Issues (.ld h f) s → f.sp ≠ .localSp →
    (s.part s.b.part).fqbase ≠ 0 →
    let g := s.b.guard h
    let x := s.xlateLanes s.b false f.sz.bytes ((s.issued (.ld h f)).b.accesses f g)
    let m := laneMask g (x.bad.map fun e => e.1)
    x.miss = [] → (x.good.find? fun p => s.unreachable s.b.part p.pa) = none → x.bad ≠ [] →
      ((∃ e ∈ x.bad, isCheck e.2.1 = true) → ∃ e ∈ x.bad, isCheck e.2.1 = true ∧ exec (.ld h f) s =
        Host.Outcome.next (s.machineCheck (e.2.1 % 256) (e.2.1 / 256) (BitVec.ofNat 64 e.2.2))) ∧
      ((∀ e ∈ x.bad, isCheck e.2.1 = false) → s.fpLanes m = 0 → s.b.stack.length + 2 ≤ 1024 →
        s.lineNear s.b s.b.pc = true → (m ≠ s.b.emr ∨ (s.b.refill = none ∧ s.b.nf = 0)) →
        ∃ (t : State) (e : StackEnt), exec (.ld h f) s = Host.Outcome.next t ∧
          t.b.vregs = s.b.vregs ∧ t.b.sregs = s.b.sregs ∧ t.b.preds = s.b.preds ∧
          t.b.emr = s.b.emr &&& ~~~m ∧
          (m ≠ s.b.emr → t.b.stack = e :: s.b.stack ∧ t.b.nf = s.b.nf + 1 ∧ t.b.refill = (s.issued (.ld h f)).b.refill) ∧
          (m = s.b.emr → t.b.wait = .fault ∧ ∃ j : StackEnt, t.b.stack = e :: j :: s.b.stack ∧ j.kind = .fault ∧
            j.join = true ∧ j.mask = m ∧ j.addr = s.b.pc ∧ j.fmt = s.b.fmt) ∧
          e.mask = m ∧ e.kind = .fault ∧ e.join = false ∧ e.svc = false ∧ e.addr = s.b.pc ∧ e.fmt = s.b.fmt ∧
          (t.part s.b.part).recs = (s.part s.b.part).recs + 1) ∧
      ∀ (r : Region) (y : Refill) (l : Nat), (∀ e ∈ x.bad, isCheck e.2.1 = false) → s.b.emr = 1#32 <<< l → l < 32 →
        s.regionOf s.b = some r → s.b.refill = some y → r.ordered = true → y.retire.getLsbD l = true → s.b.nf = 0 →
        s.b.tgroups = [] → (∃ e ∈ s.b.reach, e.kind = .refill) →
        ∃ (t : State) (z : Refill) (p : Park), exec (.ld h f) s = Host.Outcome.next t ∧
          t.b.vregs = s.b.vregs ∧ t.b.sregs = s.b.sregs ∧ t.b.preds = s.b.preds ∧ t.b.refill = some z ∧
          z.fp.getLsbD l = true ∧ z.retire.getLsbD l = false ∧ p ∈ z.parks ∧ p.lane = l ∧ p.addr = s.b.pc ∧
          p.fmt = s.b.fmt ∧
          (t.instGet t.b r y.region y.inst).map (fun i => i.cursor) =
            (s.instGet s.b r y.region y.inst).map (fun i => i.cursor) ∧
          (t.part s.b.part).recs = (s.part s.b.part).recs + 1

/-- R92, R195, R202, R226: a load in flight. Its home answers an access where the L1 may not, with the bytes
that a reader sees and a lease on the line, once no earlier store of the core to the bytes is outstanding
(R226), and no earlier load of the bough of them (log 59, the model's choice); and when every access is answered its registers are written in its
lanes, and no other register. Data with an uncorrectable error are a machine check: one more fault record, and
the launch is killed with end status 2. While the record waits for a slot of the ring the bough is parked and
the launch goes on until the record is written (R358; log 48).
R248: in a deterministic launch a load of a line that holds an entry of the launch reads the current value
where the line is private to its copse, and else the phase copy with the copse's own logged writes applied. -/
def Obligations.LoadSteps : Prop :=
  ∀ (s : State) (k : Nat) (x : Load), (s.loads.find? fun x => x.id == k) = some x →
    (∀ (j : Nat) (a : LoadAcc), x.acc[j]? = some a → a.got = none →
      let held := s.unacked x.core x.id a.pa a.n || s.readsBefore x a
      (held = true → exec (.leaseGrant k j) s = Host.Outcome.next s) ∧
      (held = false → s.l1Answer x a = none → x.n ≠ 0 → ∀ c : Nat,
        s.homeCheck x.part x.launch (s.isDet x.part x.launch) a.pa a.n = some c → ∀ (b : Bough) (l : Launch),
        s.bough x.uid = some b → s.launch b.part b.launch = some l → l.killed = false →
        (s.doomed x.part x.launch = true → exec (.leaseGrant k j) s = Host.Outcome.next s) ∧
        (s.doomed x.part x.launch = false → s.ringBusy b.part = false →
          ∃ (t : State) (y : Launch), exec (.leaseGrant k j) s = Host.Outcome.next t ∧
            t.launch b.part b.launch = some y ∧ y.killed = true ∧ y.endst = 2 ∧
            (t.part b.part).recs = (s.part b.part).recs + 1) ∧
        (s.doomed x.part x.launch = false → (s.part b.part).fqbase ≠ 0 →
          (s.part b.part).fqFree (s.part b.part).recs = false →
          ∃ (t : State) (c : Bough) (y : Launch), exec (.leaseGrant k j) s = Host.Outcome.next t ∧
            t.launch b.part b.launch = some y ∧ y.killed = false ∧ t.bough x.uid = some c ∧ c.wait = .fault ∧
            (∃ d ∈ (t.part b.part).dooms, d.launch = b.launch ∧ d.uid = x.uid ∧ d.endst = 2) ∧
            (t.part b.part).recs = (s.part b.part).recs + 1)) ∧
      (held = false →
        (s.l1Answer x a = none → s.homeCheck x.part x.launch (s.isDet x.part x.launch) a.pa a.n = none) →
        ∃ (t : State) (v : Nat), exec (.leaseGrant k j) s = Host.Outcome.next t ∧ MemorySame s t ∧
          t.b = s.b ∧ t.boughs = s.boughs ∧
          ((t.loads.find? fun x => x.id == k).bind fun x => x.acc[j]?) = some { a with got := some v } ∧
          (s.l1Answer x a = none →
            v = s.homeRead x.part x.launch x.cid (s.isDet x.part x.launch) a.pa a.n ∧
            (a.raw = false → a.sysCoh = false →
              s.time + s.leaseLen x.part x.launch ≤ t.leaseOf (a.pa / 128)) ∧
            (s.isDet x.part x.launch = false ∨ s.heartOf (a.pa / 128) = none → v = s.rd a.pa a.n) ∧
            ∀ h : Heart, s.heartOf (a.pa / 128) = some h → s.isDet x.part x.launch = true → h.part = x.part →
              h.launch = x.launch → a.pa % 128 + a.n ≤ 128 →
              let own := h.log.filter fun w => w.by_.copse == x.cid
              (h.shared = false → h.owner = x.cid → v = s.rd a.pa a.n) ∧
              (h.shared = true ∨ h.owner ≠ x.cid →
                (own = [] → v = h.copy.toNat / 2 ^ (8 * (a.pa % 128)) % 2 ^ (8 * a.n)) ∧
                (own.Pairwise (fun p q => p.by_.before q.by_ = true) →
                  v = applyWrites (s.phaseOf x.part x.launch) own h.copy.toNat /
                    2 ^ (8 * (a.pa % 128)) % 2 ^ (8 * a.n)))))) ∧
    (∀ b : Bough, s.bough x.uid = some b → (x.acc.all fun a => a.got.isSome) = true → x.tr = false →
      ∃ (t : State) (c : Bough), exec (.loadDataReturn k) s = Host.Outcome.next t ∧ MemorySame s t ∧
        t.bough x.uid = some c ∧ t.loads = s.loads.filter (fun y => y.id != k) ∧
        c.sregs = b.sregs ∧ c.preds = b.preds ∧
        WritesLanes b c false x.dv ((x.n + 3) / 4) x.mask (fun l => x.value l) ∧
        ∀ u : Nat, u ≠ x.uid → t.bough u = s.bough u)

/-- R196, R197, R199, R206, R228: a write in flight. Its home performs it once nothing that the bough sent to
the line before is outstanding, and no earlier result that the same core or die place writes through to the
bytes (R260, R262; log 59): exactly its bytes change, or its line becomes zero, and an acknowledgement
leaves that bears the time at which every lease on the line has ended; the acknowledgement raises the bough's
WH to it, and its core's (R227).
R247, R251, R252: a write of a deterministic launch is logged in the Heartwood entry of its line, and applied
only while the line is private to its copse; SHARED, NONDET, the races and OVERFLOW follow. R250: a write from
outside the launch is applied at once to the line and to its phase copy, and sets FOREIGN. -/
def Obligations.StoreSteps : Prop :=
  ∀ (s : State) (k : Nat),
    (∀ x : Store, (s.stores.find? fun x => x.id == k) = some x →
      let held := s.mustWait x.uid x.by_.seq (x.pa / 128) || s.thruBefore x
      (held = true → exec (.storePerform k) s = Host.Outcome.next s) ∧
      (held = false → ((∃ n v : Nat, x.kind = .bytes n v ∧ x.pa % 128 + n ≤ 128) ∨ x.kind = .zero) →
        let line := x.pa / 128
        let late := if x.sysCoh then s.time else max s.time (s.leaseOf line)
        ∃ (t : State) (y : Ack), exec (.storePerform k) s = Host.Outcome.next t ∧ t.b = s.b ∧
          t.boughs = s.boughs ∧ t.stores = s.stores.filter (fun y => y.id != k) ∧ t.acks = s.acks ++ [y] ∧
          y.uid = x.uid ∧
          (x.by_.det = false → s.heartOf line = none → StoreLands s t x ∧ y.done = late) ∧
          (∀ h : Heart, s.heartOf line = some h →
            x.by_.det = false ∨ ¬ (h.part = x.by_.part ∧ h.launch = x.by_.launch) → StoreLands s t x ∧
              y.done = late ∧ (s.launch h.part h.launch ≠ none → t.met h.part h.launch 1) ∧
              ∃ g : Heart, t.heartOf line = some g ∧ g = { h with copy := g.copy } ∧ CopyTakes x h.copy g.copy) ∧
          ∀ l : Launch, x.by_.det = true → s.launch x.by_.part x.by_.launch = some l → l.killed = false →
            let entry : HwWrite := { by_ := x.by_, pa := x.pa, kind := x.kind }
            let full := s.heartFull x.by_.part line
            (s.heartOf line = none → full = false → StoreLands s t x ∧ y.done = s.time ∧
              ∃ g : Heart, t.heartOf line = some g ∧ g.part = x.by_.part ∧ g.launch = x.by_.launch ∧
                g.shared = false ∧ g.owner = x.by_.copse ∧ g.copy = BitVec.ofNat 1024 (s.line line) ∧
                g.log = [entry] ∧ g.writers = [x.by_.copse]) ∧
            (s.heartOf line = none → full = true → StoreLands s t x ∧ y.done = late ∧ t.heartOf line = none ∧
              t.met x.by_.part x.by_.launch 2) ∧
            ∀ h : Heart, s.heartOf line = some h →
              (¬ (h.part = x.by_.part ∧ h.launch = x.by_.launch) → t.met x.by_.part x.by_.launch 1) ∧
              (h.part = x.by_.part → h.launch = x.by_.launch → full = true → StoreLands s t x ∧ y.done = late ∧
                t.met x.by_.part x.by_.launch 2 ∧
                ∃ g : Heart, t.heartOf line = some g ∧ g = { h with copy := g.copy } ∧ CopyTakes x h.copy g.copy) ∧
              (h.part = x.by_.part → h.launch = x.by_.launch → full = false →
                let shared := h.shared || h.owner != x.by_.copse
                let second := !h.writers.contains x.by_.copse && h.writers.length == 1
                let race := l.desc.racechk && second
                (shared = false → StoreLands s t x) ∧ (shared = true → MemorySame s t) ∧ y.done = s.time ∧
                t.heartOf line = some { h with
                  shared, log := h.log ++ [entry],
                  writers := if second then h.writers ++ [x.by_.copse] else h.writers } ∧
                (t.launch x.by_.part x.by_.launch).map (fun m => (m.evNow, m.races)) = some
                  (l.evNow ||| (if shared && h.atom then 1 else 0) |||
                      (if race && decide (4096 ≤ l.races.length) then 8 else 0),
                    if race && decide (l.races.length < 4096) then
                      l.races ++ [{ va := x.va / 128 * 128, phase := l.phases, owner := h.owner,
                                    second := x.by_.copse }]
                    else l.races)))) ∧
    ∀ (x : Ack) (b : Bough), (s.acks.find? fun x => x.id == k) = some x → s.bough x.uid = some b →
      (s.copseOf b).map (fun c => c.at_) = some .resident →
      ∃ (t : State) (c : Bough), exec (.storeAcknowledgement k) s = Host.Outcome.next t ∧ MemorySame s t ∧
        t.acks = s.acks.filter (fun y => y.id != k) ∧ t.bough x.uid = some c ∧ c.wh = max b.wh x.done ∧
        (t.core x.core).wh = max (s.core x.core).wh x.done ∧
        c.vregs = b.vregs ∧ c.sregs = b.sregs ∧ c.preds = b.preds ∧
        ∀ u : Nat, u ≠ x.uid → t.bough u = s.bough u

/-- R38, R39, R188, R375: a walk that ends is known to every bough that waits for it, which waits no longer:
with the leaf entry or with the cause of its failure; one that is not among the first 64 of its die waits. An instruction that held a flag and that nothing in
flight still holds lets the flag's count fall by one. -/
def Obligations.Completions : Prop :=
  ∀ (s : State) (k : Nat),
    (∀ w : Walk, (s.walks.find? fun w => w.id == k) = some w → s.walkRuns w = false →
      exec (.walkComplete k) s = Host.Outcome.next s) ∧
    (∀ w : Walk, (s.walks.find? fun w => w.id == k) = some w → s.walkRuns w = true →
      ∃ t : State, exec (.walkComplete k) s = Host.Outcome.next t ∧ MemorySame s t ∧
        t.walks = s.walks.filter (fun x => x.id != k) ∧
        ∀ b ∈ s.allBoughs, w.joined.contains b.uid = true → ∃ (c : Bough) (r : WalkRes), c ∈ t.allBoughs ∧
          c = { b with walkRes := r :: b.walkRes, wait := if b.wait = .walk then .none else b.wait } ∧
          r.va = w.va ∧
          (∀ z : Nat, s.walk w.part (w.va * 2 ^ 16) = .fail z → r.cause = z) ∧
          ∀ (pte : W64) (z : Nat), s.walk w.part (w.va * 2 ^ 16) = .leaf pte z →
            r.cause = 0 ∧ r.pte = pte ∧ r.size = z) ∧
    ∀ (x : Infl) (b : Bough), (s.infl.find? fun x => x.id == k) = some x → s.bough x.uid = some b → x.tok ≠ 0 →
      ∃ (t : State) (c : Bough), exec (.instructionCompletion k) s = Host.Outcome.next t ∧
        t = { s with b := t.b, boughs := t.boughs, infl := s.infl.filter fun y => y.id != k } ∧
        t.bough x.uid = some c ∧ c = { b with flags := c.flags } ∧
        (({ s with infl := s.infl.filter fun y => y.id != k } : State).tokHeld x.tok = false →
          ∀ n : Nat, c.flag n = if n = (x.tok - 1) % 12 then b.flag n - 1 else b.flag n) ∧
        (({ s with infl := s.infl.filter fun y => y.id != k } : State).tokHeld x.tok = true → c = b)

/-- R34, R35, R40, R43, R45, R133: the entry into a line. The line that the fetch gives becomes the current line
where it is well formed, where its TM admits the slot of the PC after a checked transfer, or where an instruction named the PC while the line
could not be read (R133; log 62), and where every flag
of its wait mask is clear; else a malformed line or an illegal target is trapped, and the bough waits for the
flags. -/
def Obligations.LineEntry : Prop :=
  ∀ (s u : State) (x : BitVec 512), s.b.status = .running → s.b.emr ≠ 0 → s.b.inLine = false →
    s.fetch s.b (lineAddr s.b.pc) = (.line x, u) →
    let due := s.b.checkTM || s.b.tmDue.contains s.b.pc
    (lineMalformed x = true → exec .lineEntry s = Host.Outcome.next (u.takeTrap cMalformed 0 0)) ∧
    (lineMalformed x = false → due = true → lineTM x (slotOf s.b.pc) = false →
      exec .lineEntry s = Host.Outcome.next (u.takeTrap cTarget 0 s.b.pc)) ∧
    (lineMalformed x = false → due = false ∨ lineTM x (slotOf s.b.pc) = true →
      ((∃ n : Nat, n < 12 ∧ (lineWM x).testBit n = true ∧ s.b.flag n ≠ 0) →
        exec .lineEntry s = Host.Outcome.next (u.hold .flags)) ∧
      ((∀ n : Nat, n < 12 → (lineWM x).testBit n = true → s.b.flag n = 0) →
        ∃ t : State, exec .lineEntry s = Host.Outcome.next t ∧ MemorySame s t ∧
          t = { s with b := t.b, cores := t.cores, dtlb := t.dtlb, dcache := t.dcache } ∧
          t.b = { s.b with line := some { addr := lineAddr s.b.pc, bits := x }, entered := true,
                           checkTM := false, wait := .none,
                           tmDue := s.b.tmDue.filter fun a => a != s.b.pc }))

/-! ## Class 4: atomics -/

/-- R257, R259, R263, R266, R267, R268, R269, R279: ATOM, RED, CAS and the level counters go into flight with
one group per location and place, each with its lanes' operands in lane order; a release waits until it may
pass. No byte of memory changes before a group's batch is applied. -/
def Obligations.AtomicIssues : Prop :=
  ∀ (h : Hdr) (f : FmtM) (s : State),
    let g := s.b.guard h
    let n := f.sz.bytes
    let b (i : Instr) : Bough := (s.issued i).b
    let word (i : Instr) (r l : Nat) : Nat := (b i).wide r l f.sz.regs
    let w := f.aop.toNat % 2
    let goes (i : Instr) (r : AtomReq) (as_ : List (Nat × Nat)) (rel write : Bool) (ctr : Piece → Nat)
        (v cmp : Nat → Nat) (pd : Pd) : Prop := Issues i s →
      let x := s.xlateLanes s.b write r.size as_
      (rel = true → exec i s = Host.Outcome.next (s.hold .fence)) ∧
      (rel = false → AccessWaits i s x) ∧
      (rel = false → Reaches s x → (∀ p ∈ x.good, r.fault p = none) →
        ∃ (t : State) (y : Atom), exec i s = Host.Outcome.next t ∧ FlightFrame s t ∧
          t.loads = s.loads ∧ t.stores = s.stores ∧ t.atoms = s.atoms ++ [y] ∧ y.uid = s.b.uid ∧
          y.aop = r.aop ∧ y.ret = r.ret ∧ y.size = r.size ∧ y.dv = f.dv.toNat ∧ y.pd = pd ∧
          y.acq = (if r.ret then acqOf f else 0) ∧ y.groups = s.groupLanes s.b r x.good ctr v cmp)
    let rel := f.ord && !s.releaseReady s.b (f.sc == .core)
    let lc (aop : Nat) (ret : Bool) : AtomReq := { aop, ty := .i8, size := 1, sc := f.sc, ret, lcw := w }
    let ctr (i : Instr) (p : Piece) : Nat := if w = 0 then p.pa else 2 * p.pa + ((b i).addr f p.lane).toNat % 2
    let lv (i : Instr) (l : Nat) : Nat := ((b i).vreg f.dv.toNat l).toNat % 256
    goes (.atom h f) { aop := f.aop.toNat, ty := f.ty, size := n, sc := f.sc, ret := true, lcw := 0 }
      ((b (.atom h f)).atomAddrs f n g) false true (fun _ => 0)
      (fun l => word (.atom h f) f.dv.toNat l % 2 ^ (8 * n)) (fun _ => 0) none ∧
    goes (.red h f) { aop := f.aop.toNat, ty := f.ty, size := n, sc := f.sc, ret := false, lcw := 0 }
      ((b (.red h f)).atomAddrs f n g) rel true (fun _ => 0)
      (fun l => word (.red h f) f.dv.toNat l % 2 ^ (8 * n)) (fun _ => 0) none ∧
    goes (.cas h f) { aop := 12, ty := f.ty, size := n, sc := f.sc, ret := true, lcw := 0 }
      ((b (.cas h f)).atomAddrs f n g) false true (fun _ => 0) (fun l => word (.cas h f) (f.dv.toNat + f.sz.regs) l)
      (fun l => word (.cas h f) f.dv.toNat l) f.pd ∧
    (∀ p ∈ ([(.lcadd h f, lc 13 false, rel, true), (.lcread h f, lc 14 true, false, false),
        (.lcmerge h f, lc 15 false, rel, true)] : List (Instr × AtomReq × Bool × Bool)),
      goes p.1 p.2.1 ((b p.1).counters f g) p.2.2.1 p.2.2.2 (ctr p.1) (lv p.1) (fun _ => 0) none)

/-- R263, R267, R268: what the lanes of a batch leave at the location and what each of them meets, operation by
operation, in lane order. A batch at the home of its line, once nothing that the bough sent to the line before
is outstanding, leaves that value, and no other byte changes; RED's batch is acknowledged.
R278, R279, R280: LCADD and LCMERGE move a level lane by lane, each lane with the next draw of the slice, and
LCREAD answers the estimate of the level; the powers of the base are those of log 16.
R247: in a deterministic launch a value-returning atomic acts on the current value of the line, what it writes
is applied and logged as a store, and NONDET is set if the line is shared; a RED is logged lane by lane.
R257, R260: a batch at its core's place or at a die's works on the copy that the place holds, or on the bytes
that it fetches with a lease; the copy takes the result, which leaves for the home as a store of the bough, and
no byte of memory changes meanwhile. A place fetches nothing while a write of its core to the location, or of
the die to the line, is on its way (the model's way to keep R260's order, log 59).
The values that have all arrived are written to the lanes' registers. -/
def Obligations.AtomicSteps : Prop :=
  (∀ (x : Atom) (y : AtomGrp) (v : Nat), x.aop < 12 → ∃ op : Nat → Nat → Nat,
      (∀ old a : Nat,
        let w := 8 * x.size
        let fm := fmtOf x.ty
        let below (p q : Nat) : Prop := intOf x.ty.signed w p < intOf x.ty.signed w q
        let each (g : Nat → Nat → Nat) : Prop := op old a =
          elements x.ty (decide (w = 2 * fm.width)) fun e => g (element x.ty old e) (element x.ty a e)
        (x.aop = 0 → op old a = (old + a) % 2 ^ w) ∧
        (x.aop = 1 → each fun p q => fm.round .rn false ((fm.val p).add .rn (fm.val q))) ∧
        (x.aop = 2 → (below a old → op old a = a) ∧ (¬ below a old → op old a = old)) ∧
        (x.aop = 3 → (below old a → op old a = a) ∧ (¬ below old a → op old a = old)) ∧
        (x.aop = 4 → each (minMax false true x.ty)) ∧ (x.aop = 5 → each (minMax true true x.ty)) ∧
        (x.aop = 6 → op old a = old &&& a) ∧ (x.aop = 7 → op old a = old ||| a) ∧
        (x.aop = 8 → op old a = old ^^^ a) ∧ (x.aop = 9 → op old a = a) ∧
        (x.aop = 10 → op old a = if a ≤ old then 0 else old + 1) ∧
        (x.aop = 11 → op old a = if old = 0 ∨ a < old then a else old - 1)) ∧
      (x.batch y v).2 = some ((y.lanes.map fun a => a.v).foldl op v) ∧
      ∀ i : Nat, i < y.lanes.length →
        (x.batch y v).1[i]? = some (((y.lanes.take i).map fun a => a.v).foldl op v)) ∧
  (∀ (x : Atom) (y : AtomGrp) (v : Nat), x.aop = 12 →
      let meets (i : Nat) : Nat := (y.lanes.take i).foldl (fun v a => if v = a.cmp then a.v else v) v
      (∀ i : Nat, i < y.lanes.length → (x.batch y v).1[i]? = some (meets i)) ∧
      ((∃ (i : Nat) (a : AtomLane), y.lanes[i]? = some a ∧ meets i = a.cmp) →
        (x.batch y v).2 = some (meets y.lanes.length)) ∧
      ((∀ (i : Nat) (a : AtomLane), y.lanes[i]? = some a → meets i ≠ a.cmp) → (x.batch y v).2 = none)) ∧
  (∀ k n r : Nat, lcThreshold k n = r ↔
      r ^ 2 ^ k * 2 ^ n ≤ 2 ^ (32 * 2 ^ k) ∧ 2 ^ (32 * 2 ^ k) < (r + 1) ^ 2 ^ k * 2 ^ n) ∧
  (∀ k n : Nat, ∃ r : Nat, lcPow k n = r * 2 ^ (n / 2 ^ k) ∧ r ^ 2 ^ k ≤ 2 ^ (2 ^ k * lcQ + n % 2 ^ k) ∧
      2 ^ (2 ^ k * lcQ + n % 2 ^ k) < (r + 1) ^ 2 ^ k) ∧
  ∀ (s : State) (k : Nat) (x : Atom), (s.atoms.find? fun x => x.id == k) = some x →
    (∀ (j : Nat) (y : AtomGrp), x.groups[j]? = some y → y.done = false →
      let lane (a : AtomLane) (v : Nat) : AtomLane := { a with old := v }
      (s.mustWait x.uid x.id (y.pa / 128) = true → exec (.atomicBatch k j) s = Host.Outcome.next s) ∧
      (s.mustWait x.uid x.id (y.pa / 128) = false → y.place = 2 → x.by_.det = false →
        s.heartOf (y.pa / 128) = none → s.badAt y.pa x.size = none → y.pa = lcByte x.lcw y.ctr →
        isPeer y.pa = false →
        let top := if x.lcw = 0 then 255 else 15
        let level (t : State) : Nat := lcLevel x.lcw y.ctr (t.rd y.pa 1)
        let est (n : Nat) : Nat := ((List.range n).map (lcPow x.lck)).sum
        let number := s.drawNo (homeOf y.pa)
        let draw (i : Nat) : Nat :=
          (mix64 (BitVec.ofNat 64 x.seed ^^^ BitVec.ofNat 64 y.ctr ^^^ BitVec.ofNat 64 (number + i))).toNat / 2 ^ 32
        let whole (p : Nat × Nat) : Nat × Nat :=
          if p.1 < top ∧ lcPow x.lck p.1 ≤ p.2 then (p.1 + 1, p.2 - lcPow x.lck p.1) else p
        let next (d m v : Nat) : Nat :=
          if x.aop = 13 then (if m < top ∧ d < lcThreshold x.lck m then m + 1 else m)
          else
            let v := min v top
            let p := whole (whole (whole (whole (max m v, est (min m v)))))
            if p.1 < top ∧ 0 < p.2 ∧ d < min (2 ^ 32 * p.2 / lcPow x.lck p.1) (2 ^ 32) then p.1 + 1 else p.1
        ((x.aop = 13 ∨ x.aop = 15) → x.ret = false → ∀ lv : Nat → Nat, lv 0 = level s →
          (∀ (i : Nat) (a : AtomLane), y.lanes[i]? = some a → lv (i + 1) = next (draw i) (lv i) a.v) →
          ∃ (t : State) (a : Ack), exec (.atomicBatch k j) s = Host.Outcome.next t ∧ t.b = s.b ∧
            t.boughs = s.boughs ∧ MemoryOutside s t y.pa 1 ∧ level t = lv y.lanes.length ∧
            (x.lcw ≠ 0 → t.rd y.pa 1 / 16 ^ (1 - y.ctr % 2) % 16 = s.rd y.pa 1 / 16 ^ (1 - y.ctr % 2) % 16) ∧
            t.drawNo (homeOf y.pa) = number + y.lanes.length ∧ t.acks = s.acks ++ [a] ∧ a.uid = x.uid) ∧
        (x.aop = 14 → x.ret = true →
          ∃ t : State, exec (.atomicBatch k j) s = Host.Outcome.next t ∧ MemorySame s t ∧ t.b = s.b ∧
            t.boughs = s.boughs ∧ t.draws = s.draws ∧
            ((t.atoms.find? fun z => z.id == k).bind fun z => z.groups[j]?) = some { y with
              done := true
              lanes := y.lanes.map fun a => lane a (fmtF64.round .rn false
                (ofDyadic false (est (level s)) (-(lcQ : Int)))) })) ∧
      (∀ l : Launch, s.mustWait x.uid x.id (y.pa / 128) = false → y.place = 2 → x.by_.det = true →
        s.launch x.by_.part x.by_.launch = some l → l.killed = false → s.badAt y.pa x.size = none →
        y.pa % 128 + x.size ≤ 128 →
        (∀ h : Heart, s.heartOf (y.pa / 128) = some h → h.part = x.by_.part ∧ h.launch = x.by_.launch) →
        let before : List HwWrite := ((s.heartOf (y.pa / 128)).map fun h => h.log).getD []
        let shared := (s.heartOf (y.pa / 128)).any fun h => h.shared || h.owner != x.by_.copse
        (∀ v : Nat, x.ret = true → x.aop ≠ 14 → s.heartFull x.by_.part (y.pa / 128) = false →
          (x.batch y (s.rd y.pa x.size)).2 = some v →
          ∃ (t : State) (h : Heart), exec (.atomicBatch k j) s = Host.Outcome.next t ∧ t.b = s.b ∧
            t.boughs = s.boughs ∧ MemoryOutside s t y.pa x.size ∧ Holds t y.pa x.size v ∧
            ((t.atoms.find? fun z => z.id == k).bind fun z => z.groups[j]?) = some { y with
              done := true
              lanes := (y.lanes.zip (x.batch y (s.rd y.pa x.size)).1).map fun z => lane z.1 z.2 } ∧
            t.heartOf (y.pa / 128) = some h ∧ h.part = x.by_.part ∧ h.launch = x.by_.launch ∧ h.atom = true ∧
            h.shared = shared ∧ h.log = before ++ [{ by_ := x.by_, pa := y.pa, kind := .bytes x.size v }] ∧
            (shared = true → t.met x.by_.part x.by_.launch 0)) ∧
        (x.ret = true → x.aop ≠ 14 → (x.batch y (s.rd y.pa x.size)).2 = none →
          ∃ t : State, exec (.atomicBatch k j) s = Host.Outcome.next t ∧ t.b = s.b ∧ t.boughs = s.boughs ∧
            MemorySame s t ∧ t.heartOf (y.pa / 128) = (s.heartOf (y.pa / 128)).map (fun h => { h with atom := true }) ∧
            (∀ h : Heart, s.heartOf (y.pa / 128) = some h → h.shared = true →
              t.met x.by_.part x.by_.launch 0)) ∧
        let entry (a : AtomLane) : HwWrite :=
          { by_ := { x.by_ with lane := a.lane }, pa := y.pa, kind := .atom x.aop x.ty x.size [a.v] }
        (x.ret = false → x.aop < 12 → y.lanes ≠ [] → s.heartFull x.by_.part (y.pa / 128) = false →
          (∀ i : Nat, 0 < i → i < y.lanes.length →
            (s.putHeart { part := x.by_.part, launch := x.by_.launch, line := y.pa / 128, shared, owner := 0, copy := 0,
                          log := before ++ (y.lanes.take i).map entry, writers := [], atom := false }).heartFull
              x.by_.part (y.pa / 128) = false) →
          ∃ (t : State) (h : Heart), exec (.atomicBatch k j) s = Host.Outcome.next t ∧ t.b = s.b ∧
            t.boughs = s.boughs ∧ MemoryOutside s t y.pa x.size ∧ (shared = true → MemorySame s t) ∧
            (∀ v : Nat, shared = false → (x.batch y (s.rd y.pa x.size)).2 = some v → Holds t y.pa x.size v) ∧
            t.heartOf (y.pa / 128) = some h ∧ h.part = x.by_.part ∧ h.launch = x.by_.launch ∧
            h.shared = shared ∧ h.log = before ++ y.lanes.map entry)) ∧
      (s.mustWait x.uid x.id (y.pa / 128) = false → y.place = 2 → x.ret = true → x.aop ≠ 14 → x.by_.det = false →
        s.heartOf (y.pa / 128) = none → s.badAt y.pa x.size = none →
        ∃ t : State, exec (.atomicBatch k j) s = Host.Outcome.next t ∧ t.b = s.b ∧ t.boughs = s.boughs ∧
          MemoryOutside s t y.pa x.size ∧
          (∀ v : Nat, (x.batch y (s.rd y.pa x.size)).2 = some v → Holds t y.pa x.size v) ∧
          ((x.batch y (s.rd y.pa x.size)).2 = none → MemorySame s t) ∧
          ((t.atoms.find? fun z => z.id == k).bind fun z => z.groups[j]?) =
            some { y with
              done := true
              lanes := (y.lanes.zip (x.batch y (s.rd y.pa x.size)).1).map fun z => { z.1 with old := z.2 } }) ∧
      (s.mustWait x.uid x.id (y.pa / 128) = false → y.place = 2 → x.ret = false → x.aop < 12 → x.by_.det = false →
        s.heartOf (y.pa / 128) = none → s.badAt y.pa x.size = none → y.pa % 128 + x.size ≤ 128 →
        ∃ (t : State) (a : Ack), exec (.atomicBatch k j) s = Host.Outcome.next t ∧ t.b = s.b ∧
          t.boughs = s.boughs ∧ MemoryOutside s t y.pa x.size ∧
          (∀ v : Nat, (x.batch y (s.rd y.pa x.size)).2 = some v → Holds t y.pa x.size v) ∧
          t.acks = s.acks ++ [a] ∧ a.uid = x.uid ∧
          a.done = if y.sysCoh then s.time else max s.time (s.leaseOf (y.pa / 128))) ∧
      (s.mustWait x.uid x.id (y.pa / 128) = false → y.place < 2 → x.aop < 13 → x.by_.det = false →
        s.badAt y.pa x.size = none → y.pa % 32 + x.size ≤ 32 →
        let off := if y.place = 0 then y.pa % 32 else y.pa % 128
        let part (v : Nat) : Nat := v / 2 ^ (8 * off) % 2 ^ (8 * x.size)
        let die := x.core / 256
        let held : Option Nat :=
          if y.place = 0 then ((s.core x.core).l1Hit s.time y.pa).map fun e => part e.bytes.toNat
          else (s.dcopies.find? fun z => z.die == die && z.pa == y.pa / 128 && s.time < z.until_).map fun z =>
            part z.bytes.toNat
        let r := x.batch y (held.getD (s.rd y.pa x.size))
        let waits := if y.place = 0 then
            s.stores.any (fun z => z.core == x.core && bytesMeet z.span.1 z.span.2 y.pa x.size) ||
              s.acks.any fun z => z.core == x.core && bytesMeet z.pa z.n y.pa x.size
          else s.stores.any fun z => z.thru == x.through y &&
            bytesMeet z.span.1 z.span.2 (y.pa / 128 * 128) 128
        (held = none → waits = true → exec (.atomicBatch k j) s = Host.Outcome.next s) ∧
        ((held = none → waits = false) →
          ∃ (t : State) (zs : List Store), exec (.atomicBatch k j) s = Host.Outcome.next t ∧ MemorySame s t ∧
            t.b = s.b ∧ t.boughs = s.boughs ∧ t.acks = s.acks ∧ t.stores = s.stores ++ zs ∧
            zs.map (fun z => (z.uid, z.by_.seq, z.pa, z.kind)) =
              (r.2.map fun v => (x.uid, x.id, y.pa, WriteKind.bytes x.size v)).toList ∧
            (held = none → s.time + s.leaseLen x.by_.part x.by_.launch ≤ t.leaseOf (y.pa / 128)) ∧
            (x.ret = true → ((t.atoms.find? fun z => z.id == k).bind fun z => z.groups[j]?) =
              some { y with done := true, lanes := (y.lanes.zip r.1).map fun z => lane z.1 z.2 }) ∧
            (∀ v : Nat, r.2 = some v → y.place = 1 →
              ((t.dcopies.find? fun z => z.die == die && z.pa == y.pa / 128).map fun z => part z.bytes.toNat) =
                some (v % 2 ^ (8 * x.size))) ∧
            ∀ (v : Nat) (e : Sector), r.2 = some v → y.place = 0 → (s.core x.core).l1Hit s.time y.pa = some e →
              e.sysCoh = false → (s.core x.core).cacBanks ≠ [] →
              (((t.core x.core).l1Hit s.time y.pa).map fun z => part z.bytes.toNat) =
                some (v % 2 ^ (8 * x.size))))) ∧
    (∀ b : Bough, s.bough x.uid = some b → (s.loads.find? fun x => x.id == k) = none → x.ret = true →
      (x.groups.all fun g => g.done) = true → x.tr = false →
      let ls := x.groups.flatMap fun g => g.lanes
      (ls.map fun a => a.lane).Nodup → (∀ a ∈ ls, a.lane < 32) →
      ∃ (t : State) (c : Bough), exec (.loadDataReturn k) s = Host.Outcome.next t ∧ MemorySame s t ∧
        t.bough x.uid = some c ∧ t.atoms = s.atoms.filter (fun y => y.id != k) ∧ c.sregs = b.sregs ∧
        (∀ a ∈ ls, ∀ j : Nat, j < (x.n + 3) / 4 →
          c.vreg (x.dv + j) a.lane = BitVec.ofNat 32 (a.old / 2 ^ (32 * j))) ∧
        WritesPred b c x.pd (Mask.ofPred fun l => ls.any fun a => a.lane == l)
          (fun l => ls.any fun a => a.lane == l && a.old == a.cmp))

/-! ## Class 4: barriers and phases -/

/-- R272, R273: the barriers of a copse. A count above the copse's size is illegal, and an arrival waits as a
release at core scope does. The generation is complete when as many boughs have arrived as its first arrival
named, or, where that named none, every bough of the copse that has not exited. An arrival that completes it
lets BAR pass, and the next generation opens empty; one that does not holds the bough, which has then arrived;
and once its generation has ended the bough goes on. A bough that has arrived in the open generation already
waits at the barrier. BAR.arrive never waits for the others, and BAR.wait passes when the generation of the
bough's last BAR.arrive has ended. -/
def Obligations.CopseBarriers : Prop :=
  ∀ (h : Hdr) (f : FmtY) (s : State) (c : Copse), s.copseOf s.b = some c →
    let id := f.imm.toNat % 16
    let n := f.imm.toNat / 16 % 64
    let x := c.bar id
    let ready := s.releaseReady s.b true
    let target := if x.arr.isEmpty then (if n = 0 then 63 else n) else x.target
    let full : Prop := if target = 63 then
        ∀ b ∈ s.boughsOf s.b.part s.b.launch s.b.cid, b.gone = false → b.uid = s.b.uid ∨ b.uid ∈ x.arr
      else target ≤ x.arr.length + 1
    (∀ p ∈ ([.bar h f, .barArrive h f] : List Instr), Decoded p s → s.badCount n = true →
      exec p s = Host.Outcome.next (s.takeTrap cIllegal 0 0)) ∧
    (Issues (.bar h f) s →
      (s.b.arrived = false → ready = false → exec (.bar h f) s = Host.Outcome.next (s.hold .fence)) ∧
      (s.b.arrived = false → ready = true → s.b.uid ∈ x.arr →
        exec (.bar h f) s = Host.Outcome.next (s.hold (.barrier id))) ∧
      (s.b.arrived = false → ready = true → s.b.uid ∉ x.arr → full →
        ∃ t : State, exec (.bar h f) s = Host.Outcome.next t ∧ GroupFrame s t ∧ t.b.sregs = s.b.sregs ∧
          t.b.preds = s.b.preds ∧ t.launches = s.launches ∧ t.b.pc = (s.issued (.bar h f)).b.pc ∧
          (t.barOf id).gen = x.gen + 1 ∧ (t.barOf id).arr = []) ∧
      (s.b.arrived = false → ready = true → s.b.uid ∉ x.arr → ¬ full →
        ∃ t : State, exec (.bar h f) s = Host.Outcome.next t ∧ MemorySame s t ∧ t.b.arrived = true ∧
          t.b.arrGen = x.gen ∧ t.b.wait = .barrier id ∧ t.b.pc = s.b.pc ∧
          t.barOf id = { gen := x.gen, target, arr := x.arr ++ [s.b.uid] }) ∧
      (s.b.arrived = true → x.gen ≤ s.b.arrGen →
        exec (.bar h f) s = Host.Outcome.next (s.hold (.barrier id))) ∧
      (s.b.arrived = true → s.b.arrGen < x.gen →
        ∃ t : State, exec (.bar h f) s = Host.Outcome.next t ∧ GroupFrame s t ∧ t.b.sregs = s.b.sregs ∧
          t.b.preds = s.b.preds ∧ t.copses = s.copses ∧ t.b.arrived = false ∧
          t.b.pc = (s.issued (.bar h f)).b.pc)) ∧
    (Issues (.barArrive h f) s →
      (ready = false → exec (.barArrive h f) s = Host.Outcome.next (s.hold .fence)) ∧
      (ready = true → s.b.uid ∈ x.arr →
        exec (.barArrive h f) s = Host.Outcome.next (s.hold (.barrier id))) ∧
      (ready = true → s.b.uid ∉ x.arr →
        ∃ t : State, exec (.barArrive h f) s = Host.Outcome.next t ∧ GroupFrame s t ∧ t.b.sregs = s.b.sregs ∧
          t.b.preds = s.b.preds ∧ t.launches = s.launches ∧
          Sparse.get t.b.lastArr id = BitVec.ofNat 32 (x.gen + 1) ∧
          (full → (t.barOf id).gen = x.gen + 1 ∧ (t.barOf id).arr = []) ∧
          (¬ full → t.barOf id = { gen := x.gen, target, arr := x.arr ++ [s.b.uid] }))) ∧
    (Issues (.barWait h f) s →
      let g := (Sparse.get s.b.lastArr id).toNat
      (g ≤ x.gen → ∃ t : State, exec (.barWait h f) s = Host.Outcome.next t ∧ QuietFrame s t) ∧
      (x.gen < g → exec (.barWait h f) s = Host.Outcome.next (s.hold (.barrier id))))

/-- R249, R255, R256, R274: the barrier of a launch whose copses run together. An arrival that is not the last
of its generation waits. The last arrival of a generation writes its number to SD, and so does every bough that had arrived once the generation has ended;
DETPHASE also writes whether the phase met no event but RLOST. DETQ reads the events, the phase number and
the races. At a complete generation of a deterministic launch PHASE_END first applies what was logged, each
line's writes in their order to its phase copy, and then, the leases over, ends the phase. -/
def Obligations.LaunchBarriers : Prop :=
  ∀ (h : Hdr) (f : FmtY) (s : State) (l : Launch), s.launchOf s.b = some l →
    let det (i : Instr) : Prop := i = .detphase h f
    (∀ i ∈ ([.gbar h f, .detphase h f] : List Instr), Decoded i s →
      l.desc.cosched = false ∨ (det i ∧ l.desc.det = false) →
        exec i s = Host.Outcome.next (s.takeTrap cIllegal 0 0)) ∧
    (∀ i ∈ ([.gbar h f, .detphase h f] : List Instr), Issues i s →
      ((s.b.arrived = true → s.b.arrGen < l.ggen →
          ∃ t : State, exec i s = Host.Outcome.next t ∧ GroupFrame s t ∧ t.launches = s.launches ∧
            t.copses = s.copses ∧ t.b.arrived = false ∧
            WritesScalar s.b t.b f.sd.toNat (BitVec.ofNat 64 s.b.arrGen) ∧
            (det i → WritesPred s.b t.b f.pd (s.b.guard h) fun _ => l.lastev &&& 7 == 0) ∧
            (¬ det i → t.b.preds = s.b.preds)) ∧
        (s.b.arrived = true → l.ggen ≤ s.b.arrGen → exec i s = Host.Outcome.next (s.hold .gbar)) ∧
        (s.b.arrived = false → s.releaseReady s.b false = false →
          exec i s = Host.Outcome.next (s.hold .fence)) ∧
        (s.b.arrived = false → s.releaseReady s.b false = true → l.desc.det = false →
          (∀ b ∈ s.allBoughs, b.part = l.part → b.launch = l.id → b.status ≠ .ended →
            b.uid = s.b.uid ∨ l.garr.contains b.uid = true) →
          ∃ t : State, exec i s = Host.Outcome.next t ∧ GroupFrame s t ∧ t.copses = s.copses ∧
            t.b.preds = s.b.preds ∧ WritesScalar s.b t.b f.sd.toNat (BitVec.ofNat 64 l.ggen) ∧
            (t.launchOf t.b).map (fun l => (l.ggen, l.garr)) = some (l.ggen + 1, [])) ∧
        (s.b.arrived = false → s.releaseReady s.b false = true → l.desc.det = false →
          (∃ b ∈ s.allBoughs, b.part = l.part ∧ b.launch = l.id ∧ b.status ≠ .ended ∧ b.uid ≠ s.b.uid ∧
            l.garr.contains b.uid = false) →
          ∃ t : State, exec i s = Host.Outcome.next t ∧ MemorySame s t ∧ t.b.arrived = true ∧
            t.b.arrGen = l.ggen ∧ t.b.wait = .gbar ∧ t.b.pc = s.b.pc ∧ t.b.vregs = s.b.vregs ∧
            t.b.sregs = s.b.sregs ∧ t.b.preds = s.b.preds ∧
            (t.launchOf t.b).map (fun l => (l.ggen, l.garr)) = some (l.ggen, l.garr ++ [s.b.uid])) ∧
        (s.b.arrived = false → s.releaseReady s.b false = true → l.desc.det = true →
          ∃ t : State, exec i s = Host.Outcome.next t ∧ MemorySame s t ∧ t.b.arrived = true ∧
            t.b.arrGen = l.ggen ∧ t.b.wait = .gbar ∧ t.b.pc = s.b.pc ∧
            (t.launchOf t.b).map (fun l => l.garr) = some (l.garr ++ [s.b.uid])))) ∧
    CompletesSd (.detq h f) s f.sd (BitVec.ofNat 64 (detItem l f.sub.toNat (f.imm.toNat % 4096))) ∧
    ∀ k : Nat, s.launch (k / 2 ^ 32) (k % 2 ^ 32) = some l → l.desc.det = true → s.gbarComplete l = true →
      (l.phaseWait = none → ∃ t : State, exec (.phaseEnd k) s = Host.Outcome.next t ∧ t.b = s.b ∧
        t.boughs = s.boughs ∧ (∀ x ∈ t.heart, ¬ (x.part = k / 2 ^ 32 ∧ x.launch = k % 2 ^ 32)) ∧
        (∀ a : Nat, (∀ x ∈ s.heart, x.part = k / 2 ^ 32 → x.launch = k % 2 ^ 32 → x.line ≠ a / 128) →
          Sparse.get t.mem a = Sparse.get s.mem a) ∧
        ((s.heart.map fun x => x.line).Nodup → ∀ x ∈ s.heart, x.part = k / 2 ^ 32 → x.launch = k % 2 ^ 32 →
          x.log.Pairwise (fun p q => p.by_.before q.by_ = true) →
          t.line x.line = applyWrites l.phases x.log x.copy.toNat % 2 ^ 1024) ∧
        ∃ e : Nat, (t.launch (k / 2 ^ 32) (k % 2 ^ 32)).map (fun l => l.phaseWait) = some (some (e + 2)) ∧
          ∀ x ∈ s.heart, x.part = k / 2 ^ 32 → x.launch = k % 2 ^ 32 → s.leaseOf x.line ≤ e) ∧
      ∀ e : Nat, l.phaseWait = some e →
        (s.time < e → exec (.phaseEnd k) s = Host.Outcome.next s) ∧
        (e ≤ s.time → ∃ t : State, exec (.phaseEnd k) s = Host.Outcome.next t ∧ MemorySame s t ∧ t.b = s.b ∧
          t.boughs = s.boughs ∧ t.launch (k / 2 ^ 32) (k % 2 ^ 32) = some { l with
            phases := l.phases + 1, lastev := l.evNow, evNow := 0, phaseWait := none, ggen := l.ggen + 1,
            garr := [] })

/-- R197, R198, R208, R229, R230: the fences wait for the bough's loads, and a release for its writes; then
an acquire at system scope drops the L1's system-coherent sectors. CINV.sys drops them at once, and CINV.ro
everything that the read-only path holds.
R13, R191, R192, R193: BANKROLE. A change is refused of a REG bank and to REG, of a bank of another copse, of
one of the last two CAC banks, and of a FIF bank with a bound queue, whichever role it names (log 39); it traps
where there is no predicate to say so, and else only clears it; while an engine, or a queued matrix instruction,
uses the bank the bough waits; else the bank takes the role, for the
bough's copse where it is SCR or FIF, and no other bank changes its role. BANKQ reads roles and owners. -/
def Obligations.FencesAndBanks : Prop :=
  (∀ (h : Hdr) (f : FmtY) (s : State),
      (∀ p ∈ ([(.fenceAcq h f, true, false), (.fenceRel h f, false, true), (.fenceAcqrel h f, true, true)] :
          List (Instr × Bool × Bool)), Issues p.1 s →
        let ready := s.loadsDone s.b.uid && (!p.2.2 || s.releaseReady s.b (f.sub.toNat % 8 == 0))
        (ready = false → exec p.1 s = Host.Outcome.next (s.hold .fence)) ∧
        (ready = true → ∃ t : State, exec p.1 s = Host.Outcome.next t ∧ CoreFrame s t ∧
          t.b.sregs = s.b.sregs ∧ t.b.preds = s.b.preds ∧
          t.core s.b.core = if p.2.1 = true ∧ f.sub.toNat % 8 = 3 then
              { s.core s.b.core with l1 := (s.core s.b.core).l1.filter fun x => !x.sysCoh }
            else s.core s.b.core)) ∧
      (Issues (.cinvSys h f) s → ∃ t : State, exec (.cinvSys h f) s = Host.Outcome.next t ∧ CoreFrame s t ∧
        t.b.sregs = s.b.sregs ∧ t.b.preds = s.b.preds ∧
        t.core s.b.core = { s.core s.b.core with l1 := (s.core s.b.core).l1.filter fun x => !x.sysCoh }) ∧
      (Issues (.cinvRo h f) s → ∃ t : State, exec (.cinvRo h f) s = Host.Outcome.next t ∧ CoreFrame s t ∧
        t.b.sregs = s.b.sregs ∧ t.b.preds = s.b.preds ∧ t.core s.b.core = { s.core s.b.core with roc := [] })) ∧
  (∀ (h : Hdr) (f : FmtY) (s : State),
      let bank := f.imm.toNat % 64
      let new := roleOf (f.imm.toNat / 256 % 4)
      let c := s.core s.b.core
      let own := s.b.own
      let refused : Prop := c.role bank = .reg ∨ new = .reg ∨
        ((c.role bank = .scr ∨ c.role bank = .fif) ∧ c.owner bank ≠ some own) ∨
        (c.role bank = .cac ∧ new ≠ .cac ∧ ((List.range 48).filter fun k => c.role k == .cac).length ≤ 2) ∨
        (c.role bank = .fif ∧ ∃ k ∈ s.copseOf s.b, ∃ q ∈ k.queues, q.2.bound = true ∧
          k.fif + q.2.first ≤ bank ∧ bank < k.fif + q.2.first + q.2.banks)
      let used := c.engineUses own bank || s.matLocal s.b.uid || c.matUses bank
      (Issues (.bankrole h f) s →
        (refused → f.pd = none →
          exec (.bankrole h f) s = Host.Outcome.next (s.takeTrap cRegister (0x100 + bank) 0)) ∧
        (refused → f.pd ≠ none →
          ∃ t : State, exec (.bankrole h f) s = Host.Outcome.next t ∧ RegisterFrame s t ∧ t.b.vregs = s.b.vregs ∧
            t.b.sregs = s.b.sregs ∧ WritesPred s.b t.b f.pd (s.b.guard h) fun _ => false) ∧
        (¬ refused → used = true →
          exec (.bankrole h f) s = Host.Outcome.next (s.hold .drain)) ∧
        (¬ refused → used = false →
          ∃ t : State, exec (.bankrole h f) s = Host.Outcome.next t ∧ CoreFrame s t ∧ t.b.sregs = s.b.sregs ∧
            (WritesPred s.b t.b f.pd (s.b.guard h) fun _ => true) ∧ (t.core s.b.core).role bank = new ∧
            (∀ k : Nat, k ≠ bank → (t.core s.b.core).role k = c.role k ∧
              (t.core s.b.core).owner k = c.owner k) ∧
            (new ≠ .cac → new ≠ c.role bank → (t.core s.b.core).owner bank = some own) ∧
            ∀ a : Nat, a / 0x4000 ≠ bank → Sparse.get (t.core s.b.core).store a = Sparse.get c.store a)) ∧
      CompletesSd (.bankq h f) s f.sd (BitVec.ofNat 64 (s.bankQuery f.sub.toNat f.imm.toNat)))

/-! ## Engines -/

/-- R209, R210, R213, R219, R287, R319, R323: the issue of an engine operation, in a partition with a fault
queue whose peers all have live links, and in memory without uncorrectable errors. A scheduler that holds 32 operations makes it wait; else the operation, with the scalar operands as
they were at issue, joins the end of the core's list; its footprint record is read, or is invalid, or a fault
on it waits for the host; a copy or a fill of no bytes is then complete. No register of the bough changes, and no memory where the record was read.
OPFILL then reads its layout record, and ATTN marks its tiles; both need their slots claimed. -/
def Obligations.EngineIssues : Prop :=
  ∀ (h : Hdr) (f : FmtE) (s : State), (s.part s.b.part).fqbase ≠ 0 → s.ecc = [] →
    (∀ pa : Nat, s.unreachable s.b.part pa = false) →
    let ops := (s.core s.b.core).ops
    let joins (i : Instr) (after : State → EngOp → State) (units : Nat) (vx : List W64) : Prop :=
      (32 ≤ ops.length → exec i s = Host.Outcome.next (s.hold .drain)) ∧
      (ops.length < 32 → ∃ (u : State) (o : EngOp),
        exec i s = Host.Outcome.next (finish_ i s.b.path (after u o)) ∧
        u.b = (s.issued i).b ∧ (o.haveRec = true → MemorySame s u) ∧
        (∃ rest : List EngOp, (u.core s.b.core).ops = rest ++ [o] ∧ rest.length = ops.length ∧
          ∀ x ∈ ops, x.id ≠ o.id → x ∈ rest) ∧
        o.instr = i ∧ o.uid = s.b.uid ∧ o.part = s.b.part ∧ o.launch = s.b.launch ∧ o.cid = s.b.cid ∧
        o.pa = s.b.sreg f.pa.toNat ∧ o.pb = s.b.sreg f.pb.toNat ∧ o.pc_ = s.b.sreg f.pc.toNat ∧
        o.fpAddr = s.b.sreg f.fp.toNat ∧ o.vx = vx ∧ o.done = 0 ∧ o.started = false ∧
        (o.status = 0xFF ∨ o.status = 0x02 ∨ (o.status = 0x00 ∧ units = 0 ∧ o.haveRec = true)) ∧
        (o.status = 0xFF → o.units = units))
    let len := (s.b.sreg f.pc.toNat).toNat
    let lens (i : Instr) : Prop := Issues i s → joins i (fun u _ => u) len []
    (∀ sl dl : Bool, lens (.acopy sl dl h f)) ∧ lens (.afill h f) ∧
    (Issues (.agather h f) s → joins (.agather h f) (fun u _ => u) 32 ((s.issued (.agather h f)).b.pairs f.vx)) ∧
    (Issues (.ascatter h f) s → joins (.ascatter h f) (fun u _ => u) 32 ((s.issued (.ascatter h f)).b.pairs f.vx)) ∧
    (Issues (.acoll h f) s → joins (.acoll h f) (fun u _ => u) 1 []) ∧
    (Issues (.kvgather h f) s → joins (.kvgather h f) (fun u _ => u) 32
      (lanes.map fun l => BitVec.signExtend 64 ((s.issued (.kvgather h f)).b.vreg f.vx.toNat l))) ∧
    (∀ g : Bool, Issues (.opfill g h f) s →
      (((matNames (.opfill g h f)).all fun k => s.ownsSlot s.b k) = false →
        exec (.opfill g h f) s = Host.Outcome.next (s.takeTrap cUnclaimed 0 0)) ∧
      (((matNames (.opfill g h f)).all fun k => s.ownsSlot s.b k) = true →
        joins (.opfill g h f) (fun u o => u.readLayout o.id) 0 [])) ∧
    ∀ m : Option AttnMask, Issues (.attn m h f) s →
      (((matNames (.attn m h f)).all fun k => s.ownsSlot s.b k) = false →
        exec (.attn m h f) s = Host.Outcome.next (s.takeTrap cUnclaimed 0 0)) ∧
      (((matNames (.attn m h f)).all fun k => s.ownsSlot s.b k) = true →
        joins (.attn m h f) (fun u _ => u.markTiles (.attn m h f) 0)
          (((s.b.sreg f.pb.toNat).toNat + 15) / 16) [])

/-- R199, R211, R213, R214, R219, R221, R291, R321, R324, R325: an operation at work. A unit is performed whole
in one step (the model's choice, log 42). That each score of ATTN starts at +0 and that it reads the rows that some
query row sees are log 43; what a participant of a collective on another package contributes is log 17. One unit of ACOPY or AFILL writes a byte, where the record lets it
write: the byte that the source held when the copy began, or the byte of the pattern; the last byte of a whole
line of zeros zeroes the line. One of AGATHER or ASCATTER moves the bytes of a lane, whose address has bit 63
clear; one of ACOLL writes an element of the collective's result; one of OPFILL writes an element into its slot;
one of KVGATHER writes the rows of a lane's page, or zeros, or ends the operation at an entry out of range; one
of ATTN takes each query row over a block of 16 tokens. When an operation has ended, and the leases on what it
wrote are over, its token register takes its status and progress, and it is gone. -/
def Obligations.EngineSteps : Prop :=
  ∀ (s : State) (k core : Nat) (o : EngOp), s.engOp k = some (core, o) →
    ((s.core core).ops.find? fun x => x.id == k) = some o →
    (∀ (h : Hdr) (f : FmtE), o.instr = .afill h f → f.imm.getLsbD 0 = true → o.status = 0xFF → o.seq = 0 →
      o.haveRec = true → o.started = true → o.done + 1 < o.units →
      (s.part o.part).halted = false ∨ o.done % 4096 ≠ 0 →
      let a := o.pa.toNat + o.done
      let v := o.pb.toNat / 2 ^ (8 * (o.done % 8)) % 256
      o.allowed true true a = true → a < 0xC0000 → (s.core core).owner (a / 0x4000) = some (lkey o.part o.launch, o.cid) →
      (s.core core).role (a / 0x4000) = .scr →
      ∃ t : State, exec (.engineStart k 1) s = Host.Outcome.next t ∧ MemorySame s t ∧
        t.b = s.b ∧ t.boughs = s.boughs ∧ t.engOp k = some (core, { o with done := o.done + 1 }) ∧
        t.launches.map (fun x => { x with bytes := 0 }) = s.launches.map (fun x => { x with bytes := 0 }) ∧
        ∀ c : Nat, Sparse.get (t.core core).store c =
          if c = a then BitVec.ofNat 8 v else Sparse.get (s.core core).store c) ∧
    (let c := s.core core
     let j := o.done
     let unit (claim : State → Prop) : Prop := ∃ (t : State) (p : EngOp),
       exec (.engineStart k 1) s = Host.Outcome.next t ∧ t.b = s.b ∧ t.boughs = s.boughs ∧
         t.engOp k = some (core, p) ∧ p.done = j + 1 ∧ p.status = (if j + 1 < o.units then 0xFF else 0x00) ∧ claim t
     let still (t : State) : Prop := MemorySame s t ∧ (t.core core).store = c.store
     o.status = 0xFF → o.seq = 0 → o.haveRec = true → o.started = true → j < o.units →
     (s.part o.part).halted = false ∨ o.atBoundary = false →
       (∀ (sl dl : Bool) (h : Hdr) (f : FmtE) (v pa : Nat), o.instr = .acopy sl dl h f →
         s.engSees core o sl (o.pa.toNat + j) v → s.engMayWrite core o dl (o.pb.toNat + j) 1 pa →
         unit fun t => EngWrote s t core dl (o.pb.toNat + j) 1 pa
           (((o.keep.find? fun e => e.1 == j).map fun e => e.2 % 256).getD (v % 256))) ∧
       (∀ (h : Hdr) (f : FmtE) (pa : Nat), o.instr = .afill h f → f.imm.getLsbD 0 = false →
         let a := o.pa.toNat + j
         s.engMayWrite core o false a 1 pa →
         unit fun t => (t.core core).store = c.store ∧
           if o.pb = 0 ∧ a % 128 = 127 ∧ o.pa.toNat + 127 ≤ a then
             MemoryOutside s t (pa / 128 * 128) 128 ∧ Holds t (pa / 128 * 128) 128 0 ∧ pa / 128 ∈ t.zflag
           else MemoryOutside s t pa 1 ∧ Holds t pa 1 (o.pb.toNat / 2 ^ (8 * (j % 8)) % 256)) ∧
       (∀ (g : Bool) (h : Hdr) (f : FmtE) (x : W64), o.instr = (if g then .agather h f else .ascatter h f) →
         o.vx[j]? = some x →
         let n := f.imm.toNat
         let loc := (if g then o.pb.toNat else o.pa.toNat) + j * n
         (x.getLsbD 63 = true → unit still) ∧
         ∀ v pa : Nat, x.getLsbD 63 = false → v < 256 ^ n →
           (∀ i : Nat, i < n → s.engSees core o (!g) ((if g then x.toNat else loc) + i) (v / 256 ^ i % 256)) →
           s.engMayWrite core o g (if g then loc else x.toNat) n pa →
           unit fun t => EngWrote s t core g (if g then loc else x.toNat) n pa v) ∧
       (∀ (h : Hdr) (f : FmtE) (m : Comm) (z rank pa : Nat), o.instr = .acoll h f → o.aux = [z] →
         s.comm o.part (collComm f) = some m → m.rankOf o.part = some rank → s.collGate core f o = none →
         let w := (collTy f).width / 8
         s.engMayWrite core o false (o.pb.toNat + j * w) w pa →
         unit fun t => EngWrote s t core false (o.pb.toNat + j * w) w pa
           (s.collValue o.part m z f.sub.toNat (collTy f) o.pc_.toNat rank j % 256 ^ w)) ∧
       (∀ (glob : Bool) (h : Hdr) (f : FmtE) (x v : Nat), o.instr = .opfill glob h f → o.aux = [x] →
         let z := fillZ f
         let a := layAddr o.pa x j
         let at_ := slotBase f.sla.toNat + (if fillScale f then 8192 + 4 * fillRow0 f else 64 * fillRow0 f) + j * z
         a % z = 0 → v < 256 ^ z → (∀ i : Nat, i < z → s.engSees core o (!glob) (a + i) (v / 256 ^ i % 256)) →
         unit fun t => still t ∧ Sparse.getLE (t.core core).slots at_ z = v ∧
           ∀ i : Nat, i < at_ ∨ at_ + z ≤ i → Sparse.get (t.core core).slots i = Sparse.get c.slots i) ∧
       (∀ (h : Hdr) (f : FmtE) (page : Nat), o.instr = .kvgather h f → o.aux[j]? = some page → j < 32 →
         let dst (u : Nat) (v : Bool) : Nat := if v then vRow o.pb j u else kRow o.pb j u
         let rows (u : Nat) (v : Bool) : Prop := u < 16 ∧ f.sub.getLsbD (if v then 1 else 0) = true
         let fills (x : Nat → Bool → Nat) : Prop :=
           (∀ (u : Nat) (v : Bool), rows u v → s.engMayWrite core o true (dst u v) 256 0) →
           unit fun t => MemorySame s t ∧
             (∀ (u : Nat) (v : Bool), rows u v → Sparse.getLE (t.core core).store (dst u v) 256 = x u v) ∧
             ∀ a : Nat, (∀ (u : Nat) (v : Bool), rows u v → a < dst u v ∨ dst u v + 256 ≤ a) →
               Sparse.get (t.core core).store a = Sparse.get c.store a
         (page = 2 ^ 32 → unit still) ∧
         (page = noPage → f.sub.getLsbD 2 = true → fills fun _ _ => 0) ∧
         (page = noPage → f.sub.getLsbD 2 = false → ∃ (t : State) (p : EngOp),
           exec (.engineStart k 1) s = Host.Outcome.next t ∧ still t ∧ t.engOp k = some (core, p) ∧ p.status = 0x03) ∧
         ∀ x : Nat → Bool → Nat, page < noPage →
           (∀ (u : Nat) (v : Bool), rows u v → x u v < 256 ^ 256 ∧ ∀ i : Nat, i < 256 →
             s.engSees core o false (s.kvAddr o.part page u (o.pc_.toNat / 256) v + i) (x u v / 256 ^ i % 256)) →
           fills x) ∧
       ∀ (full : Option AttnMask) (h : Hdr) (f : FmtE), o.instr = .attn full h f → s.attnWaits core o = false →
         let nq := f.imm.toNat % 128 + 1
         let acc := f.acc.toNat
         let row (base : Nat) : List Fp := bf16Row (s.localRdN core o.part o.launch o.cid base 256)
         let toks := ((List.range 16).map fun i => 16 * j + i).filter fun i => i < o.pb.toNat
         let seen (i : Nat) : Prop := i ∈ toks ∧ ∃ q : Nat, q < nq ∧ visible full o.aux q i = true
         let kAt (i : Nat) : Nat := kRow o.pa (i / 16) (i % 16)
         let vAt (i : Nat) : Nat := vRow o.pa (i / 16) (i % 16)
         let old (q : Nat) : List Nat × Nat × Nat :=
           if f.sub.getLsbD 0 = true ∧ j = 0 then (List.replicate 128 0, 0, noRef)
           else ((List.range 128).map fun i => c.cell 0 acc q i, c.side acc q)
         let new (q : Nat) : List Nat × Nat × Nat :=
           attnRow ((toks.filter fun i => visible full o.aux q i).map fun i =>
             (attnScore (o.pc_.toNat % 2 ^ 32) (c.queryRow f.sla.toNat q) (row (kAt i)), row (vAt i)))
             (old q).1 (old q).2.1 (old q).2.2
         (∀ i : Nat, seen i → ∀ e : Nat, e < 256 →
           o.allowed false true (kAt i + e) = true ∧ o.allowed false true (vAt i + e) = true) →
         unit fun t => still t ∧ (t.core core).slots = c.slots ∧ TilesOutside c (t.core core) 0 acc true ∧
           ∀ q : Nat, q < 128 → (t.core core).side acc q = (if q < nq then (new q).2 else c.side acc q) ∧
             ∀ i : Nat, i < 128 → (t.core core).cell 0 acc q i =
               if q < nq then
                 ((if f.sub.getLsbD 1 = true ∧ j + 1 = o.units then finRow (new q).1 (new q).2.1 else (new q).1)[i]?).getD 0
               else c.cell 0 acc q i) ∧
    (∀ b : Bough, s.bough o.uid = some b → o.status ≠ 0xFF → o.seq = 0 → o.wend = 0 ∨ o.wend + 2 ≤ s.time →
      (s.copseOf b).map (fun c => c.at_) = some .resident →
      ∃ (t : State) (c : Bough), exec (.tokenWrite k) s = Host.Outcome.next t ∧ MemorySame s t ∧
        (t.core core).ops = (s.core core).ops.filter (fun x => x.id != k) ∧ t.bough o.uid = some c ∧
        WritesScalar b c o.tk (BitVec.ofNat 64 (2 ^ 32 * o.status + o.progress % 2 ^ 32)) ∧
        c.vregs = b.vregs ∧ c.preds = b.preds ∧ ∀ u : Nat, u ≠ o.uid → t.bough u = s.bough u)

/-! ## The key-value instructions -/

/-- R308, R310, R311, R314, R315: KVAPPEND. An entry that cannot be read parks the bough whole with the fault. The
first cause of a refusal that holds clears the predicate in every lane, or without one parks the bough whole
with that cause, and nothing is written; where none holds, each entry that names no page takes the lowest free
page, whose count becomes 1, one write of 128 bytes for each half of a row of keys and of values leaves for its
home, and the predicate is set. Like a store it waits while an atomic of its core has yet to act on the L1's copy of
a line that it writes (the model's choice, log 59).
R311, R316, R317, R318: the commits and the queries of a sequence entry. Each commit waits as a release at
package scope does, and is then one step at the entry; the two steps of a fork (R317), at the homes of its two
entries, are made as one (the model's inference, log 10). Where it fails, it gives all ones and a false predicate
and changes no memory and no count; else a commit adds to LEN, and to its launch's and its member's counts, a
fork writes the source's entries and LEN into the destination and counts each page once more, and a release
makes every entry none, sets REL, and frees the pages whose count falls to 0. SEQINFO reads an item. -/
def Obligations.KvSequences : Prop :=
  (∀ (h : Hdr) (f : FmtE) (s : State), Issues (.kvappend h f) s →
     let i : Instr := .kvappend h f
     let core := s.b.core
     let part := s.b.part
     let p := s.part part
     let l := f.imm.toNat % 256
     let n := f.imm.toNat / 256 % 16 + 1
     let pd : Pd := (Pd.ofCode (f.imm.toNat / 2 ^ 12)).getD none
     let kb := (s.b.sreg f.pb.toNat).toNat
     let vb := (s.b.sreg f.pc.toNat).toNat
     let row (v : Bool) (k hd : Nat) : Nat :=
       s.localRdN core part s.b.launch s.b.cid (((if v then vb else kb) + 2048 * k + 256 * hd) % 2 ^ 64) 256
     let busy := (s.b.windowRegs [(kb, 2048 * n), (vb, 2048 * n)]).any fun x => (s.pendingVec s.b).any fun y => overlap x y
     let parks (c va detail : Nat) : Prop := exec i s =
       Host.Outcome.next (finish_ i s.b.path (s.faultLanes (s.issued i) s.b.emr c (BitVec.ofNat 64 va) detail))
     (busy = true → exec i s = Host.Outcome.next (s.hold .scoreboard)) ∧
     (busy = false → ∀ x : Nat × Nat, s.seqRead core part (s.b.sreg f.pa.toNat).toNat = .error x →
       isCheck x.1 = false → parks x.1 x.2 0) ∧
     (busy = false → ∀ (e : SeqEnt), s.seqRead core part (s.b.sreg f.pa.toNat).toNat = .ok e →
       let refused (c : Nat) : Prop :=
         (pd = none → parks c 0 l) ∧
         (pd ≠ none → ∃ t : State, exec i s = Host.Outcome.next t ∧ RegisterFrame s t ∧
           t.b.vregs = s.b.vregs ∧ t.b.sregs = s.b.sregs ∧ WritesPred s.b t.b pd 0xFFFFFFFF#32 fun _ => false)
       let lo := e.len / 16
       let hi := (e.len + n - 1) / 16
       (e.ok = false → refused 0x10) ∧
       (e.ok = true → e.rel = true → refused 0x11) ∧
       (e.ok = true → e.rel = false → e.nl ≤ l ∨ 16 * e.maxp < e.len + n → refused 0x12) ∧
       (e.ok = true → e.rel = false → l < e.nl → e.len + n ≤ 16 * e.maxp → ∀ q : Nat → Nat,
         (∀ j : Nat, lo ≤ j → j ≤ hi → s.vrd core part (e.entryVa l j) 4 = .ok (q j)) →
         let need := ((List.range (hi + 1 - lo)).map fun j => lo + j).filter fun j => q j == noPage
         (p.quota.toNat < p.inuse + need.length → refused 0x13) ∧
         (p.inuse + need.length ≤ p.quota.toNat → p.poolsize.toNat < p.inuse + need.length → refused 0x14) ∧
         (p.inuse + need.length ≤ p.quota.toNat → p.inuse + need.length ≤ p.poolsize.toNat →
           ∀ (ns : List Nat) (at_ : Nat → Nat) (pa : Nat → Nat → Bool → Nat → Nat), ns.length = need.length →
           (∀ j m : Nat, ns[j]? = some m → m < 2 ^ 32 ∧ p.refs m = 0 ∧ m ∉ ns.take j ∧
             ∀ k : Nat, k < m → p.refs k ≠ 0 ∨ k ∈ ns.take j) →
           (∀ j : Nat, lo ≤ j → j ≤ hi → s.tlbHolds core part (e.entryVa l j) 4 (at_ j) (q j == noPage) ∧
             s.ecc.contains (at_ j / 128) = false) →
           (∀ j k : Nat, lo ≤ j → j < k → k ≤ hi → at_ j + 4 ≤ at_ k ∨ at_ k + 4 ≤ at_ j) →
           let page (j : Nat) : Nat := if q j = noPage then (ns[need.idxOf j]?).getD 0 else q j
           (∀ (k hd : Nat) (v : Bool) (w : Nat), k < n → hd < 8 → w < 2 → s.tlbHolds core part
             (s.kvAddr part (page ((e.len + k) / 16)) ((e.len + k) % 16) hd v + 128 * w) 128 (pa k hd v w) true) →
           let l1Held : Prop := ∃ x ∈ s.atoms, x.core = core ∧ ∃ g ∈ x.groups, g.done = false ∧ g.place = 0 ∧
             ∃ (k hd : Nat) (v : Bool) (w : Nat), k < n ∧ hd < 8 ∧ w < 2 ∧
               bytesMeet g.pa x.size (pa k hd v w / 128 * 128) 128 = true
           (l1Held → exec i s = Host.Outcome.next (s.hold .scoreboard)) ∧
           (¬ l1Held → ∃ (t : State) (ys : List Store), exec i s = Host.Outcome.next t ∧
             (∀ a : Nat, (∀ j ∈ need, a < at_ j ∨ at_ j + 4 ≤ a) → Sparse.get t.mem a = Sparse.get s.mem a) ∧
             (∀ j ∈ need, Holds t (at_ j) 4 (page j)) ∧
             (∀ m : Nat, (t.part part).refs m = if m ∈ ns then 1 else p.refs m) ∧
             t.part part = { p with poolRefs := (t.part part).poolRefs, inuse := p.inuse + ns.length } ∧
             (∀ x : Nat, x ≠ part → t.part x = s.part x) ∧
             t.stores = s.stores ++ ys ∧ ys.length = 32 * n ∧
             (∀ (k hd : Nat) (v : Bool) (w : Nat), k < n → hd < 8 → w < 2 →
               (ys[32 * k + 4 * hd + (if v then 2 else 0) + w]?).map (fun y => (y.uid, y.pa, y.kind)) =
                 some (s.b.uid, pa k hd v w, .bytes 128 (row v k hd / 2 ^ (1024 * w) % 2 ^ 1024))) ∧
             RegistersOnly s.b t.b ∧ t.b.vregs = s.b.vregs ∧ t.b.sregs = s.b.sregs ∧
             WritesPred s.b t.b pd 0xFFFFFFFF#32 fun _ => true))))) ∧
  (∀ (h : Hdr) (f : FmtY) (s : State),
     let core := s.b.core
     let part := s.b.part
     let p := s.part part
     let a := (s.b.sreg f.s1.toNat).toNat
     let n := (s.b.sreg f.s2.toNat).toNat
     let out (t : State) (v : W64) (x : Bool) : Prop :=
       WritesScalar s.b t.b f.sd.toNat v ∧ (WritesPred s.b t.b f.pd (s.b.guard h) fun _ => x) ∧
         t.b.vregs = s.b.vregs ∧ RegistersOnly s.b t.b
     let waits (i : Instr) : Prop :=
       s.releaseReady s.b false = false → exec i s = Host.Outcome.next (s.hold .fence)
     let ready := s.releaseReady s.b false = true
     let fails (i : Instr) : Prop := ∃ t : State, exec i s = Host.Outcome.next t ∧ MemorySame s t ∧
       t.parts = s.parts ∧ out t 0xFFFFFFFFFFFFFFFF false
     let parks (i : Instr) (x : Nat × Nat) : Prop := isCheck x.1 = false → exec i s =
       Host.Outcome.next (finish_ i s.b.path (s.faultLanes (s.issued i) s.b.emr x.1 (BitVec.ofNat 64 x.2) 0))
     let others (t : State) : Prop := ∀ x : Nat, x ≠ part → t.part x = s.part x
     (Issues (.seqcommit h f) s →
       let i : Instr := .seqcommit h f
       waits i ∧
       (ready → ∀ x : Nat × Nat, s.seqRead core part a = .error x → parks i x) ∧
       (ready → ∀ e : SeqEnt, s.seqRead core part a = .ok e →
         (e.ok = false ∨ e.rel = true ∨ 2 ^ 32 ≤ n ∨ 16 * e.maxp < e.len + n → fails i) ∧
         (e.ok = true → e.rel = false → n < 2 ^ 32 → e.len + n ≤ 16 * e.maxp → ∀ q : Nat → Nat → Nat,
           (∀ l j : Nat, l < e.nl → j < ceil16 (e.len + n) → s.vrd core part (e.entryVa l j) 4 = .ok (q l j)) →
           ((∃ l j : Nat, l < e.nl ∧ j < ceil16 (e.len + n) ∧ q l j = noPage) → fails i) ∧
           ∀ pa : Nat, (∀ l j : Nat, l < e.nl → j < ceil16 (e.len + n) → q l j ≠ noPage) →
             s.xlateRec core part a true = .ok pa →
             ∃ t : State, exec i s = Host.Outcome.next t ∧ MemoryOutside s t (pa + 8) 4 ∧
               Holds t (pa + 8) 4 (e.len + n) ∧ t.parts = s.parts ∧ out t (BitVec.ofNat 64 (e.len + n)) true ∧
               (∀ la : Launch, s.launchOf s.b = some la →
                 (t.launchOf t.b).map (fun x => x.tokens) = some (la.tokens + n)) ∧
               ∀ g : Group, s.group part e.grp = some g → e.grp ≠ 0 → g.has gMembers e.member = true →
                 (t.group part e.grp).map (fun x => x.bits (gMember e.member) 0 32) =
                   some ((g.bits (gMember e.member) 0 32 + n) % 2 ^ 32)))) ∧
     (Issues (.seqcommitFork h f) s →
       let i : Instr := .seqcommitFork h f
       waits i ∧
       (ready → ∀ x : Nat × Nat, s.seqRead core part n = .error x → parks i x) ∧
       (ready → ∀ e : SeqEnt, s.seqRead core part n = .ok e →
         (e.ok = false ∨ e.rel = true ∨ e.len % 16 ≠ 0 → fails i) ∧
         (e.ok = true → e.rel = false → e.len % 16 = 0 → ∀ (q : Nat → Nat → Nat) (d : SeqEnt),
           (∀ l j : Nat, l < e.nl → j < e.len / 16 → s.vrd core part (e.entryVa l j) 4 = .ok (q l j)) →
           s.seqRead core part a = .ok d →
           (d.ok = false ∨ d.rel = true ∨ d.len ≠ 0 ∨ d.nl ≠ e.nl ∨ d.maxp < e.len / 16 → fails i) ∧
           (d.ok = true → d.rel = false → d.len = 0 → d.nl = e.nl → e.len / 16 ≤ d.maxp → ∀ r : Nat → Nat → Nat,
             (∀ l j : Nat, l < d.nl → j < d.maxp → s.vrd core part (d.entryVa l j) 4 = .ok (r l j)) →
             ((∃ l j : Nat, l < d.nl ∧ j < d.maxp ∧ r l j ≠ noPage) → fails i) ∧
             ∀ (pa : Nat) (at_ : Nat → Nat → Nat),
               (∀ l j : Nat, l < d.nl → j < d.maxp → r l j = noPage) →
               s.tlbHolds core part a 64 pa true → s.ecc.contains (pa / 128) = false →
               (∀ l j : Nat, l < e.nl → j < e.len / 16 →
                 s.xlateRec core part (d.entryVa l j) true = .ok (at_ l j) ∧
                 (at_ l j + 4 ≤ pa + 8 ∨ pa + 12 ≤ at_ l j) ∧
                 ∀ l' j' : Nat, l' < e.nl → j' < e.len / 16 → (l, j) ≠ (l', j') →
                   at_ l j + 4 ≤ at_ l' j' ∨ at_ l' j' + 4 ≤ at_ l j) →
               let held := ((e.indices (e.len / 16)).map fun x => q x.1 x.2).filter fun m => m != noPage
               ∃ t : State, exec i s = Host.Outcome.next t ∧ out t (BitVec.ofNat 64 e.len) true ∧ others t ∧
                 (∀ l j : Nat, l < e.nl → j < e.len / 16 → Holds t (at_ l j) 4 (q l j)) ∧
                 Holds t (pa + 8) 4 e.len ∧
                 (∀ x : Nat, (x < pa + 8 ∨ pa + 12 ≤ x) →
                   (∀ l j : Nat, l < e.nl → j < e.len / 16 → x < at_ l j ∨ at_ l j + 4 ≤ x) →
                   Sparse.get t.mem x = Sparse.get s.mem x) ∧
                 (∀ m : Nat, (t.part part).refs m = (p.refs m + held.count m) % 2 ^ 32) ∧
                 ((∀ m ∈ held, p.refs m ≠ 0 ∧ p.refs m + held.count m < 2 ^ 32) →
                   (t.part part).inuse = p.inuse))))) ∧
     (Issues (.seqcommitRel h f) s →
       let i : Instr := .seqcommitRel h f
       waits i ∧
       (ready → ∀ x : Nat × Nat, s.seqRead core part a = .error x → parks i x) ∧
       (ready → ∀ e : SeqEnt, s.seqRead core part a = .ok e →
         (e.ok = false → fails i) ∧
         (e.ok = true → e.rel = true → ∃ t : State, exec i s = Host.Outcome.next t ∧ MemorySame s t ∧
           t.parts = s.parts ∧ out t 0 true) ∧
         (e.ok = true → e.rel = false → ∀ (q at_ : Nat → Nat → Nat) (pa : Nat),
           (∀ l j : Nat, l < e.nl → j < e.maxp → s.vrd core part (e.entryVa l j) 4 = .ok (q l j)) →
           s.tlbHolds core part a 64 pa true → s.ecc.contains (pa / 128) = false →
           (∀ l j : Nat, l < e.nl → j < e.maxp → q l j ≠ noPage →
             s.xlateRec core part (e.entryVa l j) true = .ok (at_ l j) ∧
             (at_ l j + 4 ≤ pa + 21 ∨ pa + 22 ≤ at_ l j) ∧
             ∀ l' j' : Nat, l' < e.nl → j' < e.maxp → q l' j' ≠ noPage → (l, j) ≠ (l', j') →
               at_ l j + 4 ≤ at_ l' j' ∨ at_ l' j' + 4 ≤ at_ l j) →
           let held := ((e.indices e.maxp).map fun x => q x.1 x.2).filter fun m => m != noPage
           let freed := (held.eraseDups.filter fun m => 0 < p.refs m && p.refs m ≤ held.count m).length
           ∃ t : State, exec i s = Host.Outcome.next t ∧ out t (BitVec.ofNat 64 freed) true ∧ others t ∧
             (∀ l j : Nat, l < e.nl → j < e.maxp → q l j ≠ noPage → Holds t (at_ l j) 4 noPage) ∧
             Holds t (pa + 21) 1 3 ∧
             (∀ x : Nat, x ≠ pa + 21 →
               (∀ l j : Nat, l < e.nl → j < e.maxp → q l j ≠ noPage → x < at_ l j ∨ at_ l j + 4 ≤ x) →
               Sparse.get t.mem x = Sparse.get s.mem x) ∧
             (∀ m : Nat, (t.part part).refs m = p.refs m - held.count m) ∧
             (t.part part).inuse = p.inuse - freed))) ∧
     (Issues (.seqinfo h f) s →
       let i : Instr := .seqinfo h f
       let gives (v : Nat) : Prop := ∃ t : State, exec i s = Host.Outcome.next t ∧ RegisterFrame s t ∧
         t.b.vregs = s.b.vregs ∧ t.b.preds = s.b.preds ∧ WritesScalar s.b t.b f.sd.toNat (BitVec.ofNat 64 v)
       let sub := f.sub.toNat
       (sub = 3 → gives (if n < p.poolsize.toNat then p.refs n else 0)) ∧
       (sub = 4 → gives (p.inuse % 2 ^ 24 + 2 ^ 24 * (p.quota.toNat % 2 ^ 24))) ∧
       (sub = 5 → gives ((p.poolsize.toNat - p.inuse) % 2 ^ 24)) ∧
       (sub < 3 ∨ sub = 6 → ∀ x : Nat × Nat, s.seqRead core part a = .error x → parks i x) ∧
       ∀ e : SeqEnt, s.seqRead core part a = .ok e →
         (sub = 6 → gives ((if e.valid then 1 else 0) + if e.rel then 2 else 0)) ∧
         (sub < 3 → e.ok = false → gives (2 ^ 64 - 1)) ∧
         (sub = 0 → e.ok = true → gives e.len) ∧
         (sub = 1 → e.ok = true → e.nl ≤ n → gives (2 ^ 64 - 1)) ∧
         (sub = 1 → e.ok = true → n < e.nl → e.len % 16 ≠ 0 ∨ e.maxp ≤ e.len / 16 → gives (ceil16 e.len)) ∧
         (sub = 1 → e.ok = true → n < e.nl → e.len % 16 = 0 → e.len / 16 < e.maxp → ∀ x : Nat,
           s.vrd core part (e.entryVa n (e.len / 16)) 4 = .ok x →
           gives (ceil16 e.len + if x = noPage then 0 else 2 ^ 32)) ∧
         (sub = 2 → e.ok = true → e.nl ≤ n ∨ e.maxp ≤ f.imm.toNat → gives noPage) ∧
         (sub = 2 → e.ok = true → n < e.nl → f.imm.toNat < e.maxp → ∀ x : Nat,
           s.vrd core part (e.entryVa n f.imm.toNat) 4 = .ok x → gives x)))

/-! ## Class 5: the matrix unit -/

/-- R283, R286, R287, R288, R300, R301, R303, R305, R327: a matrix instruction at issue. A slot that its copse
does not own is an unclaimed-slot trap; a queue of 16 makes it wait, and so does a register in its LOCAL bytes
that something in flight writes; else it joins the end of the core's queue with what it reads at issue, the
copse's written mask covers the tiles that it writes (but not that of ACCZERO.rel, which clears its bit as it begins:
the model's inference, log 19), and no register changes but PHASE under ACCCVT.rs. Registers of source vectors are read
as the issued instruction reads them (R91). -/
def Obligations.MatrixIssues : Prop :=
  ∀ (h : Hdr) (f : FmtE) (s : State) (c : Copse), s.copseOf s.b = some c →
    let k := s.core s.b.core
    let ss (r : BitVec 6) : W64 := s.b.sreg r.toNat
    let joins (i : Instr) (vals : List W64) (ls : List W32) : Prop := Issues i s →
      let own := (matNames i).all fun x => s.ownsSlot s.b x
      let busy := (s.b.windowRegs (matSpans i vals)).any fun x => (s.pendingVec s.b).any fun y => overlap x y
      let m := tileMask (matWrites s.b.fmt [] i)
      (own = false → exec i s = Host.Outcome.next (s.takeTrap cUnclaimed 0 0)) ∧
      (own = true → 16 ≤ k.mq.length → exec i s = Host.Outcome.next (s.hold .drain)) ∧
      (own = true → k.mq.length < 16 → busy = true → exec i s = Host.Outcome.next (s.hold .scoreboard)) ∧
      (own = true → k.mq.length < 16 → busy = false →
        ∃ (t : State) (o : MatOp), exec i s = Host.Outcome.next t ∧
          t = { s with b := t.b, cores := t.cores, copses := t.copses, infl := t.infl, nuid := t.nuid } ∧
          RegistersOnly { s.b with fmt := t.b.fmt } t.b ∧ t.b.vregs = s.b.vregs ∧ t.b.sregs = s.b.sregs ∧
          t.b.preds = s.b.preds ∧ t.core s.b.core = { k with mq := k.mq ++ [o] } ∧
          (∀ x : Nat, x ≠ s.b.core → t.core x = s.core x) ∧
          o = { id := o.id, uid := s.b.uid, part := s.b.part, launch := s.b.launch, cid := s.b.cid, instr := i,
                fmt := s.b.fmt, vals, lanesIn := ls, slots := [], tok := o.tok } ∧
          (t.copseOf t.b).map (fun x => x.written) = some
            (if f.sub == 1 && (i == .acczero h f) then c.written else c.written ||| m) ∧
          t.b.fmt = if i = .acccvt true h f then (s.b.advancePhase (cvtRounding true s.b.fmt)).fmt else s.b.fmt)
    (∀ ovr : Bool, joins (.mma ovr h f) [] [] ∧ joins (.mmas ovr h f) [] []) ∧
    (∀ loc : Bool, joins (.accld loc h f) [ss f.pa, ss f.pb] (if loc then [] else (s.issued (.accld loc h f)).b.accWords f) ∧
      joins (.accst loc h f) [ss f.pa, ss f.pb] []) ∧
    joins (.acczero h f) [] [] ∧
    (∀ rs : Bool, joins (.acccvt rs h f) [ss f.pa, ss f.pb, ss f.pc] []) ∧
    joins (.accscale h f) [] ((List.range 128).map fun r =>
      if f.sub == 1 then BitVec.truncate 32 (ss f.pa)
      else (s.issued (.accscale h f)).b.vreg (f.vx.toNat + r / 32) (r % 32)) ∧
    joins (.smerge h f) [ss f.pa, ss f.pb] []

/-- R282, R283, R284, R287, R298, R299, R301, R302, R304, R305, R327, R328: the matrix instructions at work. While
an earlier one holds it nothing happens; else the instruction leaves the queue and does what its page says, and
changes no memory. MMA and MMAS give each element of the tile its steps, in increasing order, over the products
of a row of A with a column of B, MMAS at the positions that the indices name. ACCLD and ACCST move words of
consecutive rows, ACCCVT packs a column group of each row into a slot or LOCAL rows with their scale bytes,
ACCSCALE multiplies each row by a power of two, SMERGE adds the splits of each row at their largest reference,
or saves the tile, ACCZERO makes every byte of its tile zero and no other, with .rel clears the tile's bit of the
written mask unless a later instruction of the copse waits to write the tile (log 19), and OPREL gives its slots up. OPCLAIM
gives its copse the slots that it may have once the older waiting claims that can be met have been, zeroed where
they were free; without a predicate it waits for them. -/
def Obligations.MatrixSteps : Prop :=
  (∀ (s : State) (k core : Nat) (o : MatOp), s.matOp k = some (core, o) →
    let c := s.core core
    let own := (lkey o.part o.launch, o.cid)
    let v (j : Nat) : Nat := ((o.vals[j]?).getD 0).toNat
    let begins (claim : State → Prop) : Prop :=
      ∃ t : State, exec (.matrixBegin k) s = Host.Outcome.next t ∧ MemorySame s t ∧
        (t.core core).mq = c.mq.filter (fun x => x.id != k) ∧
        (o.tok ≠ 0 → ∃ x : Infl, t.infl = s.infl ++ [x] ∧ x.uid = o.uid ∧ x.tok = o.tok) ∧ claim t
    let quiet (t : State) : Prop := t.b = s.b ∧ t.boughs = s.boughs ∧ (t.core core).store = c.store
    (c.mq.find? fun x => x.id == k) = some o →
    (c.matHeld o.id o.fmt o.slots o.instr = true → exec (.matrixBegin k) s = Host.Outcome.next s) ∧
    (c.matHeld o.id o.fmt o.slots o.instr = false →
      let el (slot row code : Nat) (sc : Bool) (e : Nat) : Fp :=
        ((rowElems code sc (c.slotRow slot row) (c.slotScale slot row))[e]?).getD .nan
      let product (f : FmtE) (ovr : Bool) (n : Nat) (r : MmaRow) (ps : Nat → Nat → Nat → List Fp) : Prop :=
        begins fun t => quiet t ∧ (t.core core).slots = c.slots ∧ TilesOutside c (t.core core) o.fmt f.acc.toNat false ∧
          ∀ i q : Nat, i < 128 → q < 128 → (t.core core).cell o.fmt f.acc.toNat i q =
            ((List.range n).foldl (fun a j => some (mmaStep o.fmt r (ps i q j) a))
              (if ovr then none else some (c.cell o.fmt f.acc.toNat i q))).getD 0
      (∀ (ovr : Bool) (h : Hdr) (f : FmtE) (r : MmaRow), o.instr = .mma ovr h f → mmaRow o.fmt = some r →
        product f ovr (r.k / r.ks) r fun i q j => (List.range r.ks).map fun e =>
          (el f.sla.toNat i (fmtA o.fmt) (fmtSCA o.fmt) (j * r.ks + e)).mul
            (el f.slb.toNat q (fmtB o.fmt) (fmtSCB o.fmt) (j * r.ks + e))) ∧
      (∀ (ovr : Bool) (h : Hdr) (f : FmtE) (r : MmaRow), o.instr = .mmas ovr h f → mmaRow o.fmt = some r →
        r.mmas = true →
        let z := if fmtSparse o.fmt = 1 then 2 else 4
        let at_ (i e : Nat) : Nat := 8 * (e / z) + c.slotRow (f.sla.toNat + 1) i / 2 ^ (3 * e) % 8
        product f ovr (2 * r.k / r.ks) r fun i q j =>
          ((List.range (2 * r.k / 8 * z)).filter fun e => j * r.ks ≤ 8 * (e / z) && 8 * (e / z) < j * r.ks + r.ks).map
            fun e => (el f.sla.toNat i (fmtA o.fmt) (fmtSCA o.fmt) e).mul
              (el (f.slb.toNat + at_ i e / r.k) q (fmtB o.fmt) (fmtSCB o.fmt) (at_ i e % r.k))) ∧
      (∀ (loc : Bool) (h : Hdr) (f : FmtE), o.instr = .accld loc h f →
        let row0 := f.imm.toNat % 128
        let n := f.imm.toNat / 128 + 1
        begins fun t => quiet t ∧ (t.core core).slots = c.slots ∧
          (∀ i q : Nat, i < n → q < 128 → Sparse.getLE (t.core core).tiles (wordAt f.acc.toNat (row0 + i) q) 4 =
            if loc then s.localRdN core o.part o.launch o.cid ((v 0 / 4 * 4 + i * (v 1 / 4 * 4) + 4 * q) % 2 ^ 64) 4
            else ((o.lanesIn[128 * i + q]?).getD 0).toNat) ∧
          ∀ a : Nat, a < wordAt f.acc.toNat row0 0 ∨ wordAt f.acc.toNat (row0 + n) 0 ≤ a →
            Sparse.get (t.core core).tiles a = Sparse.get c.tiles a) ∧
      (∀ (loc : Bool) (h : Hdr) (f : FmtE), o.instr = .accst loc h f →
        let row0 := f.imm.toNat % 128
        let n := f.imm.toNat / 128 + 1
        let word (i q : Nat) : Nat := Sparse.getLE c.tiles (wordAt f.acc.toNat (row0 + i) q) 4
        let at_ (i q : Nat) : Nat := (v 0 / 4 * 4 + i * (v 1 / 4 * 4) + 4 * q) % 2 ^ 64
        (∀ b : Bough, loc = false → s.bough o.uid = some b → begins fun t => (t.core core).store = c.store ∧
          (t.core core).slots = c.slots ∧ (t.core core).tiles = c.tiles ∧
          (∀ u : Nat, u ≠ o.uid → t.bough u = s.bough u) ∧ ∃ d : Bough, t.bough o.uid = some d ∧
            d = { b with vregs := d.vregs, fw := d.fw } ∧
            (∀ i q : Nat, i < n → q < 128 →
              d.vreg (f.vx.toNat + 4 * i + q / 32) (q % 32) = BitVec.ofNat 32 (word i q)) ∧
            ∀ r l : Nat, l < 32 → r < f.vx.toNat ∨ f.vx.toNat + 4 * n ≤ r → d.vreg r l = b.vreg r l) ∧
        (loc = true → (∀ i q : Nat, i < n → q < 128 → c.scratch own (at_ i q) 4 ∧
            ∀ i' q' : Nat, i' < n → q' < 128 → (i, q) ≠ (i', q') → at_ i q + 4 ≤ at_ i' q' ∨ at_ i' q' + 4 ≤ at_ i q) →
          begins fun t => t.b = s.b ∧ t.boughs = s.boughs ∧ (t.core core).slots = c.slots ∧
            (t.core core).tiles = c.tiles ∧
            (∀ i q : Nat, i < n → q < 128 → Sparse.getLE (t.core core).store (at_ i q) 4 = word i q) ∧
            ∀ a : Nat, (∀ i q : Nat, i < n → q < 128 → a < at_ i q ∨ at_ i q + 4 ≤ a) →
              Sparse.get (t.core core).store a = Sparse.get c.store a)) ∧
      (∀ (rs : Bool) (h : Hdr) (f : FmtE), o.instr = .acccvt rs h f →
        let code := f.sub.toNat % 16
        let ty := elemTy code
        let w := elemBits code
        let g := f.sub.toNat / 16 % 4 * (512 / w)
        let x (i q : Nat) : Fp := accVal o.fmt (c.cell o.fmt f.acc.toNat i (g + q))
        let r : Rounding :=
          if rs then (if fmtSE o.fmt = true then .dither (fmtPhase o.fmt) else .by_ .rn)
          else .by_ (if fmtRM o.fmt = 5 then .rn else modeOfCode (fmtRM o.fmt))
        let blocks := if code ≤ 3 then 16 / w else 0
        let packed (i data : Nat) (scale : Nat → Nat) : Prop :=
          if code ≤ 3 then ∀ k : Nat, k < blocks →
            (scale k, data / 2 ^ (32 * w * k) % 2 ^ (32 * w)) =
              packBlock ty r ((List.range 32).map fun j => x i (32 * k + j))
          else ∀ j : Nat, j < 32 → data / 2 ^ (16 * j) % 2 ^ 16 = (fmtOf ty).roundBy r false j (x i j)
        let dat (i : Nat) : Nat := (v 0 + i * v 1) % 2 ^ 64
        let sca (i : Nat) : Nat := (v 2 + blocks * i) % 2 ^ 64
        let base := slotBase f.sla.toNat
        code ≤ 6 → code ≠ 4 → f.sub.toNat / 16 % 4 * (512 / w) + 512 / w ≤ 128 →
        (f.sub.getLsbD 6 = false → begins fun t => quiet t ∧ (t.core core).tiles = c.tiles ∧
          (∀ i : Nat, i < 128 →
            packed i ((t.core core).slotRow f.sla.toNat i) (fun k => (t.core core).slotScale f.sla.toNat i / 256 ^ k % 256) ∧
            (t.core core).slotScale f.sla.toNat i < 256 ^ blocks) ∧
          ∀ a : Nat, a < base ∨ base + 8704 ≤ a → Sparse.get (t.core core).slots a = Sparse.get c.slots a) ∧
        (f.sub.getLsbD 6 = true →
          (∀ i : Nat, i < 128 → c.scratch own (dat i) 64 ∧ c.scratch own (sca i) blocks ∧ ∀ j : Nat, j < 128 →
            (i ≠ j → dat i + 64 ≤ dat j ∨ dat j + 64 ≤ dat i) ∧ (i ≠ j → sca i + blocks ≤ sca j ∨ sca j + blocks ≤ sca i) ∧
            (dat i + 64 ≤ sca j ∨ sca j + blocks ≤ dat i)) →
          begins fun t => t.b = s.b ∧ t.boughs = s.boughs ∧ (t.core core).slots = c.slots ∧
            (t.core core).tiles = c.tiles ∧
            (∀ i : Nat, i < 128 → packed i (Sparse.getLE (t.core core).store (dat i) 64) fun k =>
              (Sparse.get (t.core core).store (sca i + k)).toNat) ∧
            ∀ a : Nat, (∀ i : Nat, i < 128 → (a < dat i ∨ dat i + 64 ≤ a) ∧ (a < sca i ∨ sca i + blocks ≤ a)) →
              Sparse.get (t.core core).store a = Sparse.get c.store a)) ∧
      (∀ (h : Hdr) (f : FmtE), o.instr = .accscale h f → o.lanesIn.length = 128 →
        let fm := if fmtAcc o.fmt = 1 then fmtF64 else fmtF32
        begins fun t => quiet t ∧ (t.core core).slots = c.slots ∧ TilesOutside c (t.core core) o.fmt f.acc.toNat false ∧
          ∀ i q : Nat, i < 128 → q < 128 → (t.core core).cell o.fmt f.acc.toNat i q =
            fm.round .rn false (fpScale ((o.lanesIn[i]?).getD 0).toInt (fm.val (c.cell o.fmt f.acc.toNat i q)))) ∧
      (∀ (h : Hdr) (f : FmtE), o.instr = .smerge h f →
        let split (i j : Nat) : Nat :=
          s.localRdN core o.part o.launch o.cid ((v 0 / 4 * 4 + i * (v 1 / 4 * 4) + 4 * j) % 2 ^ 64) 4
        let live (q : Nat) : List Nat :=
          (List.range (f.imm.toNat % 16 + 1)).filter fun i => split i (16385 + 2 * q) != noRef
        let ref (q i : Nat) : Int := signed32 (split i (16385 + 2 * q))
        (f.sub ≠ 1 → begins fun t => quiet t ∧ (t.core core).slots = c.slots ∧
          TilesOutside c (t.core core) 0 f.acc.toNat true ∧ ∀ q : Nat, q < 128 →
            (live q = [] → (t.core core).side f.acc.toNat q = (0, noRef) ∧
              ∀ j : Nat, j < 128 → (t.core core).cell 0 f.acc.toNat q j = 0) ∧
            ∀ (i : Nat) (is : List Nat) (m : Int), live q = i :: is → m ∈ (live q).map (ref q) →
              (∀ e ∈ live q, ref q e ≤ m) →
              let total (j : Nat) : Nat := is.foldl (fun x e => add32 x (scale32 (split e j) (ref q e - m)))
                (scale32 (split i j) (ref q i - m))
              let sum := total (16384 + 2 * q)
              (t.core core).side f.acc.toNat q = (sum, wrap 32 m) ∧
              ∀ j : Nat, j < 128 → (t.core core).cell 0 f.acc.toNat q j =
                if f.sub.getLsbD 2 = true ∧ (fmtF32.val sum).isZero = false then
                  rnd32 ((fmtF32.val (total (128 * q + j))).div keepBits (fmtF32.val sum))
                else total (128 * q + j)) ∧
        (f.sub = 1 → c.scratch own (v 0 / 4 * 4) 66560 → begins fun t => t.b = s.b ∧ t.boughs = s.boughs ∧
          (t.core core).slots = c.slots ∧ (t.core core).tiles = c.tiles ∧
          StoresLocal s t core (v 0 / 4 * 4) 66560 (Sparse.getLE c.tiles (tileBase f.acc.toNat) 66560))) ∧
      (∀ (h : Hdr) (f : FmtE), o.instr = .acczero h f → begins fun t => quiet t ∧ (t.core core).slots = c.slots ∧
        (∀ a : Nat, Sparse.get (t.core core).tiles a =
          if tileBase f.acc.toNat ≤ a ∧ a < tileBase f.acc.toNat + 66560 then 0 else Sparse.get c.tiles a) ∧
        let after (x : MatOp) : Prop := o.id < x.id ∧ x.part = o.part ∧ x.launch = o.launch ∧ x.cid = o.cid ∧
          isTileRel x.instr = false ∧ 16 + f.acc.toNat ∈ matWrites x.fmt [] x.instr
        let afterOp (x : EngOp) : Prop := o.id < x.id ∧ x.part = o.part ∧ x.launch = o.launch ∧ x.cid = o.cid ∧
          16 + f.acc.toNat ∈ matWrites 0 [] x.instr
        let later : Prop := (∃ x ∈ c.mq, after x) ∨ ∃ x ∈ c.ops, afterOp x
        (f.sub ≠ 1 ∨ later → t.copses = s.copses) ∧
        ∀ d : Copse, f.sub = 1 → ¬ later → s.copse o.part o.launch o.cid = some d →
          (t.copse o.part o.launch o.cid).map (fun x => x.written) = some (d.written &&& ~~~(1#4 <<< f.acc.toNat))) ∧
      ∀ (h : Hdr) (f : FmtY), o.instr = .oprel h f → begins fun t => quiet t ∧ (t.core core).tiles = c.tiles ∧
        (t.core core).slotOwn = c.slotOwn.filter fun e => !(e.2 == own && o.slots.contains e.1))) ∧
  ∀ (h : Hdr) (f : FmtY) (s : State),
    let got := (s.claimView s.b).claim s.b f
    (Issues (.opclaim h f) s →
      (∀ l : List Nat, got = some l → ∃ t : State, exec (.opclaim h f) s = Host.Outcome.next t ∧
        CoreFrame s t ∧ WritesScalar s.b t.b f.sd.toNat (BitVec.ofNat 64 (slotMask l)) ∧
        (WritesPred s.b t.b f.pd (s.b.guard h) fun _ => true) ∧
        ∀ k ∈ l, (s.core s.b.core).freeSlot k = true →
          (t.core s.b.core).slotOwn.contains (k, s.b.own) = true ∧
          ∀ a : Nat, slotBase k ≤ a → a < slotBase k + 8704 → Sparse.get (t.core s.b.core).slots a = 0) ∧
      (got = none → f.pd = none → exec (.opclaim h f) s = Host.Outcome.next (s.hold .opclaim)) ∧
      (got = none → f.pd ≠ none → ∃ t : State, exec (.opclaim h f) s = Host.Outcome.next t ∧
        RegisterFrame s t ∧ t.b.vregs = s.b.vregs ∧ WritesScalar s.b t.b f.sd.toNat 0 ∧
        WritesPred s.b t.b f.pd (s.b.guard h) fun _ => false)) ∧
    (Issues (.oprel h f) s → (s.core s.b.core).mq.length < 16 →
      let l := (slotsOf f.imm.toNat).filter fun k => s.ownsSlot s.b k
      ∃ (t : State) (o : MatOp), exec (.oprel h f) s = Host.Outcome.next t ∧ MemorySame s t ∧
        t.b.vregs = s.b.vregs ∧ t.b.preds = s.b.preds ∧
        WritesScalar s.b t.b f.sd.toNat (BitVec.ofNat 64 (slotMask l)) ∧
        (t.core s.b.core).mq = (s.core s.b.core).mq ++ [o] ∧ o.instr = .oprel h f ∧ o.slots = l)

/-- R291, R292, R293, R294, R295: LAYOUT reads a layout record as LDRO does, and gives the bytes and the bank
conflicts of a fill by it, or a false predicate where a check fails; BANKCNT reads the bough's conflicts, and
.clr clears them. -/
def Obligations.LayoutAndConflicts : Prop :=
  ∀ (h : Hdr) (f : FmtY) (s : State),
    let va := (s.b.sreg f.s1.toNat).toNat
    let base := s.b.sreg f.s2.toNat
    let r (x : Nat) : Option Nat := layResult x (2 ^ (f.imm.toNat % 4)) (f.imm.getLsbD 2) base
    (Issues (.layout h f) s →
      (va % 8 ≠ 0 → ∃ t : State, exec (.layout h f) s = Host.Outcome.next t ∧ RegisterFrame s t ∧
        t.b.vregs = s.b.vregs ∧ WritesScalar s.b t.b f.sd.toNat 0 ∧
        WritesPred s.b t.b f.pd (s.b.guard h) fun _ => false) ∧
      (va % 8 = 0 → AccessWaits (.layout h f) s (s.xlateLanes s.b false 32 [(32, va)])) ∧
      (va % 32 = 0 → Reaches s (s.xlateLanes s.b false 32 [(32, va)]) →
        (∀ p ∈ (s.xlateLanes s.b false 32 [(32, va)]).good, s.roCheck p = none) →
        ∃ (t : State) (p : Piece) (v : BitVec 1024), exec (.layout h f) s = Host.Outcome.next t ∧
          CoreFrame { s with dcache := t.dcache } t ∧ (s.xlateLanes s.b false 32 [(32, va)]).good = [p] ∧
          (v = BitVec.ofNat 1024 (s.rd (p.pa / 128 * 128) 128) ∨
            ∃ e ∈ (s.core s.b.core).roc, e.pa = p.pa / 128 ∧ e.bytes = v) ∧
          let x := v.toNat / 2 ^ (8 * (p.pa % 128)) % 2 ^ 256
          WritesScalar s.b t.b f.sd.toNat (BitVec.ofNat 64 ((r x).getD 0)) ∧
          WritesPred s.b t.b f.pd (s.b.guard h) fun _ => (r x).isSome)) ∧
    (Issues (.bankcnt h f) s → ∃ t : State, exec (.bankcnt h f) s = Host.Outcome.next t ∧ OnlyBough s t ∧
      RegistersOnly { s.b with bankcnt := if f.sub = 1 then 0 else s.b.bankcnt } t.b ∧
      t.b.vregs = s.b.vregs ∧ t.b.preds = s.b.preds ∧ WritesScalar s.b t.b f.sd.toNat s.b.bankcnt)

/-! ## Class 6: tasks and futures -/

/-- R332, R333, R338, R341, R342, R344: TFILL.fut, TFILL.sig and TCANCEL wait as a release at package scope does,
and then act in one step for each executing lane, in increasing lane order, and change no register but PD and
the status. TFILL.fut fills a future that is EMPTY, marks what waits for it as ready, and writes true, else it
changes nothing and writes false. TFILL.sig lowers DEP; a WAITING record whose DEP is then at most 0 goes READY
to the tail of its queue. TCANCEL takes a record that is NEW, WAITING or READY out of its queue and its launch
and makes it CANCELLED, with RESUME and FRAME 0, and its future FAULTED with cause 4, else it changes nothing and
has status 2. (That a misaligned future or record changes nothing and writes false, that DEP wraps at 32 bits,
that TCANCEL clears RESUME, which R333 says of a task with a saved frame, and that a cancelled task leaves its
launch's list but for the launch's kill, are the model's choices, log 47.) -/
def Obligations.TaskSignals : Prop :=
  ∀ (h : Hdr) (f : FmtY) (s : State),
    let part := s.b.part
    let core := s.b.core
    let goes (i : Instr) (addrs : Nat → List (Nat × Bool)) (lane : State → Nat → State) : Prop := Issues i s →
      (s.releaseReady s.b false = false → exec i s = Host.Outcome.next (s.hold .fence)) ∧
      (s.releaseReady s.b false = true →
        (∀ l : Nat, (s.b.guard h).getLsbD l = true → s.stepFault (addrs l) = none) →
        exec i s = Host.Outcome.next (finish_ i s.b.path ((s.b.guard h).list.foldl lane (s.issued i))))
    let reports (u v : State) (l : Nat) (ok : Bool) : Prop :=
      (WritesPred u.b v.b f.pd (1#32 <<< l) fun _ => ok) ∧ v.b.vregs = u.b.vregs ∧ v.b.sregs = u.b.sregs
    let fill := s.issued (.tfillFut h f)
    let sig := s.issued (.tfillSig h f)
    let cancel := s.issued (.tcancel h f)
    goes (.tfillFut h f) (fun l => if fill.laneVa f l % 16 ≠ 0 then [] else [(fill.laneVa f l, true)]) (fillLane fill f) ∧
    goes (.tfillSig h f) (fun l => if sig.laneVa f l % 64 ≠ 0 then [] else [(sig.laneVa f l, true)]) (signalLane sig f) ∧
    goes (.tcancel h f) (fun l => s.recAddrs (cancel.laneVa f l) fun r => r.st ≤ 2) (cancelLane cancel f) ∧
    ∀ (u : State) (l : Nat),
      (let v := fillLane fill f u l
       let va := fill.laneVa f l
       (va % 16 ≠ 0 → MemorySame u v ∧ reports u v l false) ∧
       ∀ pa : Nat, va % 16 = 0 → u.xlateRec core part va true = .ok pa →
        (futState (u.rd pa 16) ≠ 0 → MemorySame u v ∧ v.watches = u.watches ∧ reports u v l false) ∧
        (futState (u.rd pa 16) = 0 → MemoryOutside u v pa 16 ∧
          Holds v pa 16 ((fill.b.vreg64 (f.vd.toNat + 2) l).toNat + 2 ^ 64 + 2 ^ 72 * futOwner (u.rd pa 16)) ∧
          v.watches = (u.watches.map fun w =>
            if w.home == pa then { w with ready := true } else w) ∧ reports u v l true)) ∧
      (let v := signalLane sig f u l
       let va := sig.laneVa f l
       (va % 64 ≠ 0 → MemorySame u v ∧ reports u v l false) ∧
       ∀ pa : Nat, va % 64 = 0 → s.xlateRec core part va true = .ok pa →
        let r := u.taskRec pa
        let d := BitVec.ofInt 32 (r.dep - f.imm.toNat)
        let wakes : Prop := r.st = 1 ∧ d.toInt ≤ 0
        MemoryOutside u v (pa + 32) 5 ∧ Holds v (pa + 32) 4 d.toNat ∧
        (¬ wakes → Holds v (pa + 36) 1 r.st ∧ v.launches.map (fun x => x.entryq) = u.launches.map (fun x => x.entryq) ∧
          reports u v l false) ∧
        (wakes → Holds v (pa + 36) 1 2 ∧ reports u v l true ∧
          ∀ la : Launch, u.taskLaunch part r.entry = some la → u.launch part la.id = some la →
            (v.taskLaunch part r.entry).map (fun x => x.entryq) =
              some (la.entryq.filter (fun x => x != BitVec.ofNat 64 va) ++ [BitVec.ofNat 64 va]))) ∧
      (let v := cancelLane cancel f u l
       let va := cancel.laneVa f l
       let failed : Prop := MemorySame u v ∧ v.launches = u.launches ∧ reports u v l false ∧
         Sparse.get v.b.tstat l = 2
       (va % 64 ≠ 0 → failed) ∧
       ∀ pa : Nat, va % 64 = 0 → s.xlateRec core part va true = .ok pa →
         u.xlateRec core part va true = .ok pa →
        let r := u.taskRec pa
        (2 < r.st → failed) ∧
        (r.st ≤ 2 →
          (∀ x ∈ v.launches, x.part = part →
            (∀ e ∈ x.entryq, e.toNat ≠ va) ∧ ∀ e ∈ x.tasks, e.toNat ≠ va) ∧
          reports u v l true ∧ Sparse.get v.b.tstat l = 0 ∧
          (∀ (k : Nat) (la : Launch), u.launch part k = some la → BitVec.ofNat 64 va ∈ la.tasks →
            (v.launch part k).map (fun x => x.cancelled.contains (BitVec.ofNat 64 va)) = some true) ∧
          (∀ x ∈ v.susp, x.part = part → x.task.toNat ≠ va) ∧
          (r.fut = 0 → Holds v (pa + 36) 2 7 ∧ Holds v (pa + 56) 8 0 ∧ ∀ a : Nat, a < pa + 36 ∨ pa + 38 ≤ a → a < pa + 56 ∨ pa + 64 ≤ a →
            Sparse.get v.mem a = Sparse.get u.mem a) ∧
          ∀ fa : Nat, r.fut ≠ 0 →
            ((u.setTaskSt s.b.lk pa 7).dropFrame s.b.lk pa).xlateRec core part r.fut true = .ok fa →
            fa + 16 ≤ pa + 36 ∨ pa + 64 ≤ fa →
            Holds v (pa + 36) 2 7 ∧ Holds v (pa + 56) 8 0 ∧
            (∀ a : Nat, a < pa + 36 ∨ pa + 38 ≤ a → a < pa + 56 ∨ pa + 64 ≤ a → a < fa ∨ fa + 16 ≤ a →
              Sparse.get v.mem a = Sparse.get u.mem a) ∧
            (futState (u.rd fa 16) = 0 →
              Holds v fa 16 (4 + 2 ^ 64 * 2 + 2 ^ 72 * futOwner (u.rd fa 16)) ∧
              ∀ w ∈ u.watches, w.home = fa → { w with ready := true } ∈ v.watches)))

/-- R332, R337, R339, R340: TSPAWN and TWAIT, in one step for each executing lane, in increasing lane order.
The instruction completes when no lane needs another step; while lanes run a task the others wait; else the
bough waits. TSPAWN waits as a release does; an ENTRY that no open TASK launch has is an illegal target, and a
task of the lane's own chain that TWAIT would wait for is a future cycle.
R337, R339, R340, R343: one lane's step of TSPAWN and of TWAIT. TSPAWN adds its count to DEP: a task that
is not ready WAITS, a ready one goes READY to the tail of its queue, and where that is full it runs inline, or
waits, or under .nb is refused. TWAIT takes the value of a FULL future and the cause of a FAULTED one; it
adopts the READY owner of its own kernel, moves one of another kernel to its queue's head and parks, and else
parks; .nb does neither. -/
def Obligations.TaskWaits : Prop :=
  (∀ (nb : Bool) (h : Hdr) (f : FmtY) (s : State),
     let need := s.b.guard h
     let entry := s.kernelEntry s.b
     let runs (i : Instr) (m : Mask) (addrs : State → Nat → List (Nat × Bool)) (lane : Steps → Nat → Steps)
         (w : Mask → Wait) : Prop :=
       let after (n : Nat) : Steps := (m.list.take n).foldl lane { s, done := s.b.stepdone, run := 0, back := [] }
       (∀ n l : Nat, m.list[n]? = some l → (after n).s.stepFault (addrs (after n).s l) = none) →
       let x := after m.list.length
       let rest := need &&& x.s.b.emr &&& ~~~x.done
       x.s.b.emr ≠ 0 →
         (x.run = 0 → rest = 0 → exec i s = Host.Outcome.next (finish_ i x.s.b.path (begin_ i true x.s))) ∧
         (x.run = 0 → rest ≠ 0 →
           exec i s = Host.Outcome.next ((x.s.modB fun b => { b with stepdone := x.done }).hold (w rest))) ∧
         (x.run ≠ 0 → 1024 < x.s.b.stack.length + x.back.length →
           exec i s = Host.Outcome.next (s.takeTrap cConverge 0 0)) ∧
         (x.run ≠ 0 → x.s.b.stack.length + x.back.length ≤ 1024 →
           (∀ r ∈ x.back, x.s.lineNear x.s.b r.2.1 = true) →
           exec i s = Host.Outcome.next (x.startGroup s.b.pc x.done entry))
     (Issues (.tspawn nb h f) s →
       let m := need &&& ~~~s.b.stepdone
       let va := (s.issued (.tspawn nb h f)).laneVa f
       let targets := m.list.findSome? fun l => s.noTarget (va l)
       (∀ a : W64, targets = some a → exec (.tspawn nb h f) s = Host.Outcome.next (s.takeTrap cTarget 0 a)) ∧
       (targets = none → s.releaseReady s.b false = false →
         exec (.tspawn nb h f) s = Host.Outcome.next (s.hold .fence)) ∧
       (targets = none → s.releaseReady s.b false = true →
         runs (.tspawn nb h f) m (fun u l => u.recAddrs (va l) fun r => (u.spawnAs f l r).isSome) (spawnStep nb f va)
           fun rest => .tasks (rest.list.map fun l => s.vword s.b (va l) 8))) ∧
     (Issues (.twait nb h f) s →
       let m := need &&& ~~~s.b.stepdone &&& ~~~(Mask.ofPred fun l => s.watched s.b.uid l)
       let va := (s.issued (.twait nb h f)).laneVa f
       let cyclic := !nb && m.list.any fun l => s.cycle l (va l)
       (cyclic = true → exec (.twait nb h f) s = Host.Outcome.next (s.takeTrap cCycle 0 0)) ∧
       (cyclic = false →
         runs (.twait nb h f) m (fun u l => u.futAddrs (va l)) (waitStep nb f va) fun _ => .future))) ∧
  (∀ (nb : Bool) (f : FmtY) (names : Nat → Nat) (x : Steps) (l : Nat),
     let s := x.s
     let part := s.b.part
     let core := s.b.core
     let va := names l
     let done := x.done ||| (1#32 <<< l)
     let reports (v : State) (ok : Bool) (status : Nat) : Prop :=
       (WritesPred s.b v.b f.pd (1#32 <<< l) fun _ => ok) ∧ v.b.sregs = s.b.sregs ∧
         Sparse.get v.b.tstat l = BitVec.ofNat 8 status
     (let y := spawnStep nb f names x l
      (va % 64 ≠ 0 → MemorySame s y.s ∧ y.done = done ∧ y.run = x.run ∧ Sparse.get y.s.b.tstat l = 2) ∧
      ∀ (pa : Nat) (la : Launch), va % 64 = 0 → s.xlateRec core part va true = .ok pa →
       let r := s.taskRec pa
       let dep := r.dep + (BitVec.truncate 32 (s.ss f.s1)).toInt
       let full := 65536 ≤ la.entryq.length
       let inl := r.entry = (s.kernelEntry s.b).toNat ∧ s.b.depth l < s.b.nestmax
       let published (st : Nat) : Prop := y.done = done ∧ y.run = x.run ∧ reports y.s true 0 ∧
         Holds y.s (pa + 32) 4 (BitVec.ofInt 32 dep).toNat ∧ Holds y.s (pa + 36) 1 st ∧
         (∀ a : Nat, a < pa ∨ pa + 64 ≤ a →
           (∀ fa : Nat, (s.poke s.b.lk (pa + 48) 8 (va / 64)).xlateRec core part r.fut true = .ok fa → r.fut ≠ 0 →
             a < fa + 9 ∨ fa + 16 ≤ a) → Sparse.get y.s.mem a = Sparse.get s.mem a) ∧
         ∀ fa : Nat, (s.poke s.b.lk (pa + 48) 8 (va / 64)).xlateRec core part r.fut true = .ok fa → r.fut ≠ 0 →
           fa + 16 ≤ pa + 32 ∨ pa + 37 ≤ fa + 9 → Holds y.s (fa + 9) 7 (va / 64)
       (r.st ≠ 0 → s.taskLaunch part r.entry = some la → MemorySame s y.s ∧ y.done = done ∧
         Sparse.get y.s.b.tstat l = 2) ∧
       (r.st = 0 → s.taskLaunch part r.entry = some la → s.launch part la.id = some la →
         (0 < dep → published 1) ∧
         (dep ≤ 0 → ¬ full → published 2 ∧
           (y.s.taskLaunch part r.entry).map (fun z => z.entryq) =
             some (la.entryq.filter (fun z => z != BitVec.ofNat 64 va) ++ [BitVec.ofNat 64 va])) ∧
         (dep ≤ 0 → full → inl → y.done = done ∧ y.run = x.run ||| (1#32 <<< l)) ∧
         (dep ≤ 0 → full → ¬ inl → nb = true → MemorySame s y.s ∧ y.done = done ∧ y.run = x.run ∧
           WritesPred s.b y.s.b f.pd (1#32 <<< l) fun _ => false) ∧
         (dep ≤ 0 → full → ¬ inl → nb = false → y = x))) ∧
     (let y := waitStep nb f names x l
      let fut := s.futBits va
      let parks : Prop := y.done = x.done ∧ y.run = x.run ∧
        ∃ w ∈ y.s.watches, w.fut = va ∧ w.lane = l ∧ w.core = core ∧ w.part = part ∧ w.ready = false ∧
          w.again = false ∧ ∀ pa : Nat, s.xlateRec core part va false = .ok pa → w.home = pa
      (va % 16 ≠ 0 → y.done = done ∧ MemorySame s y.s ∧ reports y.s false 2) ∧
      (va % 16 = 0 →
       (futState fut = 1 → y.done = done ∧ y.run = x.run ∧ MemorySame s y.s ∧ reports y.s true 0 ∧
         y.s.b.vreg f.vd.toNat l = BitVec.ofNat 32 fut ∧
         y.s.b.vreg (f.vd.toNat + 1) l = BitVec.ofNat 32 (fut / 2 ^ 32)) ∧
       (futState fut = 2 → y.done = done ∧ y.run = x.run ∧ MemorySame s y.s ∧ reports y.s false (fut % 256) ∧
         y.s.b.vregs = s.b.vregs) ∧
       (futState fut = 0 → nb = true → y.done = done ∧ y.run = x.run ∧ MemorySame s y.s ∧ reports y.s false 6 ∧
         y.s.b.vregs = s.b.vregs) ∧
       (futState fut = 0 → nb = false →
         (s.b.task l = 0 → futOwner fut = 0 → parks ∧ MemorySame s y.s) ∧
         ∀ pa : Nat, futOwner fut ≠ 0 → s.xlateRec core part (64 * futOwner fut) true = .ok pa →
           let o := s.taskRec pa
           (s.b.task l = 0 → o.st ≠ 2 → parks ∧ MemorySame s y.s) ∧
           (s.b.task l = 0 → o.st = 2 → o.entry ≠ (s.kernelEntry s.b).toNat → parks ∧ MemorySame s y.s ∧
             ∀ la : Launch, s.taskLaunch part o.entry = some la → s.launch part la.id = some la →
               (y.s.taskLaunch part o.entry).map (fun z => z.entryq) =
                 some (BitVec.ofNat 64 (64 * futOwner fut) ::
                   la.entryq.filter fun z => z != BitVec.ofNat 64 (64 * futOwner fut))) ∧
           (o.st = 2 → o.entry = (s.kernelEntry s.b).toNat → s.b.depth l < s.b.nestmax →
             y.done = x.done ∧ y.run = x.run ||| (1#32 <<< l))))))

/-- R340, R342, R343, R344: TINFO reads the task id, the depth, the status and PARENT of each lane's innermost
task, NESTMAX, and the wait-table entries of the core; NESTSET sets NESTMAX and reads the old one. TYIELD is
illegal outside a TASK launch; else, for each executing lane that runs a task, in increasing order, the task
goes READY with RESUME to the tail of its queue, and the lane leaves it. (The frames of a task that is left are
kept in State, and no byte of the overflow area changes: the model's choice, log 20.)
R334, R340, R342: how a task starts, and what wakes one. A lane that takes a task makes it RUNNING with the
lane as its HELPER, and loads its argument record, or the frame with which it was suspended. A watch of a
future that was filled lets the parked lane try again, or a SUSPENDED task go READY to the head of its queue.
A task bough starts with up to 32 tasks from the head of the queue, one for each of its lanes. -/
def Obligations.TaskStates : Prop :=
  (∀ (h : Hdr) (f : FmtY) (s : State),
     let g := s.b.guard h
     let rec_ (l : Nat) : Nat := 64 * s.b.task l
     (Issues (.tinfo h f) s →
       (∀ (n : Nat) (v : Nat → Nat),
         (f.sub = 0 ∧ n = 2 ∧ v = s.b.task) ∨ (f.sub = 1 ∧ n = 1 ∧ v = s.b.depth) ∨
           (f.sub = 2 ∧ n = 1 ∧ v = fun l => (Sparse.get s.b.tstat l).toNat) →
         ∃ t : State, exec (.tinfo h f) s = Host.Outcome.next t ∧ RegisterFrame s t ∧ t.b.preds = s.b.preds ∧
           t.b.sregs = s.b.sregs ∧ WritesLanes s.b t.b h.tr f.vd.toNat n g v) ∧
       (f.sub = 3 → (∀ l : Nat, g.getLsbD l = true → s.b.task l ≠ 0 →
           s.stepFault [(rec_ l + 24, false)] = none) →
         ∃ t : State, exec (.tinfo h f) s = Host.Outcome.next t ∧ RegisterFrame s t ∧ t.b.preds = s.b.preds ∧
           t.b.sregs = s.b.sregs ∧ WritesLanes s.b t.b h.tr f.vd.toNat 2 g fun l =>
             if s.b.task l = 0 then 0 else s.vword s.b (rec_ l + 24) 8) ∧
       (f.sub = 4 ∨ f.sub = 5 →
         ∃ t : State, exec (.tinfo h f) s = Host.Outcome.next t ∧ RegisterFrame s t ∧ t.b.preds = s.b.preds ∧
           t.b.vregs = s.b.vregs ∧ WritesScalar s.b t.b f.sd.toNat (BitVec.ofNat 64 (if f.sub = 4 then s.b.nestmax
             else (s.watches.filter fun w => w.core == s.b.core && !w.overflow).length)))) ∧
     (Issues (.nestset h f) s →
       ∃ t : State, exec (.nestset h f) s = Host.Outcome.next t ∧ OnlyBough s t ∧
         RegistersOnly { s.b with nestmax := f.imm.toNat } t.b ∧ t.b.preds = s.b.preds ∧
         t.b.vregs = s.b.vregs ∧ WritesScalar s.b t.b f.sd.toNat (BitVec.ofNat 64 s.b.nestmax)) ∧
     (Issues (.tyield h f) s →
       let inTask := (s.launchOf s.b).any fun la => la.desc.task
       (inTask = false → exec (.tyield h f) s = Host.Outcome.next (s.takeTrap cIllegal 0 0)) ∧
       (inTask = true → (∀ l : Nat, g.getLsbD l = true → s.b.task l ≠ 0 → s.stepFault [(rec_ l, true)] = none) →
         let u := (g.list.foldl yieldStep (s.issued (.tyield h f))).checkEmpty
         u.b.stack.length ≤ 1024 → (∀ e ∈ u.b.stack, s.lineNear s.b e.addr = true) →
         exec (.tyield h f) s = Host.Outcome.next (finish_ (.tyield h f) s.b.path u))) ∧
     ∀ (l pa : Nat) (la : Launch), s.b.task l ≠ 0 → s.b.refill = none →
       s.xlateRec s.b.core s.b.part (rec_ l) true = .ok pa →
       s.taskLaunch s.b.part (s.vword s.b (rec_ l) 8) = some la → s.launch s.b.part la.id = some la →
       let v := yieldStep s l
       Holds v (pa + 36) 1 2 ∧ Holds v (pa + 37) 1 1 ∧ Holds v (pa + 56) 8 0 ∧
       (∀ a : Nat, a < pa + 36 ∨ pa + 64 ≤ a → Sparse.get v.mem a = Sparse.get s.mem a) ∧
       (v.taskLaunch s.b.part (s.vword s.b (rec_ l) 8)).map (fun x => x.entryq) =
         some (la.entryq.filter (fun x => x != BitVec.ofNat 64 (rec_ l)) ++ [BitVec.ofNat 64 (rec_ l)]) ∧
       v.b.task l = 0 ∧ v.b.depth l = 0 ∧ v.b.emr = s.b.emr &&& ~~~(1#32 <<< l) ∧
       v.b.vregs = s.b.vregs ∧ v.b.sregs = s.b.sregs ∧ v.b.preds = s.b.preds) ∧
  ((∀ (s : State) (l va pa : Nat), l < 32 → s.xlateRec s.b.core s.b.part va true = .ok pa →
     let r := s.taskRec pa
     let t := (s.startTask l va).2
     r.resume = false →
     (s.startTask l va).1 = none ∧ Holds t (pa + 36) 1 3 ∧
     Holds t (pa + 40) 4 (2 ^ 31 + 2 ^ 20 * s.b.core + 2 ^ 14 * s.b.slot + l) ∧
     (∀ a : Nat, a < pa + 36 ∨ pa + 44 ≤ a → Sparse.get t.mem a = Sparse.get s.mem a) ∧
     Sparse.get t.b.taskOf l = BitVec.ofNat 64 (va / 64) ∧ t.b.sregs = s.b.sregs ∧ t.b.preds = s.b.preds ∧
     (∀ i : Nat, i < 16 → t.b.vreg i l = BitVec.ofNat 32 (t.vword t.b (r.arg + 4 * i) 4)) ∧
     ∀ q m : Nat, m < 32 → (m ≠ l ∨ 16 ≤ q) → t.b.banked q m = s.b.banked q m) ∧
   (∀ (s : State) (k : Nat) (w : Watch),
     (s.watches.find? fun w => w.id == k && w.ready) = some w →
     (w.task = 0 → ∃ t : State, exec (.futureWake k) s = Host.Outcome.next t ∧
       t = { s with b := t.b, boughs := t.boughs, watches := s.watches.filter fun x => x.id != k } ∧
       ∀ b : Bough, s.bough w.uid = some b →
         t.bough w.uid = some { b with wait := if b.wait = .future then .none else b.wait }) ∧
     ∀ (pa : Nat) (la : Launch), w.task ≠ 0 → s.xlateRec w.core w.part w.task.toNat true = .ok pa →
       (s.taskRec pa).st = 4 → s.taskLaunch w.part (s.taskRec pa).entry = some la →
       s.launch w.part la.id = some la →
       ∃ t : State, exec (.futureWake k) s = Host.Outcome.next t ∧ t.b = s.b ∧ t.boughs = s.boughs ∧
         Holds t (pa + 36) 1 2 ∧ Holds t (pa + 56) 8 0 ∧
         (∀ a : Nat, a ≠ pa + 36 → a < pa + 56 ∨ pa + 64 ≤ a → Sparse.get t.mem a = Sparse.get s.mem a) ∧
         (t.taskLaunch w.part (s.taskRec pa).entry).map (fun x => x.entryq) =
           some (w.task :: la.entryq.filter fun x => x != w.task)) ∧
   ∀ (s : State) (n : Nat) (p : Place) (l : Launch), s.launch (n / 2 ^ 32) (n % 2 ^ 32) = some l →
     l.desc.task = true → s.mayAdmit l p = true →
     let lanes_ := Mask.ofPred fun k => k < (l.entryq.take 32).length
     let t := (s.seat l l.started.length p lanes_).modLaunch l.part l.id fun l =>
       { l with entryq := l.entryq.drop 32 }
     exec (.taskStart n p) s = Host.Outcome.next ((t.focus s.nuid).startLanes (l.entryq.take 32)) ∧
     (l.desc.copse = 1 → p.regBases.length = 1 → s.b.uid ≠ s.nuid → (∀ b ∈ s.boughs, b.uid ≠ s.nuid) →
       s.launch l.part l.id = some l → 
       (t.focus s.nuid).b.emr = lanes_ ∧ (t.focus s.nuid).b.pc = l.desc.entry ∧
       (t.focus s.nuid).b.status = .running ∧
       (t.launch l.part l.id).map (fun x => x.entryq) = some (l.entryq.drop 32)))

/-! ## Class 6: queues, launches and sibling groups -/

/-- R56, R93, R332, R345, R346: ENQ and DEQ. An unbound queue is an illegal register. ENQ waits as a release
at core scope does, and DEQ, which is no release, does not; a blocking form waits for room for all its lanes, or
for an element for each, and behind an older one; .nb takes as many of the lowest lanes as fit, and says in PD
which. Each lane in turn writes one element at the tail, or takes the one at the head.
R345: QCREATE binds a queue to a run of the copse's FIF banks, and .free unbinds it; a refusal changes
nothing and writes false, or is an illegal register where PD names no predicate. -/
def Obligations.Queues : Prop :=
  (∀ (nb : Bool) (h : Hdr) (f : FmtY) (s : State),
     let q := f.imm.toNat
     let x := s.hqueue q
     let vd := f.vd.toNat
     let g := s.b.guard h
     let goes (i : Instr) (rel : Bool) (w room : Nat) (eff : State → List Nat → State) (ends : State → State) :
         Prop := Issues i s →
       (x.bound = false → exec i s = Host.Outcome.next (s.takeTrap cRegister (0x200 + q) 0)) ∧
       (x.bound = true → x.size ≠ 0 →
         (vd % 2 ≠ 0 → exec i s = Host.Outcome.next (s.takeTrap cIllegal 0 0)) ∧
         (vd % 2 = 0 → s.b.nregs < vd + 2 →
           exec i s = Host.Outcome.next (s.takeTrap cRegister (max vd s.b.nregs) 0))) ∧
       (x.bound = true → s.pairCheck x vd = none →
         (rel = true → s.releaseReady s.b true = false → exec i s = Host.Outcome.next (s.hold .fence)) ∧
         (rel = false ∨ s.releaseReady s.b true = true →
           (nb = false → s.olderWaits w = true ∨ room < g.list.length →
             exec i s = Host.Outcome.next (s.hold (.queue w))) ∧
           (nb = false → s.olderWaits w = false → g.list.length ≤ room →
             exec i s = Host.Outcome.next (ends ((eff (s.issued i) g.list).writePd h f.pd fun _ => true))) ∧
           (nb = true →
             let ls := if s.olderWaits w then [] else g.list.take room
             exec i s = Host.Outcome.next (ends ((eff (s.issued i) ls).modB fun b =>
               b.setPd f.pd g (Mask.ofPred fun l => ls.contains l))))))
     goes (.enq nb h f) true q (x.cap - x.count) (fun t ls => t.enqLanes q vd ls) (finish_ (.enq nb h f) s.b.path) ∧
     goes (.deq nb h f) false (16 + q) x.count
       (fun t ls => (t.modB fun b => b.closeLanes s.b.path).deqLanes h.tr q vd ls) State.flagOut ∧
     ∀ (c : Copse) (l : Nat), l < 32 → s.copseOf s.b = some c → x.banks ≠ 0 →
       let k := s.b.core
       let place (i : Nat) : Nat := s.fifBase s.b + 0x4000 * x.first + x.elem * ((x.head + i) % x.cap)
       let ours (a : Nat) : Prop := a + x.elem ≤ 0xC0000 ∧ a % x.elem = 0 ∧
         (s.core k).role (a / 0x4000) = .fif ∧ (s.core k).owner (a / 0x4000) = some s.b.own
       (ours (place x.count) →
         let t := s.enqLanes q vd [l]
         t.hqueue q = { x with count := x.count + 1 } ∧ MemorySame s t ∧ t.b = s.b ∧
         t.localRdN k s.b.part s.b.launch s.b.cid (place x.count) x.elem =
           (if x.size = 0 then (s.b.vreg vd l).toNat else (s.b.vreg64 vd l).toNat) ∧
         ∀ a : Nat, a < place x.count ∨ place x.count + x.elem ≤ a →
           Sparse.get (t.core k).store a = Sparse.get (s.core k).store a) ∧
       (ours (place 0) →
         let t := s.deqLanes h.tr q vd [l]
         t.hqueue q = { x with head := (x.head + 1) % x.cap, count := x.count - 1 } ∧ MemorySame s t ∧
         t.cores = s.cores ∧ t.b.sregs = s.b.sregs ∧ t.b.preds = s.b.preds ∧
         WritesLanes s.b t.b h.tr vd (x.elem / 4) (1#32 <<< l) fun _ =>
           s.localRdN k s.b.part s.b.launch s.b.cid (place 0) x.elem)) ∧
  (∀ (h : Hdr) (f : FmtY) (s : State) (c : Copse), s.copseOf s.b = some c →
     let q := f.imm.toNat % 16
     let first := f.imm.toNat / 2 ^ 4 % 16
     let n := f.imm.toNat / 2 ^ 8 % 32
     let k := s.core s.b.core
     let refused : Prop := c.fifn < first + n ∨ (c.queue q).bound = true ∨
       (∃ i : Nat, i < n ∧ (k.role (c.fif + first + i) ≠ .fif ∨ k.owner (c.fif + first + i) ≠ some s.b.own)) ∨
       ∃ e ∈ c.queues, e.2.bound = true ∧ e.2.first < first + n ∧ first < e.2.first + e.2.banks
     let inUse : Prop := (c.queue q).bound = false ∨
       ∃ x ∈ s.boughsOf s.b.part s.b.launch s.b.cid, x.wait = .queue q ∨ x.wait = .queue (16 + q)
     let refuses (i : Instr) : Prop :=
       (f.pd = none → exec i s = Host.Outcome.next (s.takeTrap cRegister (0x200 + q) 0)) ∧
       (f.pd ≠ none → ∃ t : State, exec i s = Host.Outcome.next t ∧ RegisterFrame s t ∧ t.b.vregs = s.b.vregs ∧
         t.b.sregs = s.b.sregs ∧ WritesPred s.b t.b f.pd (s.b.guard h) fun _ => false)
     let binds (i : Instr) (x : HQueue) : Prop :=
       ∃ t : State, exec i s = Host.Outcome.next t ∧ GroupFrame s t ∧ t.launches = s.launches ∧
         t.b.sregs = s.b.sregs ∧ (WritesPred s.b t.b f.pd (s.b.guard h) fun _ => true) ∧
         (t.copseOf t.b).map (fun c => c.queue q) = some x ∧
         ∀ y : Nat, y ≠ q → (t.copseOf t.b).map (fun c => c.queue y) = some (c.queue y)
     (Issues (.qcreate h f) s → (refused → refuses (.qcreate h f)) ∧
       (¬ refused → binds (.qcreate h f)
         { bound := true, first, banks := n, size := f.imm.toNat / 2 ^ 13 % 4, head := 0, count := 0 })) ∧
     (Issues (.qcreateFree h f) s → (inUse → refuses (.qcreateFree h f)) ∧
       (¬ inUse → binds (.qcreateFree h f) { c.queue q with bound := false })))

/-- R347: QSTAT.q writes the count of a queue into bits 31:0 of SD and its capacity into bits 63:32, and 0 for an
unbound queue. QSTAT.entry writes the number of ready tasks in the entry queue of the TASK launch that issues it,
and 0 outside one. -/
def Obligations.QueueStatus : Prop :=
  ∀ (h : Hdr) (f : FmtY) (s : State) (l : Launch), s.launchOf s.b = some l →
    (∀ c : Copse, s.copseOf s.b = some c → f.sub = 0 →
      let x := c.queue f.imm.toNat
      CompletesSd (.qstat h f) s f.sd (BitVec.ofNat 64
        (if x.bound then x.count + 2 ^ 32 * (x.banks * 16384 / x.elem) else 0))) ∧
    (f.sub = 1 → CompletesSd (.qstat h f) s f.sd (BitVec.ofNat 64
      (if l.desc.task then l.entryq.length else 0)))

/-- R332, R348, R349: LAUNCH and LAUNCH.agg wait as a release at package scope does and act in one step for each
executing lane. A record or a descriptor that fails a check, a misaligned record among them, fills the child's
future with status 2. Else, while the partition holds fewer than 4,096 children that have not started, LAUNCH
accepts the child and LAUNCH.agg puts it into the window of its key, with PD true; beyond that PD is false, or
the lane waits where there is none. (PD true of an accepted child, status 2 in every future of a grid that fails
at its close, and how the children of a grid count as not started, are the model's choices, log 32.)
R350: an aggregation window closes 2,500 cycles after it opened, or when it holds 4,096 children: it becomes
one launch of all their copses in their order; where no core could hold a copse of it, every future is filled
with status 2. -/
def Obligations.DeviceLaunches : Prop :=
  ((∀ (agg : Bool) (h : Hdr) (f : FmtY) (s : State),
     let i : Instr := if agg then .launchAgg h f else .launch h f
     let need := s.b.guard h
     let m := need &&& ~~~s.b.stepdone
     let va (l : Nat) : Nat := (s.issued i).laneVa f l
     let addrs (l : Nat) : List (Nat × Bool) :=
       if va l % 64 ≠ 0 then [(va l + 8, false), (va l + 15, false)] else [(va l, false)]
     let x := m.list.foldl (launchStep agg f va) { s, done := s.b.stepdone, run := 0, back := [] }
     Issues i s →
       (s.releaseReady s.b false = false → exec i s = Host.Outcome.next (s.hold .fence)) ∧
       (s.releaseReady s.b false = true →
         (∀ l : Nat, m.getLsbD l = true → s.stepFault (addrs l) = none) →
         (need &&& ~~~x.done = 0 → exec i s = Host.Outcome.next (finish_ i s.b.path (begin_ i true x.s))) ∧
         (need &&& ~~~x.done ≠ 0 →
           exec i s = Host.Outcome.next ((x.s.modB fun b => { b with stepdone := x.done }).hold .launch)))) ∧
   ∀ (agg : Bool) (f : FmtY) (names : Nat → Nat) (x : Steps) (l : Nat),
     let s := x.s
     let part := s.b.part
     let va := names l
     let r := launchRec (s.vword s.b va 64)
     let fut := if va % 64 = 0 then r.fut else BitVec.ofNat 64 (s.vspan s.b (va + 8) 8)
     let desc := s.ss f.s1
     let child := s.childDesc part desc.toNat (if agg then 0 else r.ncopses)
     let done := x.done ||| (1#32 <<< l)
     let y := launchStep agg f names x l
     (va % 64 ≠ 0 ∨ child = none ∨ r.ok = false → y.done = done ∧ y.s.launches.length = s.launches.length ∧
         y.s.wins = s.wins ∧ (fut = 0 → MemorySame s y.s) ∧
         ∀ fa : Nat, fut ≠ 0 → s.xlateRec 0 part fut.toNat true = .ok fa →
           MemoryOutside s y.s fa 16 ∧
           (futState (s.rd fa 16) = 0 →
             Holds y.s fa 16 (2 ^ 32 * 2 + 2 ^ 64 + 2 ^ 72 * futOwner (s.rd fa 16)))) ∧
       ∀ d : Desc, va % 64 = 0 → child = some d → r.ok = true →
         (s.unstarted part < 4096 → y.done = done ∧ MemorySame s y.s ∧
           (WritesPred s.b y.s.b f.pd (1#32 <<< l) fun _ => true) ∧
           (agg = false → y.s.wins = s.wins ∧ ∃ c : Launch, y.s.launches = s.launches ++ [c] ∧
             c.part = part ∧ c.desc = d ∧ c.param = r.param ∧ c.ncopses = r.ncopses ∧
             c.origin = .device r.fut ∧ c.started = [] ∧ c.killed = false) ∧
           (agg = true → y.s.launches = s.launches ∧
             (s.openWin part desc = none → ∃ w : Win, y.s.wins = s.wins ++ [w] ∧ w.part = part ∧
               w.desc = desc ∧ w.kernel = d ∧ w.opened = s.time ∧ w.children = [(r.param, r.ncopses, r.fut)]) ∧
             ∀ w : Win, s.openWin part desc = some w →
               { w with children := w.children ++ [(r.param, r.ncopses, r.fut)] } ∈ y.s.wins)) ∧
         (4096 ≤ s.unstarted part →
           (f.pd = none → y = x) ∧
           (f.pd ≠ none → y.done = done ∧ MemorySame s y.s ∧ y.s.launches = s.launches ∧ y.s.wins = s.wins ∧
             WritesPred s.b y.s.b f.pd (1#32 <<< l) fun _ => false))) ∧
  (∀ (s : State) (k : Nat),
     ((∀ w ∈ s.wins, w.id = k → s.time < w.opened + 2500 ∧ w.children.length < 4096) →
       exec (.aggregationWindowClose k) s = Host.Outcome.next s) ∧
     ∀ w : Win, (s.wins.find? fun w => w.id == k && w.due s.time) = some w →
       let n := (w.children.map fun c => c.2.1).foldl (· + ·) 0
       (s.time < w.opened + 2500 → 4096 ≤ w.children.length) ∧
       (w.kernel.fits n = true → ∃ (t : State) (l : Launch),
         exec (.aggregationWindowClose k) s = Host.Outcome.next t ∧
         t = { s with wins := t.wins, launches := s.launches ++ [l], nuid := t.nuid } ∧
         t.wins = s.wins.filter (fun x => x.id != k) ∧ l.part = w.part ∧ l.desc = w.kernel ∧
         l.ncopses = n ∧ l.origin = .grid w.children ∧ l.started = []) ∧
       (w.kernel.fits n = false → ∃ t : State, exec (.aggregationWindowClose k) s = Host.Outcome.next t ∧
         t.launches.length = s.launches.length ∧ t.b = s.b ∧
         ∀ (c : W64 × Nat × W64) (fa : Nat), w.children = [c] → c.2.2 ≠ 0 →
           s.xlateRec 0 w.part c.2.2.toNat true = .ok fa → futState (s.rd fa 16) = 0 →
           Holds t fa 16 (2 ^ 32 * 2 + 2 ^ 64 + 2 ^ 72 * futOwner (s.rd fa 16))))

/-- R351, R352: SIBJOIN and SIBLEAVE. A refused join changes nothing and writes false, or is an illegal
register where PD names no predicate; a join as a member sets its bit, its ballot slot to none and the
threshold where the group has none, and SD takes the generation. SIBLEAVE waits as a release at package scope
does; from the bough's own group it gives HASH and DECIDED and the bough is in no group; from any other it
gives 0 and false and changes nothing. (That the handle is the low 32 bits of the register, so that 2^32 names
handle 0, is the model's choice, log 36.) -/
def Obligations.SiblingMembers : Prop :=
  ∀ (h : Hdr) (f : FmtY) (s : State),
    let handle := (s.b.sreg f.s1.toNat).toNat % 2 ^ 32
    let k := (s.b.sreg f.s2.toNat).toNat
    let va := (s.b.sreg f.s3.toNat).toNat
    let m := f.imm.toNat % 64
    let obs := f.imm.getLsbD 6
    let part := s.b.part
    let writes (t : State) (v : W64) (ok : Bool) : Prop :=
      WritesScalar s.b t.b f.sd.toNat v ∧ (WritesPred s.b t.b f.pd (s.b.guard h) fun _ => ok) ∧
        t.b.vregs = s.b.vregs
    (Issues (.sibjoin h f) s →
      let named : Prop := va = 0 ∨ ∃ e : SeqEnt, s.seqRead s.b.core part va = .ok e ∧ e.grp = handle ∧ e.member = m
      let refused : Prop := handle = 0 ∨ s.b.sib.isSome = true ∨
        (obs = false ∧ (k < 1 ∨ 64 < k ∨ (∃ e : SeqEnt, va ≠ 0 ∧ s.seqRead s.b.core part va = .ok e ∧
            (e.grp ≠ handle ∨ e.member ≠ m)) ∨
          ∃ g : Group, s.group part handle = some g ∧
            (g.has gMembers m = true ∨ g.decided = true ∨ (g.k ≠ 0 ∧ g.k ≠ k))))
      (refused → obs = true ∨ va = 0 ∨ (∃ e : SeqEnt, s.seqRead s.b.core part va = .ok e) →
        (f.pd = none → exec (.sibjoin h f) s =
          Host.Outcome.next (s.takeTrap cRegister (0x300 + if obs then 0xFF else m) 0)) ∧
        (f.pd ≠ none → ∃ t : State, exec (.sibjoin h f) s = Host.Outcome.next t ∧ RegisterFrame s t ∧
          t.b.vregs = s.b.vregs ∧ t.b.sregs = s.b.sregs ∧
          WritesPred s.b t.b f.pd (s.b.guard h) fun _ => false)) ∧
      (¬ refused → obs = true ∨ named →
        ∃ (t : State) (g : Group), exec (.sibjoin h f) s = Host.Outcome.next t ∧
          t = { s with b := t.b, groups := t.groups, gens := t.gens, infl := t.infl, nuid := t.nuid } ∧
          t.group part handle = some g ∧ writes t (BitVec.ofNat 64 g.gen.toNat) true ∧
          t.b.sib = some { handle, member := if obs then none else some m, gen := g.gen, since := s.time,
                           cancelled := false, seqVa := if obs then 0 else va } ∧
          (obs = false → g.has gMembers m = true ∧ g.k = k ∧ g.word (gMember m) = 0xFF * 2 ^ 32 ∧
            (m, s.b.uid) ∈ g.joined) ∧
          (obs = true → s.b.uid ∈ g.obs ∧ g.bits gStatus 40 8 = g.obs.length % 2 ^ 8) ∧
          (∀ x : Group, s.group part handle = some x → g.gen = x.gen))) ∧
    (Issues (.sibleave h f) s →
      let mine := s.b.sib.any fun x => x.handle == handle
      let u := (s.issued (.sibleave h f)).leaveGroup s.b (some s.time)
      (s.releaseReady s.b false = false → exec (.sibleave h f) s = Host.Outcome.next (s.hold .fence)) ∧
      (s.releaseReady s.b false = true → mine = false → ∃ t : State,
        exec (.sibleave h f) s = Host.Outcome.next t ∧ RegisterFrame s t ∧ writes t 0 false) ∧
      (s.releaseReady s.b false = true → mine = true → s.b.uid ≠ 0 → ∀ g : Group, u.1 = some g →
        ∃ t : State, exec (.sibleave h f) s = Host.Outcome.next t ∧ t.b.sib = none ∧
          writes t (BitVec.ofNat 64 (g.word gHash)) g.decided ∧ t.groups = u.2.groups ∧ t.mem = u.2.mem ∧
          t.parts = u.2.parts))

/-- R332, R352, R353, R354: BALLOT waits as a release at package scope does and acts once: one that is no
member's, or a second one, is DROPPED; else its hash takes the slot that holds it, the lowest free one or
SPILL, and its count rises; when the count of an undecided group reaches K the hash is decided, and every
joined member that has neither balloted nor left is marked cancelled. SIBINFO reads a word of the record, and
CANCHK whether the bough is marked. A cancellation marks the member that it names.
R351, R353, R354: a bough that leaves its group: its LEFT bit is set, the group finishes where it can and
dissolves when nobody is left; of a marked member, the tokens and the cycles since it joined are added to
words 16 and 17. A group that has members and finishes undecided takes the slot with the highest count, of
equal counts the one whose last increment came first; with no ballot in a slot it takes hash 0. (That the handle
is the low 32 bits of the register is the model's choice, log 36.) -/
def Obligations.SiblingBallots : Prop :=
  ((∀ (h : Hdr) (f : FmtY) (s : State),
     let handle := (s.b.sreg f.s1.toNat).toNat % 2 ^ 32
     let m := (s.b.sib.filter fun x => x.handle == handle).bind fun x => x.member
     (Issues (.ballot h f) s →
       (s.releaseReady s.b false = false → exec (.ballot h f) s = Host.Outcome.next (s.hold .fence)) ∧
       (s.releaseReady s.b false = true → ∃ t : State, exec (.ballot h f) s = Host.Outcome.next t ∧
         t = { s with b := t.b, groups := t.groups, cancels := t.cancels, infl := t.infl, nuid := t.nuid } ∧
         QuietFrame { s with groups := t.groups, cancels := t.cancels } t ∧
         t.groups = ((s.issued (.ballot h f)).ballotStep s.b.part handle m (s.b.sreg f.s2.toNat).toNat).groups)) ∧
     CompletesSd (.sibinfo h f) s f.sd (BitVec.ofNat 64
       (((s.group s.b.part handle).map fun g => g.word f.imm.toNat).getD 0)) ∧
     (f.sub = 1 → CompletesSd (.canchk h f) s f.sd (if s.b.sib.any fun x => x.cancelled then 1 else 0)) ∧
     (f.sub = 0 → Issues (.canchk h f) s →
       ∃ t : State, exec (.canchk h f) s = Host.Outcome.next t ∧ QuietFrame s t)) ∧
   (∀ (s : State) (part handle hash : Nat) (m : Option Nat),
     (s.group part handle = none → s.ballotStep part handle m hash = s) ∧
     ∀ g : Group, s.group part handle = some g → m = none →
       let t := s.ballotStep part handle m hash
       t.cancels = s.cancels ∧ ∃ x : Group, t.group part handle = some x ∧ x.word gHash = g.word gHash ∧
         x.word gCounts = g.word gCounts ∧ x.word gBalloted = g.word gBalloted ∧
         x.bits gSpill 0 32 = g.bits gSpill 0 32 ∧ x.bits gSpill 32 32 = (g.bits gSpill 32 32 + 1) % 2 ^ 32) ∧
   (∀ (s : State) (part handle m : Nat) (hash : W64) (g : Group), s.group part handle = some g → m < 64 →
     let t := s.ballotStep part handle (some m) hash.toNat
     let n (i : Nat) : Nat := g.bits gCounts (8 * i) 8
     (g.has gBalloted m = true → ∃ x : Group, t.group part handle = some x ∧
       x.bits gSpill 32 32 = (g.bits gSpill 32 32 + 1) % 2 ^ 32 ∧ x.word gHash = g.word gHash) ∧
     (g.has gBalloted m = false →
       (g.slotFor hash.toNat = none → ∃ x : Group, t.group part handle = some x ∧ x.has gBalloted m = true ∧
         x.bits gSpill 0 32 = (g.bits gSpill 0 32 + 1) % 2 ^ 32 ∧ x.bits (gMember m) 32 8 = 8) ∧
       ∀ i : Nat, g.slotFor hash.toNat = some i → n i < 255 → ∃ x : Group, t.group part handle = some x ∧
         x.has gBalloted m = true ∧ x.word (gSlot i) = hash.toNat ∧ x.bits gCounts (8 * i) 8 = n i + 1 ∧
         x.bits (gMember m) 32 8 = i ∧
         (g.decided = true → x.word gHash = g.word gHash ∧ t.cancels = s.cancels) ∧
         (g.decided = false → n i + 1 ≠ g.k → t.cancels = s.cancels) ∧
         (g.decided = false → n i + 1 = g.k → x.decided = true ∧ x.bits gStatus 8 2 = 1 ∧
           x.word gHash = hash.toNat ∧
           ∀ j : Nat, j < 64 → g.has gMembers j = true → g.has gLeft j = false → g.has gBalloted j = false → j ≠ m →
             x.has gCancelled j = true ∧
             ∀ e : Nat × Nat, (g.joined.find? fun e => e.1 == j) = some e →
               ∃ c ∈ t.cancels, c.uid = e.2 ∧ c.handle = g.handle ∧ c.gen = g.gen))) ∧
   ∀ (s : State) (k : Nat) (c : Cancel) (b : Bough), (s.cancels.find? fun c => c.id == k) = some c →
     s.bough c.uid = some b → (∀ id : Nat, b.wait ≠ .barrier id) →
     ∃ t : State, exec (.cancellationDelivery k) s = Host.Outcome.next t ∧
       t = { s with b := t.b, boughs := t.boughs, cancels := s.cancels.filter fun x => x.id != k } ∧
       t.bough c.uid = some { b with sib := b.sib.map fun x =>
         if x.handle = c.handle && x.gen = c.gen && x.member.isSome then { x with cancelled := true } else x } ∧
       ∀ u : Nat, u ≠ c.uid → t.bough u = s.bough u) ∧
  ((∀ (s : State) (sib : Sib) (m : Nat) (g : Group) (stop : Option Nat), s.b.sib = some sib →
     sib.member = some m → m < 64 → s.group s.b.part sib.handle = some g →
     g.has gCancelled m = false ∨ stop = none ∨ sib.seqVa = 0 →
     let out := s.leaveGroup s.b stop
     ∃ x : Group, out.1 = some x ∧ x.has gLeft m = true ∧
       x.joined = g.joined.filter (fun e => e.2 != s.b.uid) ∧ x.word gMembers = g.word gMembers ∧
       (x.joined = [] → x.obs = [] → out.2.group s.b.part sib.handle = none) ∧
       (x.joined ≠ [] → out.2.group s.b.part sib.handle = some x) ∧
       ∀ t : Nat, stop = some t → g.has gCancelled m = true →
         x.word gCTokens = (g.word gCTokens + g.bits (gMember m) 0 32) % 2 ^ 64 ∧
         x.word gCCycles = (g.word gCCycles + (t - sib.since)) % 2 ^ 64) ∧
   ∀ g : Group,
     ((∃ m : Nat, m < 64 ∧ g.has gMembers m = true ∧ g.has gBalloted m = false ∧ g.has gLeft m = false) ∨
         g.decided = true → g.finish = g) ∧
     (g.decided = false → g.word gMembers ≠ 0 →
       (∀ m : Nat, m < 64 → g.has gMembers m = true → g.has gBalloted m = true ∨ g.has gLeft m = true) →
       g.finish.decided = true ∧
       (g.lastInc = [] → g.finish.word gHash = 0 ∧ g.finish.bits gStatus 8 2 = 3) ∧
       ∀ (before after : List Nat) (i : Nat), g.lastInc = before ++ i :: after →
         (∀ j ∈ before, g.bits gCounts (8 * j) 8 < g.bits gCounts (8 * i) 8) →
         (∀ j ∈ after, g.bits gCounts (8 * j) 8 ≤ g.bits gCounts (8 * i) 8) →
         g.finish.word gHash = g.word (gSlot i) ∧ g.finish.bits gStatus 8 2 = 2))

/-! ## Class 7: the system -/

/-- R31, R363, R365: TIMEGET gives TIME. SRGET gives a system register, whichever the mode where the register
allows it; SRSET writes one, and a value that it does not accept is an illegal instruction. SLEEP waits to its
end and then goes on.
R364, R376: TLBINV takes a range of whole pages, else it is an illegal instruction; it waits as a release
at package scope does and until the partition has no walk and no access in flight; and then no TLB holds a
translation of its partition that meets the range, and every other one is kept. (That it waits until nothing of
the partition is in flight at all, where R376 asks only for what used a removed entry, and removes the entries
only then, is the model's choice, log 25; that SRSET.sys writes UTAG is log 57.) -/
def Obligations.SystemRegisters : Prop :=
  (∀ (h : Hdr) (f : FmtY) (s : State),
     let b := s.b
     let p := s.part b.part
     let v := b.sreg f.s1.toNat
     let code := f.imm.toNat
     CompletesSd (.timeget h f) s f.sd (BitVec.ofNat 64 s.time) ∧
     (∀ sys : Bool, ∀ r ∈ ([(0x000, BitVec.ofNat 64 (b.core % 2 ^ 11 + 2 ^ 11 * (b.slot / 12 % 4) +
             2 ^ 13 * (b.slot % 2 ^ 6))), (0x001, BitVec.ofNat 64 b.part),
           (0x002, BitVec.ofNat 64 b.regbase), (0x003, BitVec.ofNat 64 (s.scrBase b)),
           (0x004, BitVec.ofNat 64 (s.fifBase b)), (0x005, b.utag), (0x010, p.atomplace), (0x011, p.leaseLen),
           (0x012, p.lwt), (0x013, p.trapvec), (0x014, p.dbgctl), (0x015, p.ptroot),
           (0x016, ((s.copseOf b).map fun c => c.ctxbase).getD 0), (0x020, b.epc),
           (0x021, BitVec.zeroExtend 64 b.emask), (0x022, b.ecause), (0x023, b.eaddr), (0x024, b.esavea),
           (0x025, b.esaveb)] : List (Nat × W64)),
       code = r.1 → CompletesSd (.srget sys h f) s f.sd r.2) ∧
     (∀ (sys : Bool) (i : Instr), i = .srset sys h f → Issues i s →
       let accepted : Prop := (code = 0x010 → v.toNat ≤ 1) ∧ (code = 0x014 → v.toNat ≤ 1) ∧
         (code = 0x011 → 64 ≤ v.toNat ∧ v.toNat ≤ 8192) ∧
         (code = 0x012 → 1250 ≤ v.toNat ∧ v.toNat ≤ 2 ^ 40 - 1)
       (¬ accepted → exec i s = Host.Outcome.next (s.takeTrap cIllegal 0 0)) ∧
       (accepted → ∃ t : State, exec i s = Host.Outcome.next t ∧
         t = { s with b := t.b, parts := t.parts, infl := t.infl, nuid := t.nuid } ∧
         RegistersOnly { b with utag := if code = 0x005 then v else b.utag,
                                epc := if code = 0x020 then v else b.epc,
                                emask := if code = 0x021 then BitVec.truncate 32 v else b.emask,
                                esavea := if code = 0x024 then v else b.esavea,
                                esaveb := if code = 0x025 then v else b.esaveb } t.b ∧
         t.b.vregs = b.vregs ∧ t.b.sregs = b.sregs ∧ t.b.preds = b.preds ∧
         t.part b.part = { p with atomplace := if code = 0x010 then v else p.atomplace,
                                  leaseLen := if code = 0x011 then v else p.leaseLen,
                                  lwt := if code = 0x012 then v else p.lwt,
                                  trapvec := if code = 0x013 then v else p.trapvec,
                                  dbgctl := if code = 0x014 then v else p.dbgctl } ∧
         ∀ q : Nat, q ≠ b.part → t.part q = s.part q)) ∧
     (∀ stop : Nat, Issues (.sleep h f) s →
       (b.wait = .sleep stop ∨ ((∀ t : Nat, b.wait ≠ .sleep t) ∧
         stop = if f.sub = 1 then v.toNat else s.time + f.imm.toNat)) →
       (s.time < stop → exec (.sleep h f) s = Host.Outcome.next (s.hold (.sleep stop))) ∧
       (stop ≤ s.time → ∃ t : State, exec (.sleep h f) s = Host.Outcome.next t ∧ QuietFrame s t))) ∧
  (∀ (h : Hdr) (f : FmtY) (s : State), Issues (.tlbinv h f) s →
     let part := s.b.part
     let lo := (s.b.sreg f.s1.toNat).toNat
     let n := (s.b.sreg f.s2.toNat).toNat
     let all := f.sub ≠ 0
     let hit (e : TlbEnt) : Prop :=
       e.part = part ∧ (all ∨ (e.va < lo + n ∧ lo < e.va + 2 ^ pageShift e.size))
     let whole := all ∨ (lo % 2 ^ 16 = 0 ∧ n % 2 ^ 16 = 0)
     (¬ whole → exec (.tlbinv h f) s = Host.Outcome.next (s.takeTrap cIllegal 0 0)) ∧
     (whole → s.releaseReady s.b false = false ∨ s.partQuiet part = false →
       exec (.tlbinv h f) s = Host.Outcome.next (s.hold .fence)) ∧
     (whole → s.releaseReady s.b false = true → s.partQuiet part = true →
       ∃ t : State, exec (.tlbinv h f) s = Host.Outcome.next t ∧
         t = { s with b := t.b, boughs := t.boughs, cores := t.cores, dtlb := t.dtlb, infl := t.infl,
                      nuid := t.nuid } ∧
         RegistersOnly s.b t.b ∧ t.b.vregs = s.b.vregs ∧ t.b.sregs = s.b.sregs ∧ t.b.preds = s.b.preds ∧
         (∀ e : Nat × TlbEnt, e ∈ t.dtlb ↔ e ∈ s.dtlb ∧ ¬ hit e.2) ∧
         ∀ k : Nat, t.core k = { s.core k with tlb := (t.core k).tlb } ∧
           ∀ e : TlbEnt, e ∈ (t.core k).tlb ↔ e ∈ (s.core k).tlb ∧ ¬ hit e))

/-- R356, R357, R361, R362, R365: TRAP enters the handler of its partition: EPC takes the next address, EMASK
the mask, ECAUSE the class, the cause and the code, and the bough is at TRAPVEC in system mode; where there is
no handler, or in system mode, the bough stops with a record until the host replies. BKPT does so where DBGCTL
enables it, and else nothing. HALT ends the launch with status 3 and its code. ERET goes back to EPC with
EMASK's settable lanes, out of system mode. -/
def Obligations.TrapsAndReturn : Prop :=
  ∀ (h : Hdr) (f : FmtY) (s : State),
    let p := s.part s.b.part
    let code := f.imm.toNat
    let parks (i : Instr) (cls cause : Nat) : Prop :=
      (s.ringBusy s.b.part = true → exec i s = Host.Outcome.next
        ((s.modB fun b => { b with trapAt := if b.trapAt = 0 then s.time else b.trapAt }).hold .fault)) ∧
      (s.ringBusy s.b.part = false → p.fqbase ≠ 0 → ∃ t : State, exec i s = Host.Outcome.next t ∧
        t.b.wait = .reply (seqOf p.recs) ∧ t.b.emr = s.b.emr ∧ t.b.vregs = s.b.vregs ∧
        t.b.sregs = s.b.sregs ∧ t.b.preds = s.b.preds ∧ (t.part s.b.part).recs = p.recs + 1 ∧
        { seq := seqOf p.recs, launch := s.b.launch, uid := s.b.uid, eng := 0 } ∈ (t.part s.b.part).pending ∧
        ∀ j : Nat, j < 64 →
          Sparse.get t.mem (p.fqbase.toNat + 64 * (p.recs % 2 ^ p.fqsize.toNat) + j) =
            BitVec.ofNat 8 (faultRecord s.b (seqOf p.recs) (s.info cls cause code 0 s.b.pc s.b.emr) /
              256 ^ j))
    (Issues (.trap h f) s →
      (s.b.sysmode = false → p.trapvec ≠ 0 →
        s.targetOk s.b p.trapvec = true →
        ∃ t : State, exec (.trap h f) s = Host.Outcome.next t ∧ OnlyBough s t ∧
          t.b.pc = p.trapvec ∧ t.b.epc = (s.issued (.trap h f)).b.pc ∧ t.b.emask = s.b.emr ∧
          t.b.ecause = BitVec.ofNat 64 (3 + 2 ^ 4 * 0x60 + 2 ^ 12 * (code % 2 ^ 24)) ∧ t.b.eaddr = 0 ∧
          t.b.sysmode = true ∧ t.b.emr = s.b.emr ∧ t.b.vregs = s.b.vregs ∧ t.b.sregs = s.b.sregs ∧
          t.b.preds = s.b.preds ∧ t.b.stack = s.b.stack ∧ t.b.fmt = s.b.fmt) ∧
      (s.b.sysmode = true ∨ p.trapvec = 0 → parks (.trap h f) 3 0x60)) ∧
    (Issues (.bkpt h f) s →
      (p.dbgctl.getLsbD 0 = true → parks (.bkpt h f) 4 0x61) ∧
      (p.dbgctl.getLsbD 0 = false → ∃ t : State, exec (.bkpt h f) s = Host.Outcome.next t ∧ QuietFrame s t)) ∧
    (∀ l : Launch, Issues (.halt h f) s → s.launchOf s.b = some l → l.killed = false → s.b.uid ≠ 0 →
      ∃ t : State, exec (.halt h f) s = Host.Outcome.next t ∧ t.b.status = .absent ∧
        ∃ x : Launch, t.launchOf s.b = some x ∧ x.killed = true ∧ x.endst = 3 ∧ x.haltcode = code ∧
          x.faultseq = 0 ∧ x.entryq = []) ∧
    (Issues (.eret h f) s →
      (slotAddr s.b.epc = false → exec (.eret h f) s = Host.Outcome.next (s.takeTrap cTarget 0 s.b.epc)) ∧
      (slotAddr s.b.epc = true → s.b.emask &&& s.b.settable ≠ 0 →
        ∃ t : State, exec (.eret h f) s = Host.Outcome.next t ∧ OnlyBough s t ∧ t.b.pc = s.b.epc ∧
          t.b.emr = s.b.emask &&& s.b.settable ∧ t.b.sysmode = false ∧ t.b.vregs = s.b.vregs ∧
          t.b.sregs = s.b.sregs ∧ t.b.preds = s.b.preds ∧ t.b.stack = s.b.stack ∧ t.b.fmt = s.b.fmt))

/-- R163, R365, R370, R372, R373: CTXSAVE writes the block of the trapped bough, as it was before CTXSAVE issued
(log 26), at a 128 KiB boundary, once all that the bough issued has completed but engine operations, and matrix
instructions that hold no flag (log 65), and no register changes; what the manual gives no layout holds free
values (log 22). R250: where another deterministic launch has written a line of the block, its phase copy takes
the bytes too, and FOREIGN is set; the control part of a block holds PC, EMR, FMT, WH,
the flags and the exception registers at their places. CTXREST loads PC, EMR, FMT and the registers from a
block and leaves system mode; a block of another kind, or with an FMT that is never held (log 23), is illegal. -/
def Obligations.BoughBlocks : Prop :=
  (∀ (h : Hdr) (f : FmtY) (s : State),
    let va := (s.b.sreg f.s1.toNat).toNat
    let img := s.blockImage s.b.trapped
    (∀ i ∈ ([.ctxsave h f, .ctxrest h f] : List Instr), Issues i s → va % 0x20000 ≠ 0 →
      exec i s = Host.Outcome.next (s.takeTrap cIllegal 0 0)) ∧
    (Issues (.ctxsave h f) s → va % 0x20000 = 0 →
      (s.stopped s.b.uid = false → exec (.ctxsave h f) s = Host.Outcome.next (s.hold .fence)) ∧
      ∀ lo hi : Nat, s.stopped s.b.uid = true → s.blockHalves va true = .ok (lo, hi) →
        (∀ w ∈ img, w.1 + w.2.1 ≤ 0x10000 ∨ (0x10000 ≤ w.1 ∧ w.1 + w.2.1 ≤ 0x20000)) →
        ∃ t : State, exec (.ctxsave h f) s = Host.Outcome.next t ∧
          (let u : State := { s with mem := t.mem, zflag := t.zflag, heart := t.heart, launches := t.launches }
           t = { u with b := t.b, infl := t.infl, nuid := t.nuid } ∧ QuietFrame u t) ∧
          (∀ a : Nat, (a < lo ∨ lo + 0x10000 ≤ a) → (a < hi ∨ hi + 0x10000 ≤ a) →
            Sparse.get t.mem a = Sparse.get s.mem a) ∧
          (s.isDet s.b.part s.b.launch = false → (∀ a : Nat,
              Sparse.get t.mem a = Sparse.get (s.putHalves (lo, hi) img).mem a) ∧
            ((∀ x ∈ s.heart, x.line < lo / 128 ∨ lo / 128 + 512 ≤ x.line) →
              (∀ x ∈ s.heart, x.line < hi / 128 ∨ hi / 128 + 512 ≤ x.line) →
              t.heart = s.heart ∧ t.launches = s.launches) ∧
            ∀ x ∈ s.heart, s.heartOf x.line = some x →
              (lo / 128 ≤ x.line ∧ x.line < lo / 128 + 512) ∨ (hi / 128 ≤ x.line ∧ x.line < hi / 128 + 512) →
              lo % 128 = 0 → hi % 128 = 0 → s.launch x.part x.launch ≠ none →
              t.met x.part x.launch 1 ∧
                t.heartOf x.line = some { x with copy := BitVec.ofNat 1024 (t.line x.line) })) ∧
    (Issues (.ctxrest h f) s → va % 0x20000 = 0 → ∀ x : Nat × Nat, s.blockHalves va false = .ok x →
      let rd (o n : Nat) : Nat := s.rdHalves x o n
      let valid := (s.loadBlock s.b rd).fmtsValid
      (s.isDet s.b.part s.b.launch = false → ∀ o n : Nat,
        rd o n = s.rd (if o < 0x10000 then x.1 + o else x.2 + (o - 0x10000)) n) ∧
      (rd 136 4 ≠ 0x00010001 ∨ valid = false → exec (.ctxrest h f) s = Host.Outcome.next (s.takeTrap cIllegal 0 0)) ∧
      (rd 136 4 = 0x00010001 → valid = true → BitVec.ofNat 32 (rd 0 256 / 2 ^ 64) ≠ 0 →
        ∃ t : State, exec (.ctxrest h f) s = Host.Outcome.next t ∧ OnlyBough s t ∧
          t.b.pc = BitVec.ofNat 64 (rd 0 256) ∧ t.b.emr = BitVec.ofNat 32 (rd 0 256 / 2 ^ 64) ∧
          t.b.fmt = BitVec.ofNat 32 (rd 0 256 / 2 ^ 96) ∧ t.b.sysmode = false ∧
          t.b.utag = BitVec.ofNat 64 (rd 0 256 / 2 ^ 1024) ∧ t.b.lcb = BitVec.ofNat 64 (rd 0 256 / 2 ^ 320) ∧
          (∀ k : Nat, k < 63 → t.b.sreg k = BitVec.ofNat 64 (rd (0x100 + 8 * k) 8)) ∧
          (∀ k : Nat, k < 7 → t.b.pred k = BitVec.ofNat 32 (rd (0x300 + 4 * k) 4)) ∧
          ∀ r l : Nat, r < s.b.nregs → l < 32 →
            t.b.banked r l = BitVec.ofNat 32 (rd (0x10000 + 4 * (32 * r + l)) 4)))) ∧
  ∀ (s : State) (b : Bough), ∀ p ∈ ([(0, 64, b.pc.toNat), (64, 32, b.emr.toNat), (96, 32, b.fmt.toNat),
      (128, 64, b.wh), (192, 48, b.flagBits), (256, 2, b.setpri.toNat), (258, 1, bit b.sysmode),
      (259, 4, b.nestmax), (263, 4, b.wait.code), (320, 64, b.lcb.toNat), (384, 64, b.lcseed.toNat),
      (448, 64, b.bankcnt.toNat), (576, 64, b.epc.toNat), (640, 32, b.emask.toNat), (704, 64, b.eaddr.toNat),
      (768, 64, b.esavea.toNat), (832, 64, b.esaveb.toNat), (960, 64, b.regbase), (1024, 64, b.utag.toNat),
      (1088, 32, 0x00010001)] : List (Nat × Nat × Nat)),
    s.controlPart b / 2 ^ p.1 % 2 ^ p.2.1 = p.2.2 % 2 ^ p.2.1

/-! ## The Canopy -/

/-- R14, R22, R23, R24, R25, R88, R286, R330: COPSE_ADMISSION starts the next copse of a launch at a place that is
free: it is resident there, and each of its boughs starts at ENTRY with every lane active, FMT0, and s0 to s5 as
the launch gives them, every other register 0; a core that comes from another partition has tiles of zeros.
Where the launch or the place does not allow it, nothing happens; and of a COSCHED launch all the copses start or
none does. A place takes a copse whose allotments, slots and banks are all free there and leaves two CAC banks; a launch may
admit where copses remain, none of the partition waits to come back to a core that can take it, and no launch
accepted before it has a copse that some core can take.
R28, R29, R366, R368, R370: a copse may be evicted where each of its boughs waits, so that what it waits at would
only find it waiting again, one of them longer than LWT; LWT_EXPIRY saves a copse that may be evicted in a free context area;
COPSE_RESTORE brings one whose event has come first back to a place, those of its boughs that had not exited with
their registers, and its area is free. (That a restored bough has the registers that State kept, whatever the bytes of its context area
are by then, is the model's choice, log 49; so are the places of the later copses of a COSCHED launch, log 50,
and that the copses of one partition only stand on a core, log 60.) -/
def Obligations.Copses : Prop :=
  (∀ (s : State) (n k : Nat) (p : Place) (l : Launch), s.launch (n / 2 ^ 32) (n % 2 ^ 32) = some l →
    let go := l.desc.task = false ∧ l.started.length = k ∧ s.mayAdmit l p = true
    let t := s.seat l k p 0xFFFFFFFF#32
    (¬ go → exec (.copseAdmission n k p) s = Host.Outcome.next s) ∧
    (go → l.desc.cosched = false → exec (.copseAdmission n k p) s = Host.Outcome.next t) ∧
    (go → l.desc.cosched = true →
      (∀ ps : List Place, t.placesFor l (l.ncopses - 1) = some ps →
        exec (.copseAdmission n k p) s = Host.Outcome.next (t.seatAll l.part l.id ps 1)) ∧
      (t.placesFor l (l.ncopses - 1) = none → exec (.copseAdmission n k p) s = Host.Outcome.next s)) ∧
    (go → s.copse l.part l.id k = none →
      (∃ c : Copse, t.copse l.part l.id k = some c ∧ c.at_ = .resident ∧ c.core = p.core ∧ c.scr = p.scr ∧
        c.fif = p.fif ∧ c.written = 0 ∧ c.bars = [] ∧ c.queues = []) ∧
      (t.launch l.part l.id).map (fun x => x.started) = some (l.started ++ [k]) ∧ t.mem = s.mem ∧ t.b = s.b ∧
      (∀ a : Nat, (s.core p.core).tenant ≠ some l.part → Sparse.get (t.core p.core).tiles a = 0) ∧
      ∀ i : Nat, i < l.desc.copse → ∃ b ∈ t.boughs, b.uid = s.nuid + i ∧ b.idx = i ∧ b.cid = k ∧
        b.launch = l.id ∧ b.part = l.part ∧ b.core = p.core ∧ some b.regbase = p.regBases[i]? ∧
        b.nregs = l.desc.regs ∧ b.pc = l.desc.entry ∧ b.emr = 0xFFFFFFFF#32 ∧ b.live = 0xFFFFFFFF#32 ∧
        b.fmt = l.desc.fmt0 ∧ b.stack = [] ∧ b.wait = .none ∧ b.sysmode = false ∧ b.nestmax = 4 ∧
        (∀ r : Nat, b.pred r = if r = 7 then 0xFFFFFFFF#32 else 0) ∧ (∀ r j : Nat, b.vreg r j = 0) ∧
        ∀ ps : W64 × Nat × Nat × Nat, (l.child k = none → ps = (l.param, k, l.ncopses, 0)) →
          (∀ (j first : Nat) (c : W64 × Nat × W64), l.child k = some (j, first, c) →
            ps = (c.1, k - first, c.2.1, j)) →
          ∀ r : Nat, b.sreg r = match r with
            | 0 => ps.1
            | 1 => BitVec.ofNat 64 ps.2.1
            | 2 => BitVec.ofNat 64 (i + 32 * (l.desc.copse - 1))
            | 3 => BitVec.ofNat 64 ps.2.2.1
            | 4 => BitVec.ofNat 64 ps.2.2.2
            | 5 => BitVec.ofNat 64 (l.id % 2 ^ 32)
            | _ => 0)) ∧
  (∀ (s : State) (part extra : Nat) (d : Desc) (p : Place),
    let k := s.core p.core
    let n := 128 * d.regs
    let here := s.allBoughs.filter fun b => b.core == p.core && (b.status == .running || b.status == .ended)
    let taken (b : Nat) : Prop := (p.scr ≤ b ∧ b < p.scr + d.scrb) ∨ (p.fif ≤ b ∧ b < p.fif + d.fifb)
    let apart (a m b r : Nat) : Prop := b + r ≤ a ∨ a + m ≤ b
    s.placeOk part d extra p = true ↔
      p.core < 2048 ∧ p.regBases.length = d.copse ∧ here.length + d.copse ≤ 48 ∧ (∀ b ∈ here, b.part = part) ∧
      (∀ a ∈ p.regBases, a % 2048 = 0 ∧ a + n ≤ 0xC0000 ∧ (∀ b ∈ here, apart a n b.regbase (128 * b.nregs)) ∧
        ∀ x : Nat, x < 48 → ¬ apart a n (0x4000 * x) 0x4000 → (k.role x = .reg ∨ k.role x = .cac) ∧ ¬ taken x) ∧
      p.regBases.Pairwise (fun a b => apart a n b n) ∧
      (∀ x : Nat, taken x → x < 48 ∧ k.role x = .cac) ∧
      (∀ x : Nat, ¬ ((p.scr ≤ x ∧ x < p.scr + d.scrb) ∧ p.fif ≤ x ∧ x < p.fif + d.fifb)) ∧
      (d.scrb = 0 → p.scr = 0) ∧ (d.fifb = 0 → p.fif = 0) ∧
      ∃ xs : List Nat, xs.Nodup ∧ 2 + extra ≤ xs.length ∧ ∀ x ∈ xs, x < 48 ∧ k.role x = .cac ∧ ¬ taken x ∧
        ∀ a ∈ p.regBases, apart a n (0x4000 * x) 0x4000) ∧
  (∀ (s : State) (l : Launch) (p : Place) (older newer : List Launch), s.launches = older ++ l :: newer →
    (∀ x ∈ older, ¬ (x.part = l.part ∧ x.id = l.id)) →
    (s.mayAdmit l p = true ↔
      l.killed = false ∧ (l.desc.task = true → l.entryq ≠ []) ∧ (l.desc.task = false → l.started.length < l.ncopses) ∧
      s.sirxo.shutdown = false ∧ (s.part l.part).noAdmit = false ∧ s.placeOk l.part l.desc 0 p = true ∧
      (∀ c ∈ s.copses, c.part = l.part → c.event ≠ 0 → (∃ a : Nat, c.at_ = .saved a) →
        ∀ x : Launch, s.launch c.part c.launch = some x → s.restorePlace x c = none) ∧
      (∀ c ∈ (s.part l.part).cmds, c.op = 1 → l.order ≤ c.order) ∧
      ∀ x ∈ older, x.part = l.part → x.waiting = true → s.nextPlace x = none)) ∧
  (∀ (s : State) (c : Copse),
    let bs := s.boughsOf c.part c.launch c.cid
    (s.mayEvict c = true ↔ c.at_ = .resident ∧ bs ≠ [] ∧
      (∀ b ∈ bs, b.gone = true ∨ (b.status = .running ∧ s.waits b = true)) ∧
      (∃ b ∈ bs, (b.wait.code ≠ 0 ∧ b.wait.code ≠ 5) ∧ (s.part c.part).lwt.toNat < s.time - b.waitSince) ∧
      (∀ b ∈ bs, s.stopped b.uid = true) ∧ (∀ o ∈ s.copseOps c, o.staysLocal = false) ∧
      ∀ b ∈ bs, ∀ m ∈ (s.core c.core).mq, m.uid ≠ b.uid) ∧
    ∀ b : Bough, s.waits b = true → b.wait.code ≠ 0 ∧ (∀ e : Nat, b.wait = .sleep e → s.time < e) ∧
      ∀ i : Instr, b.emr ≠ 0 → b.instrAt = some i → b.wait.code ≠ 5 → (∀ e : Nat, b.wait ≠ .sleep e) →
        let t := (s.focus b.uid).modB fun b => { b with ready := 1 }
        ∃ u : State, exec i t = Host.Outcome.next u ∧ u.b.uid = t.b.uid ∧ u.b.pc = t.b.pc ∧ u.b.emr = t.b.emr ∧
          u.b.wait ≠ .none) ∧
  (∀ (s : State) (n k a : Nat) (c : Copse), s.copse (n / 2 ^ 32) (n % 2 ^ 32) k = some c →
    (s.part c.part).freeArea = some a →
    (s.mayEvict c = false → exec (.lwtExpiry n k) s = Host.Outcome.next s) ∧
    (s.mayEvict c = true →
      (∃ b ∈ s.boughsOf c.part c.launch c.cid,
        b.wait.counted = true ∧ (s.part c.part).lwt.toNat < s.time - b.waitSince) ∧
      ∃ (t : State) (x : Copse), exec (.lwtExpiry n k) s = Host.Outcome.next t ∧
        t.copse c.part c.launch c.cid = some x ∧ x.at_ = .saved a ∧ x.reason = 1 ∧ x.event = 0 ∧
        x.ctxbase = BitVec.ofNat 64 ((s.part c.part).ctxarea.toNat + 0x530000 * a) ∧ x.tsave = s.time ∧
        (t.part c.part).areas = (s.part c.part).areas ++ [a] ∧
        ∀ b ∈ s.boughsOf c.part c.launch c.cid,
          { b with status := .saved, line := none, entered := false, walkRes := [],
                   seen := max b.seen (s.core c.core).wh } ∈ t.allBoughs)) ∧
  ∀ (s : State) (n k a : Nat) (p : Place) (l : Launch) (c : Copse),
    s.launch (n / 2 ^ 32) (n % 2 ^ 32) = some l → s.copse (n / 2 ^ 32) (n % 2 ^ 32) k = some c →
    c.at_ = .saved a →
    let back := s.returning c
    let go := c.event ≠ 0 ∧ (s.part c.part).noAdmit = false ∧
      s.placeOk l.part { l.desc with copse := back.length } c.extraBanks.length p = true ∧
      s.matrixFree c p.core = true ∧ s.firstRestore c = true
    (∀ i : Nat, i ∈ back ↔ i < 32 ∧ ∃ b ∈ s.boughsOf c.part c.launch c.cid, b.idx = i ∧ b.gone = false) ∧
    (¬ go → exec (.copseRestore n k p) s = Host.Outcome.next s) ∧
    (go → s.badAt ((s.part c.part).area a) 0x530000 = none →
      ∃ (t : State) (x : Copse), exec (.copseRestore n k p) s = Host.Outcome.next t ∧ t.mem = s.mem ∧
      t.copse c.part c.launch c.cid = some x ∧ x.at_ = .resident ∧ x.core = p.core ∧ x.event = 0 ∧
      (t.part c.part).areas = (s.part c.part).areas.filter (fun y => y != a) ∧
      ∀ b ∈ s.boughsOf c.part c.launch c.cid, (b.gone = true → b ∈ t.allBoughs) ∧ (b.gone = false → ∃ y ∈ t.allBoughs,
        y = { b with status := .running, core := p.core, slot := y.slot,
                     regbase := (p.regBases[back.idxOf b.idx]?).getD 0, wait := y.wait } ∧
        (∀ q : Nat, b.wait = .reply q → y.wait = .reply q) ∧ (∀ q : Nat, b.wait = .sleep q → y.wait = .sleep q)))

/-- R228, R358, R361, R377, R386: the end of a launch, and the records that the device writes for the host. A
launch that is over and quiet ends: its progress block is written and its completion record is due, and neither
the launch nor a copse of it is left. A completion record goes to the next slot of its ring with the next CSEQ,
or waits while the ring is full. A fault record has the next SEQ, and goes to its slot or waits for it. A launch
that is killed takes its end status once, and none of its tasks waits in its queue. (That the progress block's
address is translated as one of the partition is the model's choice, log 12; so is the end of a deterministic
launch in two steps, the second when the leases of its last phase are over, log 41.) -/
def Obligations.LaunchEnds : Prop :=
  (∀ (s : State) (n : Nat) (l : Launch), s.launch (n / 2 ^ 32) (n % 2 ^ 32) = some l →
    (l.isOver = false ∨ s.launchQuiet l = false → exec (.launchCompletion n) s = Host.Outcome.next s) ∧
    (l.isOver = true → s.launchQuiet l = true → l.desc.det = false ∨ l.killed = true →
      ∃ t : State, exec (.launchCompletion n) s = Host.Outcome.next t ∧ t.b = s.b ∧ t.boughs = s.boughs ∧
        (∀ x ∈ t.launches, ¬ (x.part = l.part ∧ x.id = l.id)) ∧
        (∀ x ∈ t.copses, ¬ (x.part = l.part ∧ x.launch = l.id)) ∧
        ∀ q sub : Nat, l.origin = .host q sub → ((s.part l.part).queue q).ready = [] →
          ((s.part l.part).queue q).full = false →
          let x := (s.part l.part).queue q
          let at_ := ringBase x.cqbase + 32 * ((x.lastdone + 1).toNat % 2 ^ x.cqsize.toNat)
          Holds t at_ 32 ((completion s.time 0x01 l.endst sub l.id l.prog.toNat).toNat + (x.lastdone + 1).toNat) ∧
          ((t.part l.part).queue q).lastdone = x.lastdone + 1 ∧
          ∀ pa : Nat, l.prog ≠ 0 → s.xlateRec 0 l.part l.prog.toNat true = .ok pa →
            pa + 64 ≤ at_ ∨ at_ + 32 ≤ pa →
            Holds t pa 64 (progressBlock { l with
              ckilled := (if l.desc.task then l.started.length else l.ncopses) - l.cdone })) ∧
    (l.isOver = true → s.launchQuiet l = true → l.desc.det = true → l.killed = false →
      (∀ e : Nat, l.phaseWait = some e → s.time < e →
        exec (.launchCompletion n) s = Host.Outcome.next s) ∧
      (l.phaseWait = none → ∃ t : State, exec (.launchCompletion n) s = Host.Outcome.next t ∧
        (t.launch l.part l.id).map (fun x => x.phaseWait) = some (some ((s.applyPhase l.part l.id).1 + 2)) ∧
        t.mem = (s.applyPhase l.part l.id).2.mem))) ∧
  (∀ (s : State) (part q : Nat) (r : BitVec 256), ((s.part part).queue q).full = true →
    let t := s.complete part q r
    MemorySame s t ∧ ((t.part part).queue q).ready = ((s.part part).queue q).ready ++ [r] ∧
      ((t.part part).queue q).lastdone = ((s.part part).queue q).lastdone) ∧
  (∀ (s : State) (b : Bough) (f : FaultInfo),
    let p := s.part b.part
    let t := (s.recordFault b f).2
    let r := faultRecord b (p.recs % (2 ^ 32 - 1) + 1) f
    (s.recordFault b f).1 = p.recs % (2 ^ 32 - 1) + 1 ∧ (t.part b.part).recs = p.recs + 1 ∧ t.b = s.b ∧
    (p.fqbase ≠ 0 → p.fqwait = [] → p.fqFree p.recs = true →
      MemoryOutside s t (p.fqbase.toNat + 64 * (p.recs % 2 ^ p.fqsize.toNat)) 64 ∧
      Holds t (p.fqbase.toNat + 64 * (p.recs % 2 ^ p.fqsize.toNat)) 64 (r % 2 ^ 512)) ∧
    (p.fqbase ≠ 0 → p.fqwait = [] → p.fqFree p.recs = false → MemorySame s t ∧
      (t.part b.part).fqwait = [(p.recs, BitVec.ofNat 512 r)])) ∧
  ∀ (s : State) (p id endst seq halt : Nat) (l : Launch), s.launch p id = some l →
    let t := s.killLaunch p id endst seq halt
    (l.killed = true → t = s) ∧
    (l.killed = false → ∃ x : Launch, t.launch p id = some x ∧ x.killed = true ∧ x.endst = endst ∧
      x.faultseq = seq ∧ x.haltcode = halt ∧ x.entryq = [] ∧ x.cdone = l.cdone)

/-! ## The host -/

/-- R383, R384, R385, R391: DOORBELL. A disabled queue and a value too far ahead accept nothing. The next entry
that stands in its slot is accepted: LASTACC moves to it, and it waits to be performed, its place among the launches taken (R24); one whose fields are out
of range, and in recovery every one, is refused: ERRSTAT[1] is set and a record with status 0x13 is due. EXT
joins the LAUNCH before it. -/
def Obligations.Submissions : Prop :=
  (∀ (s : State) (p q : Nat) (v : W64), s.sirxo.booted = true ∨ s.sirxo.recovery = true →
    let x := (s.part p).queue q
    let w : W32 := BitVec.truncate 32 v
    let n := x.lastacc + 1
    let e := s.slotEntry x n
    let c := entryCmd q e
    (x.sqsize = 0 ∨ 2 ^ x.sqsize.toNat < (w - n).toNat → exec (.doorbell p q v) s = Host.Outcome.next s) ∧
    (x.sqsize ≠ 0 → w = n → c.subseq = n.toNat → ¬ (c.op = 1 ∧ c.flags % 2 = 1) →
      ∃ t : State, exec (.doorbell p q v) s = Host.Outcome.next t ∧ t.b = s.b ∧
        ((t.part p).queue q).lastacc = n ∧
        (s.sirxo.recovery = false → entryZeros e = true → cmdOk c = true → t.launches = s.launches ∧
          (t.part p).cmds = (s.part p).cmds ++ [{ c with order := s.nuid }] ∧ MemorySame s t ∧ (t.part p).errstat = (s.part p).errstat) ∧
        (s.sirxo.recovery = true ∨ entryZeros e = false ∨ cmdOk c = false → (t.part p).cmds = (s.part p).cmds ∧
          (t.part p).errstat = (s.part p).errstat ||| 2 ∧
          (x.ready = [] → x.full = false →
            Holds t (ringBase x.cqbase + 32 * ((x.lastdone + 1).toNat % 2 ^ x.cqsize.toNat)) 32
              ((completion s.time c.op 0x13 c.subseq c.lid c.prog).toNat + (x.lastdone + 1).toNat)))) ∧
    (x.sqsize ≠ 0 → w = n → c.subseq ≠ n.toNat → ∃ t : State, exec (.doorbell p q v) s = Host.Outcome.next t ∧
      MemorySame s t ∧ (t.part p).cmds = (s.part p).cmds ∧ ((t.part p).queue q).lastacc = x.lastacc)) ∧
  ∀ (s : State) (p q : Nat) (c e : Cmd), s.nextCmd p 1 q = some c →
    ((s.part p).cmds.find? fun x => x.op == 0 && x.q == q && x.subseq == (c.subseq + 1) % 2 ^ 32) = some e →
    ∃ t : State, exec (.ext p q) s = Host.Outcome.next t ∧ t = { s with parts := t.parts } ∧
      (((s.part p).cmds.find? fun x => x.q == c.q && x.subseq == c.subseq) = some c →
        { c with ext := some e.a1 } ∈ (t.part p).cmds)

/-- R82, R360, R361, R367, R376, R384, R386: the commands. Each acts on the command whose turn it is, which
leaves the list with the status of its record: LAUNCH adds a launch of its descriptor, after those that were accepted before it (R24), or is refused; KILL kills
a launch that exists; PREEMPT stops the partition and is complete when no copse of it is on a core; RESTORE lets
it go on; REPLY names a fault that waits, whose lanes may go on under RESUME, while KILL at depth 0 ends the
launch; TLBINV waits until the partition is quiet; COMM sets the rank table of a communicator; NOP does nothing.
The queues of the partition take turns: the queue of a command that begins has been served. (That RESTORE waits
for a PREEMPT that has begun, and status 0x13 for a rank table that cannot be read, are the model's choices, log
27; the wait of TLBINV is log 25; status 0 for the KILL of a launch that is killed already, and 0x13 for a TASK
kernel without EXT, are log 52.) -/
def Obligations.Commands : Prop :=
  ∀ (s : State) (p q : Nat) (c : Cmd),
    let ends (i : Instr) (u : State) (status : Nat) : Prop :=
      exec i s = Host.Outcome.next (((if c.op ≤ 1 ∨ c.begun = true then u.dropCmd p c
          else (u.dropCmd p c).modPart p fun x => { x with turn := c.q })).complete p c.q
        (completion u.time c.op status c.subseq c.lid c.prog))
    let id := c.a1.toNat
    let seq := c.a1.toNat % 2 ^ 32
    let next (op : Nat) : Prop := s.nextCmd p op q = some c
    let replies (i : Instr) (kill : Nat) (acts : State → Pending → State) : Prop :=
      s.replyCmd p q kill = some c →
        (s.pendingOf p seq = none → ends i s 0x12) ∧
        ∀ f : Pending, s.pendingOf p seq = some f →
          (s.isOut f = true → ∃ t : State, exec i s = Host.Outcome.next t ∧
            t = { s with b := t.b, boughs := t.boughs, parts := t.parts } ∧
            (∀ b : Bough, s.bough f.uid = some b → ∃ x : Bough, t.bough f.uid = some x ∧ f.seq ∈ x.recorded)) ∧
          (s.isOut f = false → ends i (acts s f) 0)
    (next 1 → ¬ (c.flags = 1 ∧ c.ext = none) →
      let d := s.readDesc p c.a1.toNat
      let n := c.a3.toNat % 2 ^ 32
      (d = none → ends (.launchCommand p q) s 0x10) ∧
      ∀ x : Desc, d = some x →
        (x.task ≠ c.ext.isSome → ends (.launchCommand p q) (s.entryError p) 0x13) ∧
        (x.task = c.ext.isSome → x.fits n = false ∨ s.hasSlots p = false → ends (.launchCommand p q) s 0x11) ∧
        (x.task = c.ext.isSome → x.fits n = true → s.hasSlots p = true → ∃ (t : State) (l : Launch),
          exec (.launchCommand p q) s = Host.Outcome.next t ∧
          l = newLaunch (c.q * 2 ^ 28 + c.subseq % 2 ^ 28) p x c.a2 n c.a4 (.host c.q c.subseq) c.order ∧
          ∃ older newer : List Launch, s.launches = older ++ newer ∧ (∀ y ∈ older, y.order ≤ c.order) ∧
            (∀ y ∈ newer.head?, c.order < y.order) ∧
            (c.ext = none → t.launches = older ++ l :: newer ∧ MemorySame s t ∧ t.b = s.b) ∧
            ∀ arr : W64, c.ext = some arr → t = ({ s.dropCmd p c with launches := older ++ l :: newer } :
              State).publishArray p arr.toNat (c.a3.toNat / 2 ^ 32))) ∧
    (next 2 → (s.launch p id = none → ends (.kill p q) s 0x12) ∧
      ∀ l : Launch, s.launch p id = some l → ends (.kill p q) (s.killLaunch p id 4 0 0) 0) ∧
    (next 3 → ∃ t : State, exec (.preempt p q) s = Host.Outcome.next t ∧ t = { s with parts := t.parts } ∧
      (t.part p).halted = true ∧ (t.part p).noAdmit = true) ∧
    (((s.part p).halted = false → exec (.preemptSave p) s = Host.Outcome.next s) ∧
      ((s.part p).halted = true →
        let u := (s.residents p).foldl (fun s c => s.preemptOne c) s
        (u.residents p ≠ [] → exec (.preemptSave p) s = Host.Outcome.next u) ∧
        (u.residents p = [] → exec (.preemptSave p) s = Host.Outcome.next
          (((u.part p).cmds.filter fun c => c.op == 3 && c.begun).foldl (fun s c => s.endCmd p c 0) u)))) ∧
    (((s.part p).cmds.any fun x => x.op == 3 && x.begun) = true → exec (.restore p q) s = Host.Outcome.next s) ∧
    (next 4 →
      (∃ t : State, exec (.restore p q) s = Host.Outcome.next t ∧ t.b = s.b ∧
        t.boughs = s.boughs ∧ (t.part p).halted = false ∧ (t.part p).noAdmit = false ∧
        (s.nuid ≠ 0 → (s.copses.map fun y => (y.part, y.launch, y.cid)).Nodup →
          ∀ x ∈ t.copses, x.part = p → x.reason = 2 → x.event ≠ 0))) ∧
    replies (.replyResume p q) 0 (fun s f => s.resume p f) ∧
    replies (.replyKill p q) 1 (fun s f => s.replyEnd p f) ∧
    (∀ (f : Pending) (b : Bough), f.eng = 0 → s.bough f.uid = some b →
      let t := s.resume p f
      (∃ x : Bough, t.bough f.uid = some x ∧ x.vregs = b.vregs ∧ x.sregs = b.sregs ∧ x.emr = b.emr ∧
        (b.wait = .reply f.seq → x.wait = .none) ∧
        ∀ e ∈ b.stack, e.kind = .fault → e.join = false → e.seq = f.seq → { e with svc := true } ∈ x.stack) ∧
      (b.deepLanes (b.faultMask f.seq) = 0 →
        s.replyEnd p f = (s.answer p f).killLaunch p f.launch 1 f.seq 0)) ∧
    (s.partQuiet p = false → exec (.tlbinvCommand p q) s = Host.Outcome.next s) ∧
    (next 6 → s.partQuiet p = true ∧ ends (.tlbinvCommand p q)
      (s.tlbRemove p (if c.flags = 1 then none else some (id, c.a2.toNat))) 0) ∧
    (next 7 → (s.rankTable p c.a2.toNat c.a3.toNat = none → ends (.comm p q) (s.entryError p) 0x13) ∧
      ∀ r : List (Nat × Nat), s.rankTable p c.a2.toNat c.a3.toNat = some r →
        let y : Comm := { part := p, id, ranks := r }
        ends (.comm p q) { s with comms := upsert (fun x => x.part == p && x.id == id) y s.comms } 0) ∧
    (next 8 → ends (.nopCommand p q) s 0)

/-- R17, R199, R374, R376, R384: the publication of a page. MAP waits, where the old entry was valid, until the
partition is quiet; then no TLB translates to the old page, and the lines of the new one are zero where the
command asks for it; the entry itself is written when the leases on the page are over, no copy of a page that was
zeroed is left in an L1, and no other byte of memory changes. (The wait for the leases where the page is not
zeroed, that a page outside the HBM is not zeroed, and that the TLB entries that go are those of the old physical
page, are the model's choices, log 53; the wait for a quiet partition is log 25.) -/
def Obligations.PagePublication : Prop :=
  ∀ (s : State) (p q : Nat) (c : Cmd),
    let span : Nat × Nat := (4096 * (c.a2.toNat / 2 ^ 12 % 2 ^ 40), 2 ^ pageShift (c.a2.toNat / 2 ^ 52 % 4))
    let old := s.rd c.a1.toNat 8
    (s.nextCmd p 9 q = some c →
      (old % 2 = 1 → s.partQuiet p = true) ∧
      (∃ t : State, exec (.map p q) s = Host.Outcome.next t ∧
        MemoryOutside s t span.1 span.2 ∧ t.stores = s.stores ∧ t.launches.length = s.launches.length ∧
        (c.flags = 1 → MemorySame s t) ∧
        (c.flags ≠ 1 → span.1 < 2 ^ 40 → ∀ j : Nat, j < span.2 → Sparse.get t.mem (span.1 + j) = 0) ∧
        (old % 2 = 1 → ∀ (k : Nat) (e : TlbEnt), e ∈ (t.core k).tlb → e.part = p →
          pteAddr e.pte + 2 ^ pageShift e.size ≤ pteAddr (BitVec.ofNat 64 old) ∨
            pteAddr (BitVec.ofNat 64 old) + 2 ^ pageShift (pteBits (BitVec.ofNat 64 old) 52 2) ≤
              pteAddr e.pte))) ∧
    (s.begunCmd p 9 q = some c →
      (s.leaseOver c = false → exec (.mapPublish p q) s = Host.Outcome.next s) ∧
      (s.leaseOver c = true → (∀ e ∈ s.leases, span.1 / 128 ≤ e.1 → e.1 < (span.1 + span.2) / 128 →
          e.2 + 2 ≤ s.time ∨ e.2 = 0) ∧
        (s.heartOf (c.a1.toNat / 128) = none →
          let x := (s.part p).queue c.q
          let at_ := ringBase x.cqbase + 32 * ((x.lastdone + 1).toNat % 2 ^ x.cqsize.toNat)
          (x.ready = [] → x.full = false → c.a1.toNat + 8 ≤ at_ ∨ at_ + 32 ≤ c.a1.toNat →
            ∃ t : State, exec (.mapPublish p q) s = Host.Outcome.next t ∧
              Holds t c.a1.toNat 8 c.a2.toNat ∧
              (c.flags ≠ 1 → ∀ (k : Nat) (x : Sector), x ∈ (t.core k).l1 →
                32 * x.pa + 32 ≤ span.1 ∨ span.1 + span.2 ≤ 32 * x.pa) ∧
              ∀ a : Nat, a < c.a1.toNat ∨ c.a1.toNat + 8 ≤ a → a < at_ ∨ at_ + 32 ≤ a →
                Sparse.get t.mem a = Sparse.get s.mem a))))

/-- R358, R382, R383, R386, R388, R391, R394: the register blocks. FQHEAD and CQHEAD free slots and let what
waits for them be written, and a launch whose machine check waited for its record ends with it; ERRSTAT is
cleared by ones. A register of a partition takes a value while no launch of the partition runs, and one that it
does not accept is ignored with ERRSTAT[0]; the queue registers, the calendars while no launch of any partition
runs, and PLIMIT at any time between 2,000 and 8,000, take theirs. (The model's choices: that a value which R382
and R383 do not allow is ignored with ERRSTAT[0] for every register and not for ATOMPLACE and DBGCTL alone, and
that the calendars are written 8 bytes at a time, log 28; that before Sirxo has booted the device no register is
written, but in recovery those of the queues, log 55; that a launch waits for its record, log 48.) -/
def Obligations.RegisterWrites : Prop :=
  (∀ (s : State) (p q : Nat) (v : W64),
    ((s.part p).dooms = [] → ∃ t : State, exec (.fqhead p v) s = Host.Outcome.next t ∧ (t.part p).fqhead = v ∧
      ((s.part p).fqwait = [] → MemorySame s t ∧ (t.part p).fqwait = []) ∧
      (∀ (k : Nat) (r : BitVec 512), (s.part p).fqwait = [(k, r)] →
        ({ s.part p with fqhead := v } : Part).fqFree k = true → (t.part p).fqwait = [] ∧
        Holds t ((s.part p).fqbase.toNat + 64 * (k % 2 ^ (s.part p).fqsize.toNat)) 64 r.toNat) ∧
      ∀ b ∈ s.allBoughs, b.part = p → b.wait = .fault → { b with wait := .none } ∈ t.allBoughs) ∧
    (∀ (d : Doom) (l : Launch), (s.part p).dooms = [d] → (s.part p).fqwait = [] →
      s.launch p d.launch = some l → l.killed = false →
      ∃ t : State, exec (.fqhead p v) s = Host.Outcome.next t ∧ (t.part p).dooms = [] ∧
        (t.launch p d.launch).map (fun x => (x.killed, x.endst)) = some (true, d.endst)) ∧
    (∃ t : State, exec (.cqhead p q v) s = Host.Outcome.next t ∧ t.b = s.b ∧
      ((t.part p).queue q).cqhead = v ∧
      ∀ r : BitVec 256, ((s.part p).queue q).ready = [r] →
        ({ (s.part p).queue q with cqhead := v } : SQueue).full = false →
        ((t.part p).queue q).ready = [] ∧
        ((t.part p).queue q).lastdone = ((s.part p).queue q).lastdone + 1) ∧
    (∃ t : State, exec (.errstat p v) s = Host.Outcome.next t ∧ t = { s with parts := t.parts } ∧
      t.part p = { s.part p with errstat := (s.part p).errstat &&& ~~~v } ∧
      ∀ x : Nat, x ≠ p → t.part x = s.part x)) ∧
  ∀ (s : State) (fn o : Nat) (v : W64),
    let i : Instr := .partitionRegisterWrite fn o v
    let p := s.part fn
    let free := ∀ l ∈ s.launches, l.part ≠ fn
    let ignored : Prop := ∃ t : State, exec i s = Host.Outcome.next t ∧ t = { s with parts := t.parts } ∧
      t.part fn = { p with errstat := p.errstat ||| 1 }
    (s.sirxo.booted = false → s.sirxo.recovery = false ∨ o < 0x1000 ∨ 0x1200 ≤ o →
      exec i s = Host.Outcome.next s) ∧
    (s.sirxo.booted = true ∨ s.sirxo.recovery = true → ∀ q : Nat, q < 8 →
      let x := p.queue q
      let sized : Prop := v.toNat = 0 ∨ (4 ≤ v.toNat ∧ v.toNat ≤ 16)
      ∀ r ∈ ([(0x00, True, { x with sqbase := v }), (0x08, sized, { x with sqsize := v }),
          (0x18, True, { x with cqbase := v }), (0x20, sized, { x with cqsize := v })] :
          List (Nat × Prop × SQueue)), o = 0x1000 + 0x40 * q + r.1 →
        (¬ r.2.1 → ignored) ∧
        (r.2.1 → ∃ t : State, exec i s = Host.Outcome.next t ∧ t = { s with parts := t.parts } ∧
          (t.part fn).queue q = r.2.2 ∧ (∀ j : Nat, j ≠ q → (t.part fn).queue j = p.queue j) ∧
          ∀ x : Nat, x ≠ fn → t.part x = s.part x)) ∧
    (s.sirxo.booted = true →
      (∀ r ∈ ([(0x100, v.toNat % 4096 = 0, { p with ptroot := v }), (0x108, v.toNat ≤ 1, { p with atomplace := v }),
          (0x110, 64 ≤ v.toNat ∧ v.toNat ≤ 8192, { p with leaseLen := v }),
          (0x118, 1250 ≤ v.toNat ∧ v.toNat ≤ 2 ^ 40 - 1, { p with lwt := v }),
          (0x120, v.toNat % 64 = 0 ∧ v.toNat < 2 ^ 40, { p with fqbase := v, recs := 0, fqwait := [] }),
          (0x128, 6 ≤ v.toNat ∧ v.toNat ≤ 16, { p with fqsize := v, recs := 0, fqwait := [] }),
          (0x138, v.toNat % 2 ^ 16 = 0, { p with ctxarea := v }), (0x140, True, { p with ctxcount := v }),
          (0x148, True, { p with ovfbase := v }), (0x150, True, { p with ovfsize := v }),
          (0x158, True, { p with dspbase := v }), (0x160, True, { p with dspsize := v }),
          (0x198, True, { p with trapvec := v }), (0x1A0, v.toNat ≤ 1, { p with dbgctl := v })] :
          List (Nat × Prop × Part)), o = r.1 →
        (¬ (free ∧ r.2.1) → ignored) ∧
        (free ∧ r.2.1 → ∃ t : State, exec i s = Host.Outcome.next t ∧ t = { s with parts := t.parts } ∧
          t.part fn = r.2.2 ∧ ∀ x : Nat, x ≠ fn → t.part x = s.part x)) ∧
      (∀ n : Nat, n < 16 → fn = 0 → ∀ r ∈ ([(0x168, v.toNat % 2 ^ 16 = 0, { s.part n with poolbase := v }),
          (0x170, (s.part n).quota.toNat ≤ v.toNat ∧ v.toNat ≤ 2 ^ 24 - 1, { s.part n with poolsize := v }),
          (0x178, v.toNat ≤ (s.part n).poolsize.toNat, { s.part n with quota := v }),
          (0x180, v.toNat ≤ 1, { s.part n with signreq := v })] : List (Nat × Prop × Part)),
        o = 0x10000 * n + r.1 → (∀ l ∈ s.launches, l.part ≠ n) →
        (r.2.1 → ∃ t : State, exec i s = Host.Outcome.next t ∧ t = { s with parts := t.parts } ∧
          t.part n = r.2.2) ∧
        (¬ r.2.1 → ∃ t : State, exec i s = Host.Outcome.next t ∧
          t.part n = { s.part n with errstat := (s.part n).errstat ||| 1 })) ∧
      (fn = 0 → s.launches = [] → o % 8 = 0 →
        (0x400 ≤ o → o < 0x600 → ∃ t : State, exec i s = Host.Outcome.next t ∧
          t = { s with calnet := t.calnet } ∧ ∀ a : Nat, Sparse.get t.calnet a =
            if o - 0x400 ≤ a ∧ a < o - 0x400 + 8 then BitVec.ofNat 8 (v.toNat / 2 ^ (8 * (a - (o - 0x400))) % 16)
            else Sparse.get s.calnet a) ∧
        (0x600 ≤ o → o < 0x800 → ∃ t : State, exec i s = Host.Outcome.next t ∧
          t = { s with calmem := t.calmem } ∧ ∀ a : Nat, Sparse.get t.calmem a =
            if o - 0x600 ≤ a ∧ a < o - 0x600 + 8 then BitVec.ofNat 8 (v.toNat / 2 ^ (8 * (a - (o - 0x600))))
            else Sparse.get s.calmem a)) ∧
      (fn = 0 → o = 0x900 → exec i s = Host.Outcome.next { s with sirxo := { s.sirxo with
        plimit := if 2000 ≤ v.toNat ∧ v.toNat ≤ 8000 then v.toNat else s.sirxo.plimit } }))

/-- R225, R250, R261, R379, R381: accesses from outside. A write through BAR2 that is naturally aligned goes to
the home of what its partition has mapped there, and one that it has not mapped is not performed; a read
changes nothing. An aligned AtomicOp of the host acts on its word at its home. A peer sees the HBM alone. (The
model's choices: that an offset of BAR2 is a virtual address of the partition, and that what is not mapped is
not performed, log 29; that any other address of a peer's request is a fault of the access, log 58.) -/
def Obligations.OutsideAccesses : Prop :=
  (∀ (s : State) (p off n : Nat) (v : BitVec 128),
    exec (.bar2Access p off (.read n)) s = Host.Outcome.next s ∧
    (n ∈ [1, 2, 4, 8, 16] → off % n = 0 →
      (s.barXlate p off true = none → exec (.bar2Access p off (.write n v)) s = Host.Outcome.next s) ∧
      ∀ pa : Nat, s.barXlate p off true = some pa → s.heartOf (pa / 128) = none →
        ∃ t : State, exec (.bar2Access p off (.write n v)) s = Host.Outcome.next t ∧ t.b = s.b ∧
          t.parts = s.parts ∧ Holds t pa n v.toNat ∧ MemoryOutside s t pa n)) ∧
  (∀ (s : State) (p off pa : Nat) (v c : BitVec 128), s.barXlate p off true = some pa →
    s.heartOf (pa / 128) = none →
    (∀ n : Nat, n = 4 ∨ n = 8 → pa % n = 0 →
      (∃ t : State, exec (.hostAtomicop p off (.fetchAdd n v)) s = Host.Outcome.next t ∧
        MemoryOutside s t pa n ∧ Holds t pa n ((s.rd pa n + v.toNat) % 2 ^ (8 * n))) ∧
      (∃ t : State, exec (.hostAtomicop p off (.swap n v)) s = Host.Outcome.next t ∧
        MemoryOutside s t pa n ∧ Holds t pa n (v.toNat % 2 ^ (8 * n)))) ∧
    (∀ n : Nat, n = 4 ∨ n = 8 ∨ n = 16 → pa % n = 0 →
      (s.rd pa n ≠ c.toNat % 2 ^ (8 * n) →
        exec (.hostAtomicop p off (.cas n c v)) s = Host.Outcome.next s) ∧
      (s.rd pa n = c.toNat % 2 ^ (8 * n) →
        ∃ t : State, exec (.hostAtomicop p off (.cas n c v)) s = Host.Outcome.next t ∧
          MemoryOutside s t pa n ∧ Holds t pa n (v.toNat % 2 ^ (8 * n))))) ∧
  ∀ (s : State) (pa : Nat) (r : PeerReq),
    (2 ^ 40 ≤ pa → exec (.peerRequest pa r) s = Host.Outcome.fault (.reservedAddress pa)) ∧
    (pa < 2 ^ 40 → s.heartOf (pa / 128) = none →
      (∀ n : Nat, r = .acc (.read n) → exec (.peerRequest pa r) s = Host.Outcome.next s) ∧
      (∀ (n : Nat) (v : BitVec 128), r = .acc (.write n v) → n ∈ [1, 2, 4, 8, 16] → pa % n = 0 →
        ∃ t : State, exec (.peerRequest pa r) s = Host.Outcome.next t ∧ t.b = s.b ∧ Holds t pa n v.toNat ∧
          MemoryOutside s t pa n) ∧
      (∀ (n : Nat) (v : BitVec 128), r = .atom 0 .n32 n v → n = 4 → pa % 4 = 0 →
        ∃ t : State, exec (.peerRequest pa r) s = Host.Outcome.next t ∧ MemoryOutside s t pa 4 ∧
          Holds t pa 4 ((s.rd pa 4 + v.toNat) % 2 ^ 32)))

/-- R386, R390, R391: after a Function Level Reset no launch and no access of the partition is left, and its
queue registers are as after reset but for LASTACC and LASTDONE. A good flit ends the count of replays; for a
bad one a replay is asked, and a flit that has been replayed eight times and is still bad takes the link down.
SIRXO_BOOT brings the device up with its links where the image is good, and leaves it in recovery where it is not.
R392, R393, R394: Sirxo's mailboxes and control. SPDM answers with versions 1.2 and 1.3, with SM2_P256 and
SM3_256, with the certificates of the function and their digest, with the nonce signed, and with four
measurements, of which the third is of the calendars, quotas and SIGNREQ as they are and the fourth is DEVIDENT.
A power sample is what the telemetry registers then read, and the clock falls by a step of 25 MHz above the
power limit or at 105 degrees, down to 625 MHz, and rises, up to 1,250 MHz, once the power is three per cent
below it; while a PREEMPT or a host KILL has not finished it is 1,250 MHz. At 115 degrees every launch that has
not been killed, a LAUNCH that was accepted and not yet performed among them, is killed with status 2 and the cores
are held in reset. (The model's choices: that a reset
drops accesses in flight, log 54; the CRC's form, and where in a link's replays it goes down, log 30; that
SIRXO_BOOT of a device that is up does nothing, and boots it after a shutdown, log 55; what the image, the keys
and the hash are, and what a measurement says that it covers, log 56; that the clock rises by the same 25 MHz,
log 33.) -/
def Obligations.Platform : Prop :=
  ((∀ (s : State) (p : Nat), ∃ t : State, exec (.functionLevelReset p) s = Host.Outcome.next t ∧
     (∀ l ∈ t.launches, l.part ≠ p) ∧ (∀ x ∈ t.loads, x.part ≠ p) ∧ (∀ x ∈ t.stores, x.by_.part ≠ p) ∧
     ∀ q : Nat, (t.part p).queue q = { SQueue.reset with
       lastacc := ((t.part p).queue q).lastacc, lastdone := ((t.part p).queue q).lastdone }) ∧
   (∀ (s : State) (k : Nat) (l : Link) (flit : List Byte), s.links[k]? = some l →
     (∃ t : State, exec (.flitReceive k flit) s = Host.Outcome.next t ∧ t = { s with links := t.links } ∧
       t.links[k]? = some (if l.up = false then l
         else if flit.length == 256 && flit.drop 248 == leBytes 8 (crc64 (flit.take 248)).toNat then
           { l with asked := false, replays := 0 }
         else if 8 ≤ l.replays then { l with up := false, asked := false }
         else { l with asked := true }) ∧
       ∀ j : Nat, j ≠ k → t.links[j]? = s.links[j]?) ∧
     ∃ t : State, exec (.flitReplay k) s = Host.Outcome.next t ∧ t = { s with links := t.links } ∧
       t.links[k]? = some (if l.up = false ∨ l.asked = false then l
         else { l with asked := false, replays := min 8 (l.replays + 1) }) ∧
       ∀ j : Nat, j ≠ k → t.links[j]? = s.links[j]?) ∧
   ∀ s : State,
     (s.sirxo.booted = true → s.sirxo.shutdown = false → exec .sirxoBoot s = Host.Outcome.next s) ∧
     (s.sirxo.booted = false ∨ s.sirxo.shutdown = true → s.sirxo.imageOk = false →
       exec .sirxoBoot s = Host.Outcome.next { s with sirxo := { s.sirxo with booted := false, recovery := true } }) ∧
     (s.sirxo.booted = false ∨ s.sirxo.shutdown = true → s.sirxo.imageOk = true → ∃ t : State, exec .sirxoBoot s = Host.Outcome.next t ∧
       t = { s with calnet := t.calnet, calmem := t.calmem, links := t.links, sirxo := t.sirxo } ∧
       t.sirxo = { s.sirxo with booted := true, recovery := false, shutdown := false } ∧
       t.links.length = 18 ∧ ∀ l ∈ t.links, l.up = true)) ∧
  ((∀ (s : State) (p : Nat) (nonce : BitVec 256),
     let image (x : Nat) : Nat := (Config.sm3 x).toNat
     let measured : List Measurement :=
       [{ index := 1, covers := Config.romData, value := image Config.romData },
        { index := 2, covers := Config.imageData, value := image Config.imageData },
        { index := 3, covers := s.config, value := image s.config },
        { index := 4, covers := devident p, value := devident p }]
     ∀ r ∈ ([(.getVersion p, .version [0x12, 0x13]), (.getCapabilities p, .capabilities Config.spdmCaps),
         (.negotiateAlgorithms p, .algorithms .sm2P256 .sm3_256),
         (.getDigests p, .digests (Config.sm3 (Config.certChain p))),
         (.getCertificate p, .certificate (Config.certChain p)),
         (.challenge p nonce, .challengeAuth nonce.toNat (Config.sm2 nonce.toNat)),
         (.getMeasurements p, .measurements measured)] : List (Instr × SpdmAnswer)),
       ∃ t : State, exec r.1 s = Host.Outcome.next t ∧ t = { s with sirxo := t.sirxo } ∧
         t.sirxo = { s.sirxo with doe := t.sirxo.doe } ∧
         (t.sirxo.doe.find? fun x => x.1 == p) = some (p, r.2) ∧
         ∀ q : Nat, q ≠ p → (t.sirxo.doe.find? fun x => x.1 == q) = s.sirxo.doe.find? fun x => x.1 == q) ∧
   (∀ (s : State) (m : PowerMeasure), ∃ t : State, exec (.powerSample m) s = Host.Outcome.next t ∧
     let raised : Prop := ∃ e ∈ s.parts, ∃ c ∈ e.2.cmds,
       c.op = 2 ∨ (c.op = 3 ∧ ¬ (c.begun = true ∧ s.haltDone e.1 = true))
     t = { s with sirxo := t.sirxo } ∧
     t.sirxo = { s.sirxo with throttle := t.sirxo.throttle, clknow := t.sirxo.clknow, pnow := m.watts,
                              icore := m.icore, tjmax := m.tj, hbmw := m.hbm } ∧
     (raised → t.sirxo.clknow = 1250) ∧ (¬ raised → t.sirxo.clknow = t.sirxo.throttle) ∧
     (s.sirxo.plimit < m.watts ∨ 840 ≤ m.tj → t.sirxo.throttle = max 625 (s.sirxo.throttle - 25)) ∧
     (m.watts ≤ s.sirxo.plimit → m.tj < 840 → 100 * m.watts ≤ 97 * s.sirxo.plimit →
       t.sirxo.throttle = min 1250 (s.sirxo.throttle + 25)) ∧
     (m.watts ≤ s.sirxo.plimit → m.tj < 840 → 97 * s.sirxo.plimit < 100 * m.watts →
       t.sirxo.throttle = s.sirxo.throttle) ∧
     (s.sirxo.booted = true → t.hostReg 0 0x908 = m.watts ∧ t.hostReg 0 0x910 = t.sirxo.clknow ∧
       t.hostReg 0 0x958 = m.tj ∧ t.hostReg 0 0x960 = m.hbm ∧ t.hostReg 0 0x900 = s.sirxo.plimit)) ∧
   ∀ s : State,
     (s.sirxo.tjmax < 920 → exec .thermalShutdown s = Host.Outcome.next s) ∧
     (920 ≤ s.sirxo.tjmax → ∃ t : State, exec .thermalShutdown s = Host.Outcome.next t ∧
       t.sirxo = { s.sirxo with shutdown := true } ∧
       ((s.launches.map fun x => (x.part, x.id)).Nodup → s.wins = [] →
         (∀ x ∈ s.launches, x.part < 16 → x.killed = false →
           (t.launch x.part x.id).map (fun y => (y.killed, y.endst)) = some (true, 2)) ∧
         ∀ p : Nat, p < 16 → ((s.part p).cmds.map fun c => (c.q, c.subseq)).Nodup →
           (∀ c ∈ (t.part p).cmds, c.op ≠ 1) ∧
           ∀ (id : Nat) (x : Launch), t.launch p id = some x → x.killed = true)))

/-! ## The machine -/

/-- R47, R48, R56, R63, R130, R131, R151, R288, R312, R354: what happens to an instruction that does not issue
as it stands, in the order of the checks. A rejoin point rejoins first, and a cancelled bough stops; then an
illegal instruction, an illegal register, a guard that holds in no active lane (nothing is written), illegal
convergence and illegal in refill; and then what is in flight holds it. R357, R361, R362: a trap enters its
partition's handler, or writes a record and kills the launch with end status 1. (The model's choices: that a
rejoin comes before a cancellation, log 34; that a CAS which still owes its predicate holds every later
instruction of its bough, log 18; that a trap which kills holds while the ring is full, log 48.) -/
def Obligations.GateTraps : Prop :=
  (∀ (i : Instr) (s : State), i.view.isSome = true →
    let h := hdrOf i
    let rejoins : Prop := s.b.nf ≠ 0 ∧ isRejoin i = true
    let stops : Prop := (s.b.sib.any fun x => x.cancelled) = true ∧ isCancelPoint i = true
    let illegal : Prop := i.legal = false ∨ fmtAccepts s.b.fmt i = false ∨
      (h.fs ≠ .none ∧ s.b.fsFlag h.fs = none) ∨ (isSystem i = true ∧ s.b.sysmode = false) ∨
      s.illegalHere i = true
    let diverged : Prop := needsFull i = true ∧ s.b.emr ≠ s.b.live
    let inside : Prop := s.b.refill ≠ none ∧ badInRefill i = true
    let traps (cause detail : Nat) : Prop := exec i s = Host.Outcome.next (s.takeTrap cause detail 0)
    (rejoins → exec i s = Host.Outcome.next (s.endSplit s.b.pc)) ∧
    (¬ rejoins → stops → exec i s = Host.Outcome.next s.cancelStop) ∧
    (¬ rejoins → ¬ stops → illegal → traps cIllegal 0) ∧
    (¬ rejoins → ¬ stops → ¬ illegal →
      (∀ n : Nat, s.b.badReg i = some n → traps cRegister n) ∧
      (s.b.badReg i = none → s.b.guard h = 0 →
        ∃ t : State, exec i s = Host.Outcome.next t ∧ QuietFrame s t ∧
          (s.b.rep = none → t.b.pc = nextAddr s.b.pc (isPair i)) ∧ t.b.flags = s.b.flags) ∧
      (s.b.badReg i = none → s.b.guard h ≠ 0 →
        (diverged → traps cConverge 0) ∧
        (¬ diverged → inside → traps cRefill 0) ∧
        (¬ diverged → ¬ inside →
          (s.scoreboard i = true ∨ s.predPending s.b.uid = true →
            exec i s = Host.Outcome.next (s.hold .scoreboard)) ∧
          (s.scoreboard i = false → s.predPending s.b.uid = false → isMem i = true →
            s.acquiring s.b.uid = true → exec i s = Host.Outcome.next (s.hold .fence)))))) ∧
  ∀ (s : State) (cause detail : Nat) (addr : W64) (l : Launch), s.b.emr ≠ 0 → s.b.deepLanes s.b.emr = 0 →
    s.launchOf s.b = some l → l.killed = false →
    let p := s.part s.b.part
    let t := s.takeTrap cause detail addr
    (s.b.sysmode = false → p.trapvec ≠ 0 → s.targetOk s.b p.trapvec = true →
      t = { s with b := t.b } ∧ t.b.pc = p.trapvec ∧ t.b.epc = s.b.pc ∧ t.b.emask = s.b.emr ∧
        t.b.eaddr = addr ∧ t.b.sysmode = true ∧ t.b.emr = s.b.emr ∧ t.b.vregs = s.b.vregs ∧
        t.b.sregs = s.b.sregs ∧ t.b.preds = s.b.preds ∧
        t.b.ecause = BitVec.ofNat 64 (1 + 2 ^ 4 * (cause % 2 ^ 8) + 2 ^ 12 * (detail % 2 ^ 24))) ∧
    (s.b.sysmode = true ∨ p.trapvec = 0 →
      (s.ringBusy s.b.part = true → t = s.markTrap.hold .fault) ∧
      (s.ringBusy s.b.part = false → ∃ x : Launch, t.launchOf s.b = some x ∧ x.killed = true ∧ x.endst = 1 ∧
        x.faultseq = seqOf p.recs ∧ (t.part s.b.part).recs = p.recs + 1))

/-- R62: the system-mode opcodes are SRGET.sys, SRSET.sys, TLBINV, HALT, CTXSAVE, CTXREST and ERET, and no
other. A bough not in system mode that reaches one of them takes the illegal-instruction trap. -/
def Obligations.SystemModeOpcodes : Prop :=
  (∀ i : Instr, isSystem i = true ↔ ∃ (h : Hdr) (f : FmtY), i = .srget true h f ∨ i = .srset true h f ∨
     i = .tlbinv h f ∨ i = .halt h f ∨ i = .ctxsave h f ∨ i = .ctxrest h f ∨ i = .eret h f) ∧
  ∀ (i : Instr) (s : State), isSystem i = true → s.b.sysmode = false →
    exec i s = Host.Outcome.next (s.takeTrap cIllegal 0 0)

/-- R26, R34, R36, R37, R63, R121, R122, R354: a step runs the instruction that the bytes at the PC decode to.
Where the focus bough may issue, is alone on its quadrant, stands in its line and is at no end of its split,
one cycle passes and `exec` runs the instruction of the slot, or of the pair, or the next repetition of it, which
is an illegal instruction before it is an illegal register (R63);
bytes that decode to nothing are an illegal instruction, but a cancelled bough stops at such a word too where its
opcode is a cancellation point. Of the ready boughs of a quadrant one that has been ready for three cycles for
each bough there goes first, the longest ready before the others, and else the one of the highest class, and in
it the oldest. (Which quadrant has its turn when, and that the count of ready cycles moves with the turns, is
the model's choice, log 2.) -/
def Obligations.StepRunsDecoded : Prop :=
  (∀ (s : State) (x : BitVec 512), s.agenda = [] → s.sirxo.booted = true → s.sirxo.shutdown = false →
    s.b.status = .running → s.b.wait = .none → (s.time + 1) % 64 < 62 → (s.part s.b.part).halted = false →
    (∀ c : Copse, s.copseOf s.b = some c → c.at_ = .resident) →
    (∀ d ∈ (s.part s.b.part).dooms, d.uid ≠ s.b.uid) → (∀ c ∈ s.copses, ∀ a : Nat, c.at_ ≠ .saved a) → (∀ b ∈ s.allBoughs, b.status ≠ .ended) →
    (∀ b ∈ s.boughs, b.core = s.b.core → b.slot / 12 = s.b.slot / 12 → b.status ≠ .running) →
    s.b.emr ≠ 0 → s.atJoin = false → s.atEnd = false → s.b.entered = true →
    s.b.line = some { addr := lineAddr s.b.pc, bits := x } →
    let k := slotOf s.b.pc
    let bytes := if linePair x k then leBytes 12 (lineSlot x k) ++ leBytes 12 (lineSlot x (k + 1))
      else leBytes 12 (lineSlot x k)
    let cancelled : Prop := (s.b.sib.any fun y => y.cancelled) = true
    let uncount (b : Bough) : Bough := { b with ready := 0 }
    ∃ u : State, u = { s with time := s.time + 1, b := u.b, boughs := u.boughs } ∧ uncount u.b = uncount s.b ∧
      u.boughs.map uncount = s.boughs.map uncount ∧
      (∀ i : Instr, decode bytes = .ok i → s.b.rep = none → step s = exec i u) ∧
      (∀ (i j : Instr) (r : Rep), decode bytes = .ok i → s.b.rep = some r →
        (cancelled → isCancelPoint i = true → step s = exec i u) ∧
        (¬ (cancelled ∧ isCancelPoint i = true) →
          (repOk r i = false → step s = Host.Outcome.next (u.takeTrap cIllegal 0 0)) ∧
          (r.left = 0 → repOk r i = true → (∀ c d : Nat, gate i u ≠ .trap c d) → step s =
            Host.Outcome.next (u.modB fun b => { b with rep := none, pc := nextAddr b.pc false })) ∧
          (r.left ≠ 0 → repOk r i = true →
            (advInstr r i = none ∨ (advInstr r i = some j ∧ j.legal = false) →
              step s = Host.Outcome.next (u.takeTrap cIllegal 0 0)) ∧
            (advInstr r i = some j → j.legal = true →
              (advOut r i = none → step s = exec j u) ∧
              ∀ n : Nat, advOut r i = some n → step s = Host.Outcome.next (u.takeTrap cRegister n 0))))) ∧
      ∀ e : DecodeErr, decode bytes = .error e →
        (¬ (cancelled ∧ cancelOp (lineSlot x k) = true) → step s = Host.Outcome.next (u.takeTrap cIllegal 0 0)) ∧
        (cancelled → cancelOp (lineSlot x k) = true → s.b.nf = 0 → step s = Host.Outcome.next u.cancelStop)) ∧
  ∀ (s : State) (b : Bough), s.bough b.uid = some b → 1 < (s.quadrant b).length →
    let ready := (s.quadrant b).filter fun x => s.isReady x
    let late (x : Bough) : Prop := 3 * (s.quadrant b).length ≤ x.ready
    ready ≠ [] → ∃ x ∈ ready, s.turnOf b.uid = s.focus x.uid ∧
      ((∃ y ∈ ready, late y) → late x ∧ ∀ y ∈ ready, y.ready ≤ x.ready) ∧
      ((∀ y ∈ ready, ¬ late y) → ∀ y ∈ ready, lexLess (s.rank y) (s.rank x) = false)

/-- R13, R31, R88, R382, R388, R394: the device after reset. TIME is 0, every bank is CAC, nothing is launched or in
flight, the registers of every partition have their reset values, no byte of memory is listed and memory is in
its canonical form. (That a byte then reads as 0 is the model's choice, log 5.) -/
def Obligations.ResetState : Prop :=
  let s := State.reset
  s.time = 0 ∧ s.memOk ∧ s.mem = [] ∧ s.launches = [] ∧ s.copses = [] ∧ s.allBoughs = [] ∧ s.loads = [] ∧
  s.stores = [] ∧ s.atoms = [] ∧ s.sirxo.plimit = 8000 ∧
  (∀ k b : Nat, (s.core k).role b = .cac ∧ (s.core k).owner b = none) ∧
  ∀ p q : Nat, (s.part p).leaseLen = 1024 ∧ (s.part p).lwt = 125000 ∧ (s.part p).fqsize = 6 ∧
    (s.part p).ptroot = 0 ∧ (s.part p).atomplace = 0 ∧ (s.part p).trapvec = 0 ∧ (s.part p).dbgctl = 0 ∧
    (s.part p).fqbase = 0 ∧ (s.part p).fqhead = 0 ∧ (s.part p).errstat = 0 ∧ (s.part p).quota = 0 ∧
    ((s.part p).queue q).sqsize = 0 ∧ ((s.part p).queue q).lastacc = 0 ∧ ((s.part p).queue q).lastdone = 0

/-- R17, R18, R199: memory stays in its canonical form: whatever a step does, addresses rise and no listed byte
is the zero that an unlisted one reads as. -/
def Obligations.StepKeepsMemory : Prop :=
  ∀ s t : State, s.memOk → step s = Host.Outcome.next t → t.memOk

/-- R34, R47 to R61, R323: every legal instruction has words of 96 bits, and the decoder reads the instruction
back from them, whatever its operands. A step of the device or of the host has none. -/
def Obligations.DecodeEncode : Prop :=
  ∀ i : Instr,
    (i.view = none → encode i = none) ∧
    (∀ (h : Hdr) (p : Payload), i.view = some (h, p) → i.legal = true →
      ∃ (w : Nat) (w2 : Option Nat), encode i = some (w, w2) ∧ w < 2 ^ 96 ∧ (∀ x : Nat, w2 = some x → x < 2 ^ 96) ∧
        (w2.isSome = isPair i) ∧
        decode (leBytes 12 w ++ (w2.map fun x => leBytes 12 x).getD []) = .ok i)

/-- R63, R65, R133, R217, R229, R297, R325 and the pages of LD, ST, LOOP, BALLOT and TIMEGET: words of the manual's
encodings decode to the instructions that they stand for, and a NOP with FS = 11 to none. -/
def Obligations.SpecWords : Prop :=
  let h : Hdr := { pg := 7, pn := false, fs := .none, tr := false }
  (∀ r ∈ ([
    (0x44700000_00007000_00000000, .nop h
      { sd := 0, s1 := 0, s2 := 0, s3 := 0, vd := 0, pd := none, sub := 0, imm := 0 }),
    (0xE4F01C00_00007000_00000000, .timeget h
      { sd := 7, s1 := 0, s2 := 0, s3 := 0, vd := 0, pd := none, sub := 0, imm := 0 }),
    (0xC9700042_40007000_00000000, .ballot h
      { sd := 0, s1 := 4, s2 := 9, s3 := 0, vd := 0, pd := none, sub := 0, imm := 0 }),
    (0xC1700000_00083000_00000000, .twait false h
      { sd := 0, s1 := 0, s2 := 0, s3 := 0, vd := 8, pd := some 3, sub := 0, imm := 0 }),
    (0x9AF00000_00007000_00000043, .barArrive h
      { sd := 0, s1 := 0, s2 := 0, s3 := 0, vd := 0, pd := none, sub := 0, imm := 0x43 }),
    (0xA370FFF0_00000099_00000000, .mma false h
      { tk := 63, fp := 63, pa := 0, pb := 0, pc := 0, vx := 0, sla := 2, slb := 6, acc := 1, sub := 0, imm := 0 })] :
    List (Nat × Instr)), decode (leBytes 12 r.1) = .ok r.2) ∧
  (decode (leBytes 12 0x44760000_00007000_00000000)).toOption = none

end
end

