-- ==== Sys2Proof/Laws/Codec.lean ====
section
/-! SUPPORT. What the codec of Decode.lean does: fields that fit their widths are read back from the word they
are joined to, and each format of R47 to R55 and R323 is read back from its own fields. -/

namespace Sys2Proof

namespace Laws

/-- Every field fits its width. -/
def Fits (l : List (Nat × Nat)) : Prop := ∀ x ∈ l, x.2 < 2 ^ x.1

theorem splitBits_joinBits : ∀ l : List (Nat × Nat),
  Fits l → splitBits (l.map (·.1)) (joinBits l) = l.map (·.2)
  | [], _ => rfl
  | (w, v) :: r, h => by
    have hv : v < 2 ^ w := h (w, v) (by simp)
    have hr := splitBits_joinBits r fun x hx => h x (by simp [hx])
    have e : joinBits ((w, v) :: r) = v + 2 ^ w * joinBits r := by simp [joinBits, Nat.mod_eq_of_lt hv]
    rw [e]
    simp only [List.map_cons, splitBits, Nat.add_mul_mod_self_left, Nat.mod_eq_of_lt hv]
    rw [Nat.add_mul_div_left _ _ (Nat.two_pow_pos w), Nat.div_eq_of_lt hv, Nat.zero_add, hr]

/-- The width of a word of fields. -/
def total (l : List (Nat × Nat)) : Nat := (l.map (·.1)).sum

theorem joinBits_lt : ∀ l : List (Nat × Nat), joinBits l < 2 ^ total l
  | [] => by simp [joinBits, total]
  | (w, v) :: r => by
    have h := joinBits_lt r
    simp only [joinBits, total, List.map_cons, List.sum_cons, Nat.pow_add]
    have := Nat.mod_lt v (Nat.two_pow_pos w)
    have e : 2 ^ w * (joinBits r + 1) ≤ 2 ^ w * 2 ^ total r := Nat.mul_le_mul_left _ h
    rw [Nat.mul_add] at e
    simp only [total] at e
    omega

theorem joinBits_append (l m : List (Nat × Nat)) : joinBits (l ++ m) = joinBits l + 2 ^ total l * joinBits m := by
  induction l with
  | nil => simp [joinBits, total]
  | cons x r ih =>
    obtain ⟨w, v⟩ := x
    simp only [List.cons_append, joinBits, ih, total, List.map_cons, List.sum_cons, Nat.pow_add,
      Nat.mul_add, Nat.mul_assoc, Nat.add_assoc]

theorem leNat_leBytes : ∀ k n : Nat, n < 256 ^ k → leNat (leBytes k n) = n
  | 0, n, h => by simp at h; simp [leBytes, leNat, h]
  | k + 1, n, h => by
    have : n / 256 < 256 ^ k := by
      rw [Nat.div_lt_iff_lt_mul (by decide)]
      rwa [Nat.pow_succ] at h
    simp only [leBytes, leNat, leNat_leBytes k _ this, BitVec.toNat_ofNat]
    omega

theorem leBytes_length (k n : Nat) : (leBytes k n).length = k := by
  induction k generalizing n with
  | zero => rfl
  | succ k ih => simp [leBytes, ih]

theorem fs_code (c : Fs) : Fs.ofCode c.code = some c := by cases c <;> rfl
theorem ty_code (a : Ty) : Ty.ofCode a.code = some a := by cases a <;> rfl
theorem rm_code (a : Rm) : Rm.ofCode a.code = some a := by cases a <;> rfl
theorem space_code (a : Space) : Space.ofCode a.code = some a := by cases a <;> rfl
theorem am_code (a : Am) : Am.ofCode a.code = some a := by cases a <;> rfl
theorem scope_code (a : Scope) : Scope.ofCode a.code = some a := by cases a <;> rfl
theorem sz_code (a : Sz) : Sz.ofCode a.code = some a := by cases a <;> rfl
theorem bm_code (a : Bm) : Bm.ofCode a.code = some a := by cases a <;> rfl
theorem pd_code (a : Pd) : Pd.ofCode (Pd.code a) = some a := by
  rcases a with _ | ⟨k, hk⟩
  · rfl
  · simp [Pd.code, Pd.ofCode, hk]
theorem slot_code (a : Fin 5) : slotOfCode a.val = some a := by simp [slotOfCode]
theorem bit_eq (b : Bool) : (bit b == 1) = b := by cases b <;> rfl
theorem fs_lt (c : Fs) : c.code < 4 := by cases c <;> decide
theorem ty_lt (a : Ty) : a.code < 16 := by cases a <;> decide
theorem rm_lt (a : Rm) : a.code < 8 := by cases a <;> decide
theorem space_lt (a : Space) : a.code < 4 := by cases a <;> decide
theorem am_lt (a : Am) : a.code < 4 := by cases a <;> decide
theorem scope_lt (a : Scope) : a.code < 8 := by cases a <;> decide
theorem sz_lt (a : Sz) : a.code < 8 := by cases a <;> decide
theorem slot_lt (a : Fin 5) : a.val < 8 := by omega
theorem bm_lt (a : Bm) : a.code < 4 := by cases a <;> decide
theorem pd_lt (a : Pd) : Pd.code a < 16 := by
  rcases a with _ | ⟨k, hk⟩
  · decide
  · simp [Pd.code]; omega
theorem bit_lt (b : Bool) : bit b < 2 := by cases b <;> decide

theorem parseA_fields (f : FmtA) : parseA (joinBits (fieldsA f)) = .ok f := by
  have h := splitBits_joinBits (fieldsA f) (by
    intro x hx
    simp only [fieldsA, List.mem_cons, List.not_mem_nil, or_false] at hx
    rcases hx with rfl | rfl | rfl | rfl | rfl | rfl | rfl | rfl | rfl | rfl | rfl | rfl | rfl <;>
      first
        | exact BitVec.isLt _
        | exact bit_lt _
        | exact pd_lt _
        | exact rm_lt _
        | exact ty_lt _
        | exact Nat.two_pow_pos _)
  simp only [fieldsA, List.map_cons, List.map_nil] at h
  unfold parseA
  simp only [fieldsA]
  rw [h]
  simp [zeroField, need, pd_code, rm_code, ty_code, bit_eq, bind, Except.bind, pure, Except.pure]
theorem parseI_fields (f : FmtI) : parseI (joinBits (fieldsI f)) = .ok f := by
  have h := splitBits_joinBits (fieldsI f) (by
    intro x hx
    simp only [fieldsI, List.mem_cons, List.not_mem_nil, or_false] at hx
    rcases hx with rfl | rfl | rfl | rfl | rfl | rfl | rfl | rfl | rfl | rfl | rfl <;>
      first
        | exact BitVec.isLt _
        | exact bit_lt _
        | exact pd_lt _
        | exact rm_lt _
        | exact ty_lt _
        | exact Nat.two_pow_pos _)
  simp only [fieldsI, List.map_cons, List.map_nil] at h
  unfold parseI
  simp only [fieldsI]
  rw [h]
  simp [zeroField, need, pd_code, rm_code, ty_code, bit_eq, bind, Except.bind, pure, Except.pure]
theorem parseM_fields (f : FmtM) : parseM (joinBits (fieldsM f)) = .ok f := by
  have h := splitBits_joinBits (fieldsM f) (by
    intro x hx
    simp only [fieldsM, List.mem_cons, List.not_mem_nil, or_false] at hx
    rcases hx with rfl | rfl | rfl | rfl | rfl | rfl | rfl | rfl | rfl | rfl | rfl | rfl | rfl <;>
      first
        | exact BitVec.isLt _
        | exact bit_lt _
        | exact pd_lt _
        | exact scope_lt _
        | exact ty_lt _
        | exact space_lt _
        | exact am_lt _
        | exact sz_lt _)
  simp only [fieldsM, List.map_cons, List.map_nil] at h
  unfold parseM
  simp only [fieldsM]
  rw [h]
  simp [need, pd_code, sz_code, scope_code, am_code, space_code, ty_code, bit_eq, bind, Except.bind, pure,
    Except.pure]
theorem parseJ_fields (f : FmtJ) : parseJ (joinBits (fieldsJ f)) = .ok f := by
  have h := splitBits_joinBits (fieldsJ f) (by
    intro x hx
    simp only [fieldsJ, List.mem_cons, List.not_mem_nil, or_false] at hx
    rcases hx with rfl | rfl | rfl | rfl | rfl | rfl | rfl <;>
      first
        | exact BitVec.isLt _
        | exact bm_lt _
        | exact Nat.two_pow_pos _
        | exact slot_lt _)
  simp only [fieldsJ, List.map_cons, List.map_nil] at h
  unfold parseJ
  simp only [fieldsJ]
  rw [h]
  simp [zeroField, need, slot_code, bm_code, bind, Except.bind, pure, Except.pure]
theorem parseE_fields (f : FmtE) : parseE (joinBits (fieldsE f)) = .ok f := by
  have h := splitBits_joinBits (fieldsE f) (by
    intro x hx
    simp only [fieldsE, List.mem_cons, List.not_mem_nil, or_false] at hx
    rcases hx with rfl | rfl | rfl | rfl | rfl | rfl | rfl | rfl | rfl | rfl | rfl <;> exact BitVec.isLt _)
  simp only [fieldsE, List.map_cons, List.map_nil] at h
  unfold parseE
  simp only [fieldsE]
  rw [h]
  simp [pure, Except.pure]
theorem parseY_fields (f : FmtY) : parseY (joinBits (fieldsY f)) = .ok f := by
  have h := splitBits_joinBits (fieldsY f) (by
    intro x hx
    simp only [fieldsY, List.mem_cons, List.not_mem_nil, or_false] at hx
    rcases hx with rfl | rfl | rfl | rfl | rfl | rfl | rfl | rfl | rfl <;>
      first
        | exact BitVec.isLt _
        | exact pd_lt _
        | exact Nat.two_pow_pos _)
  simp only [fieldsY, List.map_cons, List.map_nil] at h
  unfold parseY
  simp only [fieldsY]
  rw [h]
  simp [zeroField, need, pd_code, bind, Except.bind, pure, Except.pure]
theorem parseMbr_fields (f : FmtMbr) : parseMbr (joinBits (fieldsMbr f)) (joinBits (fieldsMbr2 f)) = .ok f := by
  have h := splitBits_joinBits (fieldsMbr f) (by
    intro x hx
    simp only [fieldsMbr, pairFields, List.cons_append, List.nil_append, List.mem_cons, List.not_mem_nil,
      or_false] at hx
    rcases hx with rfl | rfl | rfl | rfl | rfl | rfl | rfl | rfl | rfl | rfl | rfl <;>
      first
        | exact BitVec.isLt _
        | exact bit_lt _
        | exact Nat.two_pow_pos _
        | exact slot_lt _)
  have h2 := splitBits_joinBits (fieldsMbr2 f) (by
    intro x hx
    simp only [fieldsMbr2, pairFields, List.cons_append, List.nil_append, List.mem_cons, List.not_mem_nil,
      or_false] at hx
    rcases hx with rfl | rfl | rfl | rfl | rfl | rfl | rfl | rfl | rfl | rfl <;>
      first
        | exact BitVec.isLt _
        | exact bit_lt _
        | exact Nat.two_pow_pos _
        | exact slot_lt _)
  simp only [fieldsMbr, fieldsMbr2, pairFields, List.cons_append, List.nil_append, List.map_cons,
    List.map_nil] at h h2
  unfold parseMbr
  simp only [fieldsMbr, fieldsMbr2, pairFields, List.cons_append, List.nil_append]
  rw [h, h2]
  simp [zeroField, need, mbrPair, slot_code, bit_eq, bind, Except.bind, pure, Except.pure]
theorem parseMovw_fields (f : FmtMovw) : parseMovw (joinBits (fieldsMovw f)) (joinBits (fieldsMovw2 f)) = .ok f := by
  have h := splitBits_joinBits (fieldsMovw f) (by
    intro x hx
    simp only [fieldsMovw, List.mem_cons, List.not_mem_nil, or_false] at hx
    rcases hx with rfl | rfl | rfl <;>
      first
        | exact BitVec.isLt _
        | exact bit_lt _
        | exact Nat.two_pow_pos _)
  have h2 := splitBits_joinBits (fieldsMovw2 f) (by
    intro x hx
    simp only [fieldsMovw2, List.mem_cons, List.not_mem_nil, or_false] at hx
    rcases hx with rfl | rfl <;>
      first
        | exact BitVec.isLt _
        | exact Nat.two_pow_pos _)
  simp only [fieldsMovw, fieldsMovw2, List.map_cons, List.map_nil] at h h2
  unfold parseMovw
  simp only [fieldsMovw, fieldsMovw2]
  rw [h, h2]
  simp [zeroField, bit_eq, bind, Except.bind, pure, Except.pure]
theorem parseAttn2_fields (f : AttnMask) : parseAttn2 (joinBits (fieldsAttn2 f)) = .ok f := by
  have h := splitBits_joinBits (fieldsAttn2 f) (by
    intro x hx
    simp only [fieldsAttn2, List.mem_cons, List.not_mem_nil, or_false] at hx
    rcases hx with rfl | rfl | rfl | rfl | rfl | rfl <;>
      first
        | exact BitVec.isLt _
        | exact bit_lt _
        | exact Nat.two_pow_pos _)
  simp only [fieldsAttn2, List.map_cons, List.map_nil] at h
  unfold parseAttn2
  simp only [fieldsAttn2]
  rw [h]
  simp [zeroField, bit_eq, bind, Except.bind, pure, Except.pure]
theorem parseHdr_fields (op : Nat) (h : Hdr) (ho : op < 512) : parseHdr (joinBits (hdrFields op h)) = .ok (op, h) := by
  have k := splitBits_joinBits (hdrFields op h) (by
    intro x hx
    simp only [hdrFields, List.mem_cons, List.not_mem_nil, or_false] at hx
    rcases hx with rfl | rfl | rfl | rfl | rfl <;>
      first
        | exact BitVec.isLt _
        | exact bit_lt _
        | exact fs_lt _
        | exact ho)
  simp only [hdrFields, List.map_cons, List.map_nil] at k
  unfold parseHdr
  simp only [hdrFields, hdrWidths]
  rw [k]
  simp [need, fs_code, bit_eq, bind, Except.bind, pure, Except.pure]

end Laws

end Sys2Proof
end

