-- ==== Sys2Proof/Laws/Exec.lean ====
section
/-! SUPPORT. `exec` calls each instruction's meaning: one equation per constructor. -/

namespace Sys2Proof.Machine

@[simp] theorem exec_iadd h f (s : State) : exec (.iadd h f) s = execIadd h f s := rfl
@[simp] theorem exec_isub h f (s : State) : exec (.isub h f) s = execIsub h f s := rfl
@[simp] theorem exec_imul h f (s : State) : exec (.imul h f) s = execImul h f s := rfl
@[simp] theorem exec_imulhi h f (s : State) : exec (.imulhi h f) s = execImulhi h f s := rfl
@[simp] theorem exec_imad h f (s : State) : exec (.imad h f) s = execImad h f s := rfl
@[simp] theorem exec_imin h f (s : State) : exec (.imin h f) s = execImin h f s := rfl
@[simp] theorem exec_imax h f (s : State) : exec (.imax h f) s = execImax h f s := rfl
@[simp] theorem exec_iabs h f (s : State) : exec (.iabs h f) s = execIabs h f s := rfl
@[simp] theorem exec_icmp h f (s : State) : exec (.icmp h f) s = execIcmp h f s := rfl
@[simp] theorem exec_isel h f (s : State) : exec (.isel h f) s = execIsel h f s := rfl
@[simp] theorem exec_andL h f (s : State) : exec (.andL h f) s = execAnd h f s := rfl
@[simp] theorem exec_orL h f (s : State) : exec (.orL h f) s = execOr h f s := rfl
@[simp] theorem exec_xorL h f (s : State) : exec (.xorL h f) s = execXor h f s := rfl
@[simp] theorem exec_notL h f (s : State) : exec (.notL h f) s = execNot h f s := rfl
@[simp] theorem exec_tern h f (s : State) : exec (.tern h f) s = execTern h f s := rfl
@[simp] theorem exec_shl h f (s : State) : exec (.shl h f) s = execShl h f s := rfl
@[simp] theorem exec_shr h f (s : State) : exec (.shr h f) s = execShr h f s := rfl
@[simp] theorem exec_sha h f (s : State) : exec (.sha h f) s = execSha h f s := rfl
@[simp] theorem exec_fshl h f (s : State) : exec (.fshl h f) s = execFshl h f s := rfl
@[simp] theorem exec_fshr h f (s : State) : exec (.fshr h f) s = execFshr h f s := rfl
@[simp] theorem exec_popc h f (s : State) : exec (.popc h f) s = execPopc h f s := rfl
@[simp] theorem exec_clz h f (s : State) : exec (.clz h f) s = execClz h f s := rfl
@[simp] theorem exec_brev h f (s : State) : exec (.brev h f) s = execBrev h f s := rfl
@[simp] theorem exec_bfx h f (s : State) : exec (.bfx h f) s = execBfx h f s := rfl
@[simp] theorem exec_bfi h f (s : State) : exec (.bfi h f) s = execBfi h f s := rfl
@[simp] theorem exec_bsel h f (s : State) : exec (.bsel h f) s = execBsel h f s := rfl
@[simp] theorem exec_mov h f (s : State) : exec (.mov h f) s = execMov h f s := rfl
@[simp] theorem exec_movi h f (s : State) : exec (.movi h f) s = execMovi h f s := rfl
@[simp] theorem exec_movw h f (s : State) : exec (.movw h f) s = execMovw h f s := rfl
@[simp] theorem exec_laneid h f (s : State) : exec (.laneid h f) s = execLaneid h f s := rfl
@[simp] theorem exec_xlane h f (s : State) : exec (.xlane h f) s = execXlane h f s := rfl
@[simp] theorem exec_vote h f (s : State) : exec (.vote h f) s = execVote h f s := rfl
@[simp] theorem exec_plop h f (s : State) : exec (.plop h f) s = execPlop h f s := rfl
@[simp] theorem exec_pmov h f (s : State) : exec (.pmov h f) s = execPmov h f s := rfl
@[simp] theorem exec_lnset h f (s : State) : exec (.lnset h f) s = execLnset h f s := rfl
@[simp] theorem exec_lnadv h f (s : State) : exec (.lnadv h f) s = execLnadv h f s := rfl
@[simp] theorem exec_lnget h f (s : State) : exec (.lnget h f) s = execLnget h f s := rfl
@[simp] theorem exec_coef h f (s : State) : exec (.coef h f) s = execCoef h f s := rfl
@[simp] theorem exec_addr h f (s : State) : exec (.addr h f) s = execAddr h f s := rfl
@[simp] theorem exec_rep h f (s : State) : exec (.rep h f) s = execRep h f s := rfl
@[simp] theorem exec_fadd h f (s : State) : exec (.fadd h f) s = execFadd h f s := rfl
@[simp] theorem exec_fsub h f (s : State) : exec (.fsub h f) s = execFsub h f s := rfl
@[simp] theorem exec_fmul h f (s : State) : exec (.fmul h f) s = execFmul h f s := rfl
@[simp] theorem exec_ffma h f (s : State) : exec (.ffma h f) s = execFfma h f s := rfl
@[simp] theorem exec_fmin num h f (s : State) : exec (.fmin num h f) s = execFmin num h f s := rfl
@[simp] theorem exec_fmax num h f (s : State) : exec (.fmax num h f) s = execFmax num h f s := rfl
@[simp] theorem exec_fcmp h f (s : State) : exec (.fcmp h f) s = execFcmp h f s := rfl
@[simp] theorem exec_fclass h f (s : State) : exec (.fclass h f) s = execFclass h f s := rfl
@[simp] theorem exec_frcp h f (s : State) : exec (.frcp h f) s = execFrcp h f s := rfl
@[simp] theorem exec_frsq h f (s : State) : exec (.frsq h f) s = execFrsq h f s := rfl
@[simp] theorem exec_fsqrt h f (s : State) : exec (.fsqrt h f) s = execFsqrt h f s := rfl
@[simp] theorem exec_fdiv h f (s : State) : exec (.fdiv h f) s = execFdiv h f s := rfl
@[simp] theorem exec_fexp2 h f (s : State) : exec (.fexp2 h f) s = execFexp2 h f s := rfl
@[simp] theorem exec_flog2 h f (s : State) : exec (.flog2 h f) s = execFlog2 h f s := rfl
@[simp] theorem exec_fsin h f (s : State) : exec (.fsin h f) s = execFsin h f s := rfl
@[simp] theorem exec_fcos h f (s : State) : exec (.fcos h f) s = execFcos h f s := rfl
@[simp] theorem exec_ftanh h f (s : State) : exec (.ftanh h f) s = execFtanh h f s := rfl
@[simp] theorem exec_frnd h f (s : State) : exec (.frnd h f) s = execFrnd h f s := rfl
@[simp] theorem exec_fscale h f (s : State) : exec (.fscale h f) s = execFscale h f s := rfl
@[simp] theorem exec_hadd2 h f (s : State) : exec (.hadd2 h f) s = execHadd2 h f s := rfl
@[simp] theorem exec_hmul2 h f (s : State) : exec (.hmul2 h f) s = execHmul2 h f s := rfl
@[simp] theorem exec_hfma2 h f (s : State) : exec (.hfma2 h f) s = execHfma2 h f s := rfl
@[simp] theorem exec_hmin2 h f (s : State) : exec (.hmin2 h f) s = execHmin2 h f s := rfl
@[simp] theorem exec_hmax2 h f (s : State) : exec (.hmax2 h f) s = execHmax2 h f s := rfl
@[simp] theorem exec_ffmaw h f (s : State) : exec (.ffmaw h f) s = execFfmaw h f s := rfl
@[simp] theorem exec_cvtFf h f (s : State) : exec (.cvtFf h f) s = execCvtFf h f s := rfl
@[simp] theorem exec_cvtFi h f (s : State) : exec (.cvtFi h f) s = execCvtFi h f s := rfl
@[simp] theorem exec_cvtIf h f (s : State) : exec (.cvtIf h f) s = execCvtIf h f s := rfl
@[simp] theorem exec_cvtIi h f (s : State) : exec (.cvtIi h f) s = execCvtIi h f s := rfl
@[simp] theorem exec_cvtPack h f (s : State) : exec (.cvtPack h f) s = execCvtPack h f s := rfl
@[simp] theorem exec_cvtUnpack h f (s : State) : exec (.cvtUnpack h f) s = execCvtUnpack h f s := rfl
@[simp] theorem exec_cvtb h f (s : State) : exec (.cvtb h f) s = execCvtb h f s := rfl
@[simp] theorem exec_unpk h f (s : State) : exec (.unpk h f) s = execUnpk h f s := rfl
@[simp] theorem exec_dot16 h f (s : State) : exec (.dot16 h f) s = execDot16 h f s := rfl
@[simp] theorem exec_dot4 h f (s : State) : exec (.dot4 h f) s = execDot4 h f s := rfl
@[simp] theorem exec_dot8 h f (s : State) : exec (.dot8 h f) s = execDot8 h f s := rfl
@[simp] theorem exec_fmtset h f (s : State) : exec (.fmtset h f) s = execFmtset h f s := rfl
@[simp] theorem exec_fmtget h f (s : State) : exec (.fmtget h f) s = execFmtget h f s := rfl
@[simp] theorem exec_fmtmod h f (s : State) : exec (.fmtmod h f) s = execFmtmod h f s := rfl
@[simp] theorem exec_dith h f (s : State) : exec (.dith h f) s = execDith h f s := rfl
@[simp] theorem exec_fsigm h f (s : State) : exec (.fsigm h f) s = execFsigm h f s := rfl
@[simp] theorem exec_ferf h f (s : State) : exec (.ferf h f) s = execFerf h f s := rfl
@[simp] theorem exec_bra h f (s : State) : exec (.bra h f) s = execBra h f s := rfl
@[simp] theorem exec_brc h f (s : State) : exec (.brc h f) s = execBrc h f s := rfl
@[simp] theorem exec_mbr h f (s : State) : exec (.mbr h f) s = execMbr h f s := rfl
@[simp] theorem exec_jmpi h f (s : State) : exec (.jmpi h f) s = execJmpi h f s := rfl
@[simp] theorem exec_call h f (s : State) : exec (.call h f) s = execCall h f s := rfl
@[simp] theorem exec_callIndirect h f (s : State) : exec (.callIndirect h f) s = execCallIndirect h f s := rfl
@[simp] theorem exec_ret h f (s : State) : exec (.ret h f) s = execRet h f s := rfl
@[simp] theorem exec_exit h f (s : State) : exec (.exit h f) s = execExit h f s := rfl
@[simp] theorem exec_nop h f (s : State) : exec (.nop h f) s = execNop h f s := rfl
@[simp] theorem exec_yield h f (s : State) : exec (.yield h f) s = execYield h f s := rfl
@[simp] theorem exec_emrget h f (s : State) : exec (.emrget h f) s = execEmrget h f s := rfl
@[simp] theorem exec_emrset h f (s : State) : exec (.emrset h f) s = execEmrset h f s := rfl
@[simp] theorem exec_join h f (s : State) : exec (.join h f) s = execJoin h f s := rfl
@[simp] theorem exec_rfenter h f (s : State) : exec (.rfenter h f) s = execRfenter h f s := rfl
@[simp] theorem exec_refill h f (s : State) : exec (.refill h f) s = execRefill h f s := rfl
@[simp] theorem exec_refillLast h f (s : State) : exec (.refillLast h f) s = execRefillLast h f s := rfl
@[simp] theorem exec_rfinfo h f (s : State) : exec (.rfinfo h f) s = execRfinfo h f s := rfl
@[simp] theorem exec_rfexit h f (s : State) : exec (.rfexit h f) s = execRfexit h f s := rfl
@[simp] theorem exec_waitf h f (s : State) : exec (.waitf h f) s = execWaitf h f s := rfl
@[simp] theorem exec_brx h f (s : State) : exec (.brx h f) s = execBrx h f s := rfl
@[simp] theorem exec_loop h f (s : State) : exec (.loop h f) s = execLoop h f s := rfl
@[simp] theorem exec_splitq h f (s : State) : exec (.splitq h f) s = execSplitq h f s := rfl
@[simp] theorem exec_rfskip h f (s : State) : exec (.rfskip h f) s = execRfskip h f s := rfl
@[simp] theorem exec_setpri h f (s : State) : exec (.setpri h f) s = execSetpri h f s := rfl
@[simp] theorem exec_ld h f (s : State) : exec (.ld h f) s = execLd h f s := rfl
@[simp] theorem exec_st h f (s : State) : exec (.st h f) s = execSt h f s := rfl
@[simp] theorem exec_ldro h f (s : State) : exec (.ldro h f) s = execLdro h f s := rfl
@[simp] theorem exec_prefL1 h f (s : State) : exec (.prefL1 h f) s = execPrefL1 h f s := rfl
@[simp] theorem exec_prefDie h f (s : State) : exec (.prefDie h f) s = execPrefDie h f s := rfl
@[simp] theorem exec_acopy sl dl h f (s : State) : exec (.acopy sl dl h f) s = execAcopy sl dl h f s := rfl
@[simp] theorem exec_agather h f (s : State) : exec (.agather h f) s = execAgather h f s := rfl
@[simp] theorem exec_ascatter h f (s : State) : exec (.ascatter h f) s = execAscatter h f s := rfl
@[simp] theorem exec_acoll h f (s : State) : exec (.acoll h f) s = execAcoll h f s := rfl
@[simp] theorem exec_afill h f (s : State) : exec (.afill h f) s = execAfill h f s := rfl
@[simp] theorem exec_bankrole h f (s : State) : exec (.bankrole h f) s = execBankrole h f s := rfl
@[simp] theorem exec_bankq h f (s : State) : exec (.bankq h f) s = execBankq h f s := rfl
@[simp] theorem exec_cinvSys h f (s : State) : exec (.cinvSys h f) s = execCinvSys h f s := rfl
@[simp] theorem exec_cinvRo h f (s : State) : exec (.cinvRo h f) s = execCinvRo h f s := rfl
@[simp] theorem exec_zline h f (s : State) : exec (.zline h f) s = execZline h f s := rfl
@[simp] theorem exec_xprobe h f (s : State) : exec (.xprobe h f) s = execXprobe h f s := rfl
@[simp] theorem exec_toktest h f (s : State) : exec (.toktest h f) s = execToktest h f s := rfl
@[simp] theorem exec_atom h f (s : State) : exec (.atom h f) s = execAtom h f s := rfl
@[simp] theorem exec_red h f (s : State) : exec (.red h f) s = execRed h f s := rfl
@[simp] theorem exec_cas h f (s : State) : exec (.cas h f) s = execCas h f s := rfl
@[simp] theorem exec_bar h f (s : State) : exec (.bar h f) s = execBar h f s := rfl
@[simp] theorem exec_barArrive h f (s : State) : exec (.barArrive h f) s = execBarArrive h f s := rfl
@[simp] theorem exec_barWait h f (s : State) : exec (.barWait h f) s = execBarWait h f s := rfl
@[simp] theorem exec_gbar h f (s : State) : exec (.gbar h f) s = execGbar h f s := rfl
@[simp] theorem exec_lcadd h f (s : State) : exec (.lcadd h f) s = execLcadd h f s := rfl
@[simp] theorem exec_lcread h f (s : State) : exec (.lcread h f) s = execLcread h f s := rfl
@[simp] theorem exec_lcmerge h f (s : State) : exec (.lcmerge h f) s = execLcmerge h f s := rfl
@[simp] theorem exec_lcbase h f (s : State) : exec (.lcbase h f) s = execLcbase h f s := rfl
@[simp] theorem exec_lcseed h f (s : State) : exec (.lcseed h f) s = execLcseed h f s := rfl
@[simp] theorem exec_opclaim h f (s : State) : exec (.opclaim h f) s = execOpclaim h f s := rfl
@[simp] theorem exec_oprel h f (s : State) : exec (.oprel h f) s = execOprel h f s := rfl
@[simp] theorem exec_opfill glob h f (s : State) : exec (.opfill glob h f) s = execOpfill glob h f s := rfl
@[simp] theorem exec_layout h f (s : State) : exec (.layout h f) s = execLayout h f s := rfl
@[simp] theorem exec_bankcnt h f (s : State) : exec (.bankcnt h f) s = execBankcnt h f s := rfl
@[simp] theorem exec_mma ovr h f (s : State) : exec (.mma ovr h f) s = execMma ovr h f s := rfl
@[simp] theorem exec_mmas ovr h f (s : State) : exec (.mmas ovr h f) s = execMmas ovr h f s := rfl
@[simp] theorem exec_accld loc h f (s : State) : exec (.accld loc h f) s = execAccld loc h f s := rfl
@[simp] theorem exec_accst loc h f (s : State) : exec (.accst loc h f) s = execAccst loc h f s := rfl
@[simp] theorem exec_acczero h f (s : State) : exec (.acczero h f) s = execAcczero h f s := rfl
@[simp] theorem exec_acccvt rs h f (s : State) : exec (.acccvt rs h f) s = execAcccvt rs h f s := rfl
@[simp] theorem exec_accscale h f (s : State) : exec (.accscale h f) s = execAccscale h f s := rfl
@[simp] theorem exec_attn full h f (s : State) : exec (.attn full h f) s = execAttn full h f s := rfl
@[simp] theorem exec_smerge h f (s : State) : exec (.smerge h f) s = execSmerge h f s := rfl
@[simp] theorem exec_kvgather h f (s : State) : exec (.kvgather h f) s = execKvgather h f s := rfl
@[simp] theorem exec_kvappend h f (s : State) : exec (.kvappend h f) s = execKvappend h f s := rfl
@[simp] theorem exec_seqcommit h f (s : State) : exec (.seqcommit h f) s = execSeqcommit h f s := rfl
@[simp] theorem exec_seqcommitFork h f (s : State) : exec (.seqcommitFork h f) s = execSeqcommitFork h f s := rfl
@[simp] theorem exec_seqcommitRel h f (s : State) : exec (.seqcommitRel h f) s = execSeqcommitRel h f s := rfl
@[simp] theorem exec_seqinfo h f (s : State) : exec (.seqinfo h f) s = execSeqinfo h f s := rfl
@[simp] theorem exec_tspawn nb h f (s : State) : exec (.tspawn nb h f) s = execTspawn nb h f s := rfl
@[simp] theorem exec_twait nb h f (s : State) : exec (.twait nb h f) s = execTwait nb h f s := rfl
@[simp] theorem exec_tfillFut h f (s : State) : exec (.tfillFut h f) s = execTfillFut h f s := rfl
@[simp] theorem exec_tfillSig h f (s : State) : exec (.tfillSig h f) s = execTfillSig h f s := rfl
@[simp] theorem exec_tinfo h f (s : State) : exec (.tinfo h f) s = execTinfo h f s := rfl
@[simp] theorem exec_tyield h f (s : State) : exec (.tyield h f) s = execTyield h f s := rfl
@[simp] theorem exec_tcancel h f (s : State) : exec (.tcancel h f) s = execTcancel h f s := rfl
@[simp] theorem exec_enq nb h f (s : State) : exec (.enq nb h f) s = execEnq nb h f s := rfl
@[simp] theorem exec_deq nb h f (s : State) : exec (.deq nb h f) s = execDeq nb h f s := rfl
@[simp] theorem exec_qstat h f (s : State) : exec (.qstat h f) s = execQstat h f s := rfl
@[simp] theorem exec_qcreate h f (s : State) : exec (.qcreate h f) s = execQcreate h f s := rfl
@[simp] theorem exec_qcreateFree h f (s : State) : exec (.qcreateFree h f) s = execQcreateFree h f s := rfl
@[simp] theorem exec_launch h f (s : State) : exec (.launch h f) s = execLaunch h f s := rfl
@[simp] theorem exec_launchAgg h f (s : State) : exec (.launchAgg h f) s = execLaunchAgg h f s := rfl
@[simp] theorem exec_sibjoin h f (s : State) : exec (.sibjoin h f) s = execSibjoin h f s := rfl
@[simp] theorem exec_sibleave h f (s : State) : exec (.sibleave h f) s = execSibleave h f s := rfl
@[simp] theorem exec_ballot h f (s : State) : exec (.ballot h f) s = execBallot h f s := rfl
@[simp] theorem exec_canchk h f (s : State) : exec (.canchk h f) s = execCanchk h f s := rfl
@[simp] theorem exec_sibinfo h f (s : State) : exec (.sibinfo h f) s = execSibinfo h f s := rfl
@[simp] theorem exec_nestset h f (s : State) : exec (.nestset h f) s = execNestset h f s := rfl
@[simp] theorem exec_fenceAcq h f (s : State) : exec (.fenceAcq h f) s = execFenceAcq h f s := rfl
@[simp] theorem exec_fenceRel h f (s : State) : exec (.fenceRel h f) s = execFenceRel h f s := rfl
@[simp] theorem exec_fenceAcqrel h f (s : State) : exec (.fenceAcqrel h f) s = execFenceAcqrel h f s := rfl
@[simp] theorem exec_srget sys h f (s : State) : exec (.srget sys h f) s = execSrget sys h f s := rfl
@[simp] theorem exec_srset sys h f (s : State) : exec (.srset sys h f) s = execSrset sys h f s := rfl
@[simp] theorem exec_trap h f (s : State) : exec (.trap h f) s = execTrap h f s := rfl
@[simp] theorem exec_bkpt h f (s : State) : exec (.bkpt h f) s = execBkpt h f s := rfl
@[simp] theorem exec_timeget h f (s : State) : exec (.timeget h f) s = execTimeget h f s := rfl
@[simp] theorem exec_detphase h f (s : State) : exec (.detphase h f) s = execDetphase h f s := rfl
@[simp] theorem exec_detq h f (s : State) : exec (.detq h f) s = execDetq h f s := rfl
@[simp] theorem exec_tlbinv h f (s : State) : exec (.tlbinv h f) s = execTlbinv h f s := rfl
@[simp] theorem exec_halt h f (s : State) : exec (.halt h f) s = execHalt h f s := rfl
@[simp] theorem exec_sleep h f (s : State) : exec (.sleep h f) s = execSleep h f s := rfl
@[simp] theorem exec_ctxsave h f (s : State) : exec (.ctxsave h f) s = execCtxsave h f s := rfl
@[simp] theorem exec_ctxrest h f (s : State) : exec (.ctxrest h f) s = execCtxrest h f s := rfl
@[simp] theorem exec_eret h f (s : State) : exec (.eret h f) s = execEret h f s := rfl
@[simp] theorem exec_lineEntry (s : State) : exec (.lineEntry) s = execLineEntry s := rfl
@[simp] theorem exec_instructionCompletion a (s : State) : exec (.instructionCompletion a) s = execInstructionCompletion a s := rfl
@[simp] theorem exec_loadDataReturn a (s : State) : exec (.loadDataReturn a) s = execLoadDataReturn a s := rfl
@[simp] theorem exec_leaseGrant a b (s : State) : exec (.leaseGrant a b) s = execLeaseGrant a b s := rfl
@[simp] theorem exec_storePerform a (s : State) : exec (.storePerform a) s = execStorePerform a s := rfl
@[simp] theorem exec_storeAcknowledgement a (s : State) : exec (.storeAcknowledgement a) s = execStoreAcknowledgement a s := rfl
@[simp] theorem exec_atomicBatch a b (s : State) : exec (.atomicBatch a b) s = execAtomicBatch a b s := rfl
@[simp] theorem exec_walkComplete a (s : State) : exec (.walkComplete a) s = execWalkComplete a s := rfl
@[simp] theorem exec_engineStart a b (s : State) : exec (.engineStart a b) s = execEngineStart a b s := rfl
@[simp] theorem exec_tokenWrite a (s : State) : exec (.tokenWrite a) s = execTokenWrite a s := rfl
@[simp] theorem exec_matrixBegin a (s : State) : exec (.matrixBegin a) s = execMatrixBegin a s := rfl
@[simp] theorem exec_retireAtEnd (s : State) : exec (.retireAtEnd) s = execRetireAtEnd s := rfl
@[simp] theorem exec_refillCursorAdvance a (s : State) : exec (.refillCursorAdvance a) s = execRefillCursorAdvance a s := rfl
@[simp] theorem exec_phaseEnd a (s : State) : exec (.phaseEnd a) s = execPhaseEnd a s := rfl
@[simp] theorem exec_futureWake a (s : State) : exec (.futureWake a) s = execFutureWake a s := rfl
@[simp] theorem exec_taskStart a b (s : State) : exec (.taskStart a b) s = execTaskStart a b s := rfl
@[simp] theorem exec_cancellationDelivery a (s : State) : exec (.cancellationDelivery a) s = execCancellationDelivery a s := rfl
@[simp] theorem exec_aggregationWindowClose a (s : State) : exec (.aggregationWindowClose a) s = execAggregationWindowClose a s := rfl
@[simp] theorem exec_lwtExpiry a b (s : State) : exec (.lwtExpiry a b) s = execLwtExpiry a b s := rfl
@[simp] theorem exec_copseAdmission a b c (s : State) : exec (.copseAdmission a b c) s = execCopseAdmission a b c s := rfl
@[simp] theorem exec_copseRestore a b c (s : State) : exec (.copseRestore a b c) s = execCopseRestore a b c s := rfl
@[simp] theorem exec_sleepExpiry a (s : State) : exec (.sleepExpiry a) s = execSleepExpiry a s := rfl
@[simp] theorem exec_yieldExpiry a (s : State) : exec (.yieldExpiry a) s = execYieldExpiry a s := rfl
@[simp] theorem exec_launchCompletion a (s : State) : exec (.launchCompletion a) s = execLaunchCompletion a s := rfl
@[simp] theorem exec_instanceClose a b c (s : State) : exec (.instanceClose a b c) s = execInstanceClose a b c s := rfl
@[simp] theorem exec_doorbell a b c (s : State) : exec (.doorbell a b c) s = execDoorbell a b c s := rfl
@[simp] theorem exec_ext a b (s : State) : exec (.ext a b) s = execExt a b s := rfl
@[simp] theorem exec_launchCommand a b (s : State) : exec (.launchCommand a b) s = execLaunchCommand a b s := rfl
@[simp] theorem exec_kill a b (s : State) : exec (.kill a b) s = execKill a b s := rfl
@[simp] theorem exec_preempt a b (s : State) : exec (.preempt a b) s = execPreempt a b s := rfl
@[simp] theorem exec_preemptSave a (s : State) : exec (.preemptSave a) s = execPreemptSave a s := rfl
@[simp] theorem exec_restore a b (s : State) : exec (.restore a b) s = execRestore a b s := rfl
@[simp] theorem exec_replyResume a b (s : State) : exec (.replyResume a b) s = execReplyResume a b s := rfl
@[simp] theorem exec_replyKill a b (s : State) : exec (.replyKill a b) s = execReplyKill a b s := rfl
@[simp] theorem exec_tlbinvCommand a b (s : State) : exec (.tlbinvCommand a b) s = execTlbinvCommand a b s := rfl
@[simp] theorem exec_comm a b (s : State) : exec (.comm a b) s = execComm a b s := rfl
@[simp] theorem exec_nopCommand a b (s : State) : exec (.nopCommand a b) s = execNopCommand a b s := rfl
@[simp] theorem exec_map a b (s : State) : exec (.map a b) s = execMap a b s := rfl
@[simp] theorem exec_mapPublish a b (s : State) : exec (.mapPublish a b) s = execMapPublish a b s := rfl
@[simp] theorem exec_fqhead a b (s : State) : exec (.fqhead a b) s = execFqhead a b s := rfl
@[simp] theorem exec_cqhead a b c (s : State) : exec (.cqhead a b c) s = execCqhead a b c s := rfl
@[simp] theorem exec_errstat a b (s : State) : exec (.errstat a b) s = execErrstat a b s := rfl
@[simp] theorem exec_partitionRegisterWrite a b c (s : State) : exec (.partitionRegisterWrite a b c) s = execPartitionRegisterWrite a b c s := rfl
@[simp] theorem exec_functionLevelReset a (s : State) : exec (.functionLevelReset a) s = execFunctionLevelReset a s := rfl
@[simp] theorem exec_bar2Access a b c (s : State) : exec (.bar2Access a b c) s = execBar2Access a b c s := rfl
@[simp] theorem exec_hostAtomicop a b c (s : State) : exec (.hostAtomicop a b c) s = execHostAtomicop a b c s := rfl
@[simp] theorem exec_peerRequest a b (s : State) : exec (.peerRequest a b) s = execPeerRequest a b s := rfl
@[simp] theorem exec_flitReceive a b (s : State) : exec (.flitReceive a b) s = execFlitReceive a b s := rfl
@[simp] theorem exec_flitReplay a (s : State) : exec (.flitReplay a) s = execFlitReplay a s := rfl
@[simp] theorem exec_sirxoBoot (s : State) : exec (.sirxoBoot) s = execSirxoBoot s := rfl
@[simp] theorem exec_getVersion a (s : State) : exec (.getVersion a) s = execGetVersion a s := rfl
@[simp] theorem exec_getCapabilities a (s : State) : exec (.getCapabilities a) s = execGetCapabilities a s := rfl
@[simp] theorem exec_negotiateAlgorithms a (s : State) : exec (.negotiateAlgorithms a) s = execNegotiateAlgorithms a s := rfl
@[simp] theorem exec_getDigests a (s : State) : exec (.getDigests a) s = execGetDigests a s := rfl
@[simp] theorem exec_getCertificate a (s : State) : exec (.getCertificate a) s = execGetCertificate a s := rfl
@[simp] theorem exec_challenge a b (s : State) : exec (.challenge a b) s = execChallenge a b s := rfl
@[simp] theorem exec_getMeasurements a (s : State) : exec (.getMeasurements a) s = execGetMeasurements a s := rfl
@[simp] theorem exec_powerSample a (s : State) : exec (.powerSample a) s = execPowerSample a s := rfl
@[simp] theorem exec_thermalShutdown (s : State) : exec (.thermalShutdown) s = execThermalShutdown s := rfl

end Sys2Proof.Machine
end

