-- ==== Sys2Proof/Laws/Sparse.lean ====
section
/-! SUPPORT. Sparse maps: reading after writing, and the canonical form. -/

namespace Sys2Proof

/-! ## Reading after writing -/

theorem Sparse.get_cons {w : Nat} (a : Nat) (v : BitVec w) (m : Sparse w) (k : Nat) :
    Sparse.get ((a, v) :: m) k = if a = k then v else Sparse.get m k := rfl

theorem Sparse.get_erase_same {w : Nat} (m : Sparse w) (k : Nat) : Sparse.get (Sparse.erase m k) k = 0 := by
  induction m with
  | nil => rfl
  | cons e m ih =>
    unfold Sparse.erase at *
    by_cases h : e.1 = k
    · simpa [List.filter_cons, h] using ih
    · simpa [List.filter_cons, h, Sparse.get] using ih

theorem Sparse.get_erase_other {w : Nat} (m : Sparse w) {k j : Nat} (h : j ≠ k) :
    Sparse.get (Sparse.erase m k) j = Sparse.get m j := by
  induction m with
  | nil => rfl
  | cons e m ih =>
    unfold Sparse.erase at *
    by_cases h' : e.1 = k
    · have : e.1 ≠ j := fun h2 => h (h2.symm.trans h')
      simpa [List.filter_cons, h', Sparse.get, this, Ne.symm h] using ih
    · by_cases h2 : e.1 = j <;> simp_all [Sparse.get]

@[simp] theorem Sparse.get_set_same {w : Nat} (m : Sparse w) (k : Nat) (x : BitVec w) :
    Sparse.get (Sparse.set m k x) k = x := by
  induction m with
  | nil =>
    rw [Sparse.set]
    split
    · rename_i h; exact h.symm
    · exact if_pos rfl
  | cons e m ih =>
    rw [Sparse.set]
    split
    · rename_i h; rw [Sparse.get_cons, if_neg (Nat.ne_of_lt h), ih]
    · split
      · rename_i h; rw [Sparse.get_erase_same, h]
      · exact if_pos rfl

theorem Sparse.get_set_other {w : Nat} (m : Sparse w) {k j : Nat} (x : BitVec w) (h : j ≠ k) :
    Sparse.get (Sparse.set m k x) j = Sparse.get m j := by
  induction m with
  | nil =>
    rw [Sparse.set]
    split
    · rfl
    · exact if_neg h.symm
  | cons e m ih =>
    rw [Sparse.set]
    split
    · rw [Sparse.get_cons, ih]; rfl
    · split
      · exact Sparse.get_erase_other _ h
      · rw [Sparse.get_cons, if_neg h.symm, Sparse.get_erase_other _ h]

theorem Sparse.get_set {w : Nat} (m : Sparse w) (k j : Nat) (x : BitVec w) :
    Sparse.get (Sparse.set m k x) j = if j = k then x else Sparse.get m j := by
  by_cases h : j = k
  · subst h; simp
  · simp [h, Sparse.get_set_other m x h]

/-! ## The canonical form -/

/-- What the canonical form means: the keys rise, and no value is zero. -/
theorem Sparse.wf_iff {w : Nat} (m : Sparse w) :
    Sparse.wf m = true ↔ m.Pairwise (fun a b => a.1 < b.1) ∧ ∀ e ∈ m, e.2 ≠ 0 := by
  have gen : ∀ (m : Sparse w) (lo : Option Nat), Sparse.wfFrom lo m = true ↔
      (m.Pairwise (fun a b => a.1 < b.1) ∧ ∀ e ∈ m, e.2 ≠ 0) ∧ ∀ b, lo = some b → ∀ e ∈ m, b < e.1 := by
    intro m
    induction m with
    | nil => intro lo; unfold Sparse.wfFrom; simp
    | cons e m ih =>
      intro lo
      unfold Sparse.wfFrom
      rw [Bool.and_eq_true, Bool.and_eq_true, ih, List.pairwise_cons, decide_eq_true_eq]
      constructor
      · rintro ⟨⟨hb, hv⟩, ⟨hp, hz⟩, hm⟩
        refine ⟨⟨⟨hm _ rfl, hp⟩, ?_⟩, ?_⟩
        · intro x hx
          rcases List.mem_cons.1 hx with rfl | hx
          · exact hv
          · exact hz x hx
        · rintro b rfl x hx
          have hb : b < e.1 := by simpa using hb
          rcases List.mem_cons.1 hx with rfl | hx
          · exact hb
          · exact lt_trans hb (hm _ rfl x hx)
      · rintro ⟨⟨⟨hm, hp⟩, hz⟩, hb⟩
        refine ⟨⟨?_, hz e (by simp)⟩, ⟨hp, fun x hx => hz x (List.mem_cons_of_mem _ hx)⟩, ?_⟩
        · cases lo with
          | none => rfl
          | some b => simpa using hb b rfl e (by simp)
        · rintro b hb x hx
          cases hb
          exact hm x hx
  unfold Sparse.wf
  rw [gen]
  exact ⟨fun h => h.1, fun h => ⟨h, fun b hb => by cases hb⟩⟩

theorem Sparse.wf_filter {w : Nat} (m : Sparse w) (p : Nat × BitVec w → Bool) (h : Sparse.wf m = true) :
    Sparse.wf (m.filter p) = true := by
  rw [Sparse.wf_iff] at *
  exact ⟨h.1.filter p, fun e he => h.2 e (List.mem_of_mem_filter he)⟩

theorem Sparse.mem_set {w : Nat} (m : Sparse w) (k : Nat) (x : BitVec w) (e : Nat × BitVec w)
    (h : e ∈ Sparse.set m k x) : e ∈ m ∨ (e = (k, x) ∧ x ≠ 0) := by
  induction m with
  | nil =>
    rw [Sparse.set] at h
    split at h
    · exact .inl h
    · exact .inr ⟨List.mem_singleton.1 h, by assumption⟩
  | cons a m ih =>
    rw [Sparse.set] at h
    split at h
    · rcases List.mem_cons.1 h with rfl | h
      · exact .inl (by simp)
      · exact (ih h).imp (fun h => List.mem_cons_of_mem _ h) id
    · split at h
      · exact .inl (List.mem_of_mem_filter h)
      · rcases List.mem_cons.1 h with rfl | h
        · exact .inr ⟨rfl, by assumption⟩
        · exact .inl (List.mem_of_mem_filter h)

/-- Writing keeps the canonical form. -/
theorem Sparse.wf_set {w : Nat} (m : Sparse w) (k : Nat) (x : BitVec w) (h : Sparse.wf m = true) :
    Sparse.wf (Sparse.set m k x) = true := by
  induction m with
  | nil =>
    rw [Sparse.set]
    split
    · exact h
    · rw [Sparse.wf_iff]; simpa
  | cons a m ih =>
    have hc := (Sparse.wf_iff _).1 h
    have hp := List.pairwise_cons.1 hc.1
    rw [Sparse.set]
    split
    · rename_i h1
      have h2 := (Sparse.wf_iff _).1
        (ih ((Sparse.wf_iff _).2 ⟨hp.2, fun e he => hc.2 e (List.mem_cons_of_mem _ he)⟩))
      rw [Sparse.wf_iff]
      refine ⟨List.pairwise_cons.2 ⟨fun e he => ?_, h2.1⟩, fun e he => ?_⟩
      · rcases Sparse.mem_set m k x e he with he | he
        · exact hp.1 e he
        · rw [he.1]; exact h1
      · rcases List.mem_cons.1 he with rfl | he
        · exact hc.2 _ (by simp)
        · exact h2.2 e he
    · rename_i h1
      have hf : Sparse.wf (Sparse.erase (a :: m) k) = true := Sparse.wf_filter _ _ h
      split
      · exact hf
      · rename_i h0
        have hf := (Sparse.wf_iff _).1 hf
        rw [Sparse.wf_iff]
        refine ⟨List.pairwise_cons.2 ⟨fun e he => ?_, hf.1⟩, fun e he => ?_⟩
        · have hm := List.mem_of_mem_filter he
          have hne : e.1 ≠ k := by simpa using (List.mem_filter.1 he).2
          have : a.1 ≤ e.1 := by
            rcases List.mem_cons.1 hm with h2 | h2
            · rw [h2]
            · exact Nat.le_of_lt (hp.1 e h2)
          show k < e.1
          omega
        · rcases List.mem_cons.1 he with rfl | he
          · exact h0
          · exact hf.2 e he

theorem Sparse.wf_setLE {w : Nat} (m : Sparse w) (k n x : Nat) (h : Sparse.wf m = true) :
    Sparse.wf (Sparse.setLE m k n x) = true := by
  induction n generalizing m k x with
  | zero => exact h
  | succ n ih => exact ih _ _ _ (Sparse.wf_set _ _ _ h)

theorem Sparse.wf_drop {w : Nat} (m : Sparse w) (k n : Nat) (h : Sparse.wf m = true) :
    Sparse.wf (Sparse.drop m k n) = true := Sparse.wf_filter _ _ h

/-! ## Runs of keys -/

theorem Sparse.get_setLE_other {w : Nat} (m : Sparse w) (k n x j : Nat) (h : j < k ∨ k + n ≤ j) :
    Sparse.get (Sparse.setLE m k n x) j = Sparse.get m j := by
  induction n generalizing m k x with
  | zero => rfl
  | succ n ih =>
    rw [Sparse.setLE, ih _ _ _ (by omega), Sparse.get_set_other _ _ (by omega)]

theorem Sparse.get_setLE {w : Nat} (m : Sparse w) (k n x j : Nat) (h : j < n) :
    Sparse.get (Sparse.setLE m k n x) (k + j) = BitVec.ofNat w (x / 2 ^ (w * j)) := by
  induction n generalizing m k x j with
  | zero => omega
  | succ n ih =>
    rw [Sparse.setLE]
    cases j with
    | zero => rw [Sparse.get_setLE_other _ _ _ _ _ (by omega)]; simp
    | succ j =>
      have := ih (Sparse.set m k (BitVec.ofNat w x)) (k + 1) (x / 2 ^ w) j (by omega)
      rw [show k + (j + 1) = k + 1 + j by omega, this, Nat.div_div_eq_div_mul, ← pow_add]
      congr 3; ring

theorem Sparse.getLE_congr {w : Nat} (m m' : Sparse w) (k n : Nat)
    (h : ∀ j, k ≤ j → j < k + n → Sparse.get m j = Sparse.get m' j) :
    Sparse.getLE m k n = Sparse.getLE m' k n := by
  induction n generalizing k with
  | zero => rfl
  | succ n ih =>
    rw [Sparse.getLE, Sparse.getLE, h k (by omega) (by omega), ih (k + 1) fun j h1 h2 => h j (by omega) (by omega)]

/-- A number written over consecutive keys reads back, cut to their width. -/
theorem Sparse.getLE_setLE {w : Nat} (m : Sparse w) (k n x : Nat) :
    Sparse.getLE (Sparse.setLE m k n x) k n = x % 2 ^ (w * n) := by
  induction n generalizing m k x with
  | zero => simp [Sparse.getLE, Nat.mod_one]
  | succ n ih =>
    rw [Sparse.getLE, Sparse.setLE, ih, Sparse.get_setLE_other _ _ _ _ _ (by omega), Sparse.get_set_same,
      BitVec.toNat_ofNat, show w * (n + 1) = w + w * n by ring, pow_add, Nat.mod_mul]

/-- A run of keys that a write does not meet reads as before. -/
theorem Sparse.getLE_setLE_other {w : Nat} (m : Sparse w) (k n x j l : Nat) (h : j + l ≤ k ∨ k + n ≤ j) :
    Sparse.getLE (Sparse.setLE m k n x) j l = Sparse.getLE m j l :=
  Sparse.getLE_congr _ _ _ _ fun i h1 h2 => Sparse.get_setLE_other _ _ _ _ _ (by omega)

theorem Sparse.get_drop {w : Nat} (m : Sparse w) (k n j : Nat) :
    Sparse.get (Sparse.drop m k n) j = if k ≤ j ∧ j < k + n then 0 else Sparse.get m j := by
  induction m with
  | nil => simp [Sparse.drop, Sparse.get]
  | cons e m ih =>
    unfold Sparse.drop at *
    rw [List.filter_cons]
    split
    · rename_i h
      rw [Sparse.get, Sparse.get, ih]
      simp only [Bool.or_eq_true, decide_eq_true_eq] at h
      by_cases h2 : e.1 = j
      · subst h2; simp; omega
      · simp [h2]
    · rename_i h
      simp only [Bool.or_eq_true, decide_eq_true_eq, not_or, Nat.not_lt, Nat.not_le] at h
      rw [ih, Sparse.get]
      by_cases h2 : e.1 = j
      · subst h2; simp [h]
      · simp [h2]

end Sys2Proof
end

