-- ==== Sys2Proof/Laws/State.lean ====
section
/-! SUPPORT. One lemma per field per update of the state and of a bough: what each named update leaves as
it was, and what it writes. -/

namespace Sys2Proof.Machine

/-- A fold keeps what each of its steps keeps. -/
theorem foldl_keeps {α β γ : Type} (p : α → γ) (f : α → β → α) (h : ∀ a x, p (f a x) = p a) (a : α) (l : List β) :
    p (l.foldl f a) = p a := by
  induction l generalizing a with
  | nil => rfl
  | cons x l ih => rw [List.foldl_cons, ih, h]

/-! ## Updates of the state -/


/-! modB -/

@[simp] theorem modB_time (s : State) (f : Bough → Bough) : (s.modB f).time = s.time := rfl
@[simp] theorem modB_boughs (s : State) (f : Bough → Bough) : (s.modB f).boughs = s.boughs := rfl
@[simp] theorem modB_copses (s : State) (f : Bough → Bough) : (s.modB f).copses = s.copses := rfl
@[simp] theorem modB_launches (s : State) (f : Bough → Bough) : (s.modB f).launches = s.launches := rfl
@[simp] theorem modB_cores (s : State) (f : Bough → Bough) : (s.modB f).cores = s.cores := rfl
@[simp] theorem modB_parts (s : State) (f : Bough → Bough) : (s.modB f).parts = s.parts := rfl
@[simp] theorem modB_mem (s : State) (f : Bough → Bough) : (s.modB f).mem = s.mem := rfl
@[simp] theorem modB_zflag (s : State) (f : Bough → Bough) : (s.modB f).zflag = s.zflag := rfl
@[simp] theorem modB_ecc (s : State) (f : Bough → Bough) : (s.modB f).ecc = s.ecc := rfl
@[simp] theorem modB_dcache (s : State) (f : Bough → Bough) : (s.modB f).dcache = s.dcache := rfl
@[simp] theorem modB_leases (s : State) (f : Bough → Bough) : (s.modB f).leases = s.leases := rfl
@[simp] theorem modB_dcopies (s : State) (f : Bough → Bough) : (s.modB f).dcopies = s.dcopies := rfl
@[simp] theorem modB_draws (s : State) (f : Bough → Bough) : (s.modB f).draws = s.draws := rfl
@[simp] theorem modB_gens (s : State) (f : Bough → Bough) : (s.modB f).gens = s.gens := rfl
@[simp] theorem modB_heart (s : State) (f : Bough → Bough) : (s.modB f).heart = s.heart := rfl
@[simp] theorem modB_dtlb (s : State) (f : Bough → Bough) : (s.modB f).dtlb = s.dtlb := rfl
@[simp] theorem modB_loads (s : State) (f : Bough → Bough) : (s.modB f).loads = s.loads := rfl
@[simp] theorem modB_stores (s : State) (f : Bough → Bough) : (s.modB f).stores = s.stores := rfl
@[simp] theorem modB_acks (s : State) (f : Bough → Bough) : (s.modB f).acks = s.acks := rfl
@[simp] theorem modB_atoms (s : State) (f : Bough → Bough) : (s.modB f).atoms = s.atoms := rfl
@[simp] theorem modB_walks (s : State) (f : Bough → Bough) : (s.modB f).walks = s.walks := rfl
@[simp] theorem modB_infl (s : State) (f : Bough → Bough) : (s.modB f).infl = s.infl := rfl
@[simp] theorem modB_watches (s : State) (f : Bough → Bough) : (s.modB f).watches = s.watches := rfl
@[simp] theorem modB_susp (s : State) (f : Bough → Bough) : (s.modB f).susp = s.susp := rfl
@[simp] theorem modB_groups (s : State) (f : Bough → Bough) : (s.modB f).groups = s.groups := rfl
@[simp] theorem modB_cancels (s : State) (f : Bough → Bough) : (s.modB f).cancels = s.cancels := rfl
@[simp] theorem modB_wins (s : State) (f : Bough → Bough) : (s.modB f).wins = s.wins := rfl
@[simp] theorem modB_comms (s : State) (f : Bough → Bough) : (s.modB f).comms = s.comms := rfl
@[simp] theorem modB_colls (s : State) (f : Bough → Bough) : (s.modB f).colls = s.colls := rfl
@[simp] theorem modB_collK (s : State) (f : Bough → Bough) : (s.modB f).collK = s.collK := rfl
@[simp] theorem modB_links (s : State) (f : Bough → Bough) : (s.modB f).links = s.links := rfl
@[simp] theorem modB_sirxo (s : State) (f : Bough → Bough) : (s.modB f).sirxo = s.sirxo := rfl
@[simp] theorem modB_calnet (s : State) (f : Bough → Bough) : (s.modB f).calnet = s.calnet := rfl
@[simp] theorem modB_calmem (s : State) (f : Bough → Bough) : (s.modB f).calmem = s.calmem := rfl
@[simp] theorem modB_agenda (s : State) (f : Bough → Bough) : (s.modB f).agenda = s.agenda := rfl
@[simp] theorem modB_free (s : State) (f : Bough → Bough) : (s.modB f).free = s.free := rfl
@[simp] theorem modB_nuid (s : State) (f : Bough → Bough) : (s.modB f).nuid = s.nuid := rfl
@[simp] theorem modB_b (s : State) (f : Bough → Bough) : (s.modB f).b = f s.b := rfl

/-! hold -/

@[simp] theorem hold_time (s : State) (w : Wait) : (s.hold w).time = s.time := rfl
@[simp] theorem hold_boughs (s : State) (w : Wait) : (s.hold w).boughs = s.boughs := rfl
@[simp] theorem hold_copses (s : State) (w : Wait) : (s.hold w).copses = s.copses := rfl
@[simp] theorem hold_launches (s : State) (w : Wait) : (s.hold w).launches = s.launches := rfl
@[simp] theorem hold_cores (s : State) (w : Wait) : (s.hold w).cores = s.cores := rfl
@[simp] theorem hold_parts (s : State) (w : Wait) : (s.hold w).parts = s.parts := rfl
@[simp] theorem hold_mem (s : State) (w : Wait) : (s.hold w).mem = s.mem := rfl
@[simp] theorem hold_zflag (s : State) (w : Wait) : (s.hold w).zflag = s.zflag := rfl
@[simp] theorem hold_ecc (s : State) (w : Wait) : (s.hold w).ecc = s.ecc := rfl
@[simp] theorem hold_dcache (s : State) (w : Wait) : (s.hold w).dcache = s.dcache := rfl
@[simp] theorem hold_leases (s : State) (w : Wait) : (s.hold w).leases = s.leases := rfl
@[simp] theorem hold_dcopies (s : State) (w : Wait) : (s.hold w).dcopies = s.dcopies := rfl
@[simp] theorem hold_draws (s : State) (w : Wait) : (s.hold w).draws = s.draws := rfl
@[simp] theorem hold_gens (s : State) (w : Wait) : (s.hold w).gens = s.gens := rfl
@[simp] theorem hold_heart (s : State) (w : Wait) : (s.hold w).heart = s.heart := rfl
@[simp] theorem hold_dtlb (s : State) (w : Wait) : (s.hold w).dtlb = s.dtlb := rfl
@[simp] theorem hold_loads (s : State) (w : Wait) : (s.hold w).loads = s.loads := rfl
@[simp] theorem hold_stores (s : State) (w : Wait) : (s.hold w).stores = s.stores := rfl
@[simp] theorem hold_acks (s : State) (w : Wait) : (s.hold w).acks = s.acks := rfl
@[simp] theorem hold_atoms (s : State) (w : Wait) : (s.hold w).atoms = s.atoms := rfl
@[simp] theorem hold_walks (s : State) (w : Wait) : (s.hold w).walks = s.walks := rfl
@[simp] theorem hold_infl (s : State) (w : Wait) : (s.hold w).infl = s.infl := rfl
@[simp] theorem hold_watches (s : State) (w : Wait) : (s.hold w).watches = s.watches := rfl
@[simp] theorem hold_susp (s : State) (w : Wait) : (s.hold w).susp = s.susp := rfl
@[simp] theorem hold_groups (s : State) (w : Wait) : (s.hold w).groups = s.groups := rfl
@[simp] theorem hold_cancels (s : State) (w : Wait) : (s.hold w).cancels = s.cancels := rfl
@[simp] theorem hold_wins (s : State) (w : Wait) : (s.hold w).wins = s.wins := rfl
@[simp] theorem hold_comms (s : State) (w : Wait) : (s.hold w).comms = s.comms := rfl
@[simp] theorem hold_colls (s : State) (w : Wait) : (s.hold w).colls = s.colls := rfl
@[simp] theorem hold_collK (s : State) (w : Wait) : (s.hold w).collK = s.collK := rfl
@[simp] theorem hold_links (s : State) (w : Wait) : (s.hold w).links = s.links := rfl
@[simp] theorem hold_sirxo (s : State) (w : Wait) : (s.hold w).sirxo = s.sirxo := rfl
@[simp] theorem hold_calnet (s : State) (w : Wait) : (s.hold w).calnet = s.calnet := rfl
@[simp] theorem hold_calmem (s : State) (w : Wait) : (s.hold w).calmem = s.calmem := rfl
@[simp] theorem hold_agenda (s : State) (w : Wait) : (s.hold w).agenda = s.agenda := rfl
@[simp] theorem hold_free (s : State) (w : Wait) : (s.hold w).free = s.free := rfl
@[simp] theorem hold_nuid (s : State) (w : Wait) : (s.hold w).nuid = s.nuid := rfl
@[simp] theorem hold_b_wait (s : State) (w : Wait) : (s.hold w).b.wait = w := rfl

/-! setCore -/

@[simp] theorem setCore_time (s : State) (k : Nat) (c : Core) : (s.setCore k c).time = s.time := rfl
@[simp] theorem setCore_b (s : State) (k : Nat) (c : Core) : (s.setCore k c).b = s.b := rfl
@[simp] theorem setCore_boughs (s : State) (k : Nat) (c : Core) : (s.setCore k c).boughs = s.boughs := rfl
@[simp] theorem setCore_copses (s : State) (k : Nat) (c : Core) : (s.setCore k c).copses = s.copses := rfl
@[simp] theorem setCore_launches (s : State) (k : Nat) (c : Core) : (s.setCore k c).launches = s.launches := rfl
@[simp] theorem setCore_parts (s : State) (k : Nat) (c : Core) : (s.setCore k c).parts = s.parts := rfl
@[simp] theorem setCore_mem (s : State) (k : Nat) (c : Core) : (s.setCore k c).mem = s.mem := rfl
@[simp] theorem setCore_zflag (s : State) (k : Nat) (c : Core) : (s.setCore k c).zflag = s.zflag := rfl
@[simp] theorem setCore_ecc (s : State) (k : Nat) (c : Core) : (s.setCore k c).ecc = s.ecc := rfl
@[simp] theorem setCore_dcache (s : State) (k : Nat) (c : Core) : (s.setCore k c).dcache = s.dcache := rfl
@[simp] theorem setCore_leases (s : State) (k : Nat) (c : Core) : (s.setCore k c).leases = s.leases := rfl
@[simp] theorem setCore_dcopies (s : State) (k : Nat) (c : Core) : (s.setCore k c).dcopies = s.dcopies := rfl
@[simp] theorem setCore_draws (s : State) (k : Nat) (c : Core) : (s.setCore k c).draws = s.draws := rfl
@[simp] theorem setCore_gens (s : State) (k : Nat) (c : Core) : (s.setCore k c).gens = s.gens := rfl
@[simp] theorem setCore_heart (s : State) (k : Nat) (c : Core) : (s.setCore k c).heart = s.heart := rfl
@[simp] theorem setCore_dtlb (s : State) (k : Nat) (c : Core) : (s.setCore k c).dtlb = s.dtlb := rfl
@[simp] theorem setCore_loads (s : State) (k : Nat) (c : Core) : (s.setCore k c).loads = s.loads := rfl
@[simp] theorem setCore_stores (s : State) (k : Nat) (c : Core) : (s.setCore k c).stores = s.stores := rfl
@[simp] theorem setCore_acks (s : State) (k : Nat) (c : Core) : (s.setCore k c).acks = s.acks := rfl
@[simp] theorem setCore_atoms (s : State) (k : Nat) (c : Core) : (s.setCore k c).atoms = s.atoms := rfl
@[simp] theorem setCore_walks (s : State) (k : Nat) (c : Core) : (s.setCore k c).walks = s.walks := rfl
@[simp] theorem setCore_infl (s : State) (k : Nat) (c : Core) : (s.setCore k c).infl = s.infl := rfl
@[simp] theorem setCore_watches (s : State) (k : Nat) (c : Core) : (s.setCore k c).watches = s.watches := rfl
@[simp] theorem setCore_susp (s : State) (k : Nat) (c : Core) : (s.setCore k c).susp = s.susp := rfl
@[simp] theorem setCore_groups (s : State) (k : Nat) (c : Core) : (s.setCore k c).groups = s.groups := rfl
@[simp] theorem setCore_cancels (s : State) (k : Nat) (c : Core) : (s.setCore k c).cancels = s.cancels := rfl
@[simp] theorem setCore_wins (s : State) (k : Nat) (c : Core) : (s.setCore k c).wins = s.wins := rfl
@[simp] theorem setCore_comms (s : State) (k : Nat) (c : Core) : (s.setCore k c).comms = s.comms := rfl
@[simp] theorem setCore_colls (s : State) (k : Nat) (c : Core) : (s.setCore k c).colls = s.colls := rfl
@[simp] theorem setCore_collK (s : State) (k : Nat) (c : Core) : (s.setCore k c).collK = s.collK := rfl
@[simp] theorem setCore_links (s : State) (k : Nat) (c : Core) : (s.setCore k c).links = s.links := rfl
@[simp] theorem setCore_sirxo (s : State) (k : Nat) (c : Core) : (s.setCore k c).sirxo = s.sirxo := rfl
@[simp] theorem setCore_calnet (s : State) (k : Nat) (c : Core) : (s.setCore k c).calnet = s.calnet := rfl
@[simp] theorem setCore_calmem (s : State) (k : Nat) (c : Core) : (s.setCore k c).calmem = s.calmem := rfl
@[simp] theorem setCore_agenda (s : State) (k : Nat) (c : Core) : (s.setCore k c).agenda = s.agenda := rfl
@[simp] theorem setCore_free (s : State) (k : Nat) (c : Core) : (s.setCore k c).free = s.free := rfl
@[simp] theorem setCore_nuid (s : State) (k : Nat) (c : Core) : (s.setCore k c).nuid = s.nuid := rfl

/-! modCore -/

@[simp] theorem modCore_time (s : State) (k : Nat) (f : Core → Core) : (s.modCore k f).time = s.time := rfl
@[simp] theorem modCore_b (s : State) (k : Nat) (f : Core → Core) : (s.modCore k f).b = s.b := rfl
@[simp] theorem modCore_boughs (s : State) (k : Nat) (f : Core → Core) : (s.modCore k f).boughs = s.boughs := rfl
@[simp] theorem modCore_copses (s : State) (k : Nat) (f : Core → Core) : (s.modCore k f).copses = s.copses := rfl
@[simp] theorem modCore_launches (s : State) (k : Nat) (f : Core → Core) : (s.modCore k f).launches = s.launches := rfl
@[simp] theorem modCore_parts (s : State) (k : Nat) (f : Core → Core) : (s.modCore k f).parts = s.parts := rfl
@[simp] theorem modCore_mem (s : State) (k : Nat) (f : Core → Core) : (s.modCore k f).mem = s.mem := rfl
@[simp] theorem modCore_zflag (s : State) (k : Nat) (f : Core → Core) : (s.modCore k f).zflag = s.zflag := rfl
@[simp] theorem modCore_ecc (s : State) (k : Nat) (f : Core → Core) : (s.modCore k f).ecc = s.ecc := rfl
@[simp] theorem modCore_dcache (s : State) (k : Nat) (f : Core → Core) : (s.modCore k f).dcache = s.dcache := rfl
@[simp] theorem modCore_leases (s : State) (k : Nat) (f : Core → Core) : (s.modCore k f).leases = s.leases := rfl
@[simp] theorem modCore_dcopies (s : State) (k : Nat) (f : Core → Core) : (s.modCore k f).dcopies = s.dcopies := rfl
@[simp] theorem modCore_draws (s : State) (k : Nat) (f : Core → Core) : (s.modCore k f).draws = s.draws := rfl
@[simp] theorem modCore_gens (s : State) (k : Nat) (f : Core → Core) : (s.modCore k f).gens = s.gens := rfl
@[simp] theorem modCore_heart (s : State) (k : Nat) (f : Core → Core) : (s.modCore k f).heart = s.heart := rfl
@[simp] theorem modCore_dtlb (s : State) (k : Nat) (f : Core → Core) : (s.modCore k f).dtlb = s.dtlb := rfl
@[simp] theorem modCore_loads (s : State) (k : Nat) (f : Core → Core) : (s.modCore k f).loads = s.loads := rfl
@[simp] theorem modCore_stores (s : State) (k : Nat) (f : Core → Core) : (s.modCore k f).stores = s.stores := rfl
@[simp] theorem modCore_acks (s : State) (k : Nat) (f : Core → Core) : (s.modCore k f).acks = s.acks := rfl
@[simp] theorem modCore_atoms (s : State) (k : Nat) (f : Core → Core) : (s.modCore k f).atoms = s.atoms := rfl
@[simp] theorem modCore_walks (s : State) (k : Nat) (f : Core → Core) : (s.modCore k f).walks = s.walks := rfl
@[simp] theorem modCore_infl (s : State) (k : Nat) (f : Core → Core) : (s.modCore k f).infl = s.infl := rfl
@[simp] theorem modCore_watches (s : State) (k : Nat) (f : Core → Core) : (s.modCore k f).watches = s.watches := rfl
@[simp] theorem modCore_susp (s : State) (k : Nat) (f : Core → Core) : (s.modCore k f).susp = s.susp := rfl
@[simp] theorem modCore_groups (s : State) (k : Nat) (f : Core → Core) : (s.modCore k f).groups = s.groups := rfl
@[simp] theorem modCore_cancels (s : State) (k : Nat) (f : Core → Core) : (s.modCore k f).cancels = s.cancels := rfl
@[simp] theorem modCore_wins (s : State) (k : Nat) (f : Core → Core) : (s.modCore k f).wins = s.wins := rfl
@[simp] theorem modCore_comms (s : State) (k : Nat) (f : Core → Core) : (s.modCore k f).comms = s.comms := rfl
@[simp] theorem modCore_colls (s : State) (k : Nat) (f : Core → Core) : (s.modCore k f).colls = s.colls := rfl
@[simp] theorem modCore_collK (s : State) (k : Nat) (f : Core → Core) : (s.modCore k f).collK = s.collK := rfl
@[simp] theorem modCore_links (s : State) (k : Nat) (f : Core → Core) : (s.modCore k f).links = s.links := rfl
@[simp] theorem modCore_sirxo (s : State) (k : Nat) (f : Core → Core) : (s.modCore k f).sirxo = s.sirxo := rfl
@[simp] theorem modCore_calnet (s : State) (k : Nat) (f : Core → Core) : (s.modCore k f).calnet = s.calnet := rfl
@[simp] theorem modCore_calmem (s : State) (k : Nat) (f : Core → Core) : (s.modCore k f).calmem = s.calmem := rfl
@[simp] theorem modCore_agenda (s : State) (k : Nat) (f : Core → Core) : (s.modCore k f).agenda = s.agenda := rfl
@[simp] theorem modCore_free (s : State) (k : Nat) (f : Core → Core) : (s.modCore k f).free = s.free := rfl
@[simp] theorem modCore_nuid (s : State) (k : Nat) (f : Core → Core) : (s.modCore k f).nuid = s.nuid := rfl

/-! modPart -/

@[simp] theorem modPart_time (s : State) (k : Nat) (f : Part → Part) : (s.modPart k f).time = s.time := rfl
@[simp] theorem modPart_b (s : State) (k : Nat) (f : Part → Part) : (s.modPart k f).b = s.b := rfl
@[simp] theorem modPart_boughs (s : State) (k : Nat) (f : Part → Part) : (s.modPart k f).boughs = s.boughs := rfl
@[simp] theorem modPart_copses (s : State) (k : Nat) (f : Part → Part) : (s.modPart k f).copses = s.copses := rfl
@[simp] theorem modPart_launches (s : State) (k : Nat) (f : Part → Part) : (s.modPart k f).launches = s.launches := rfl
@[simp] theorem modPart_cores (s : State) (k : Nat) (f : Part → Part) : (s.modPart k f).cores = s.cores := rfl
@[simp] theorem modPart_mem (s : State) (k : Nat) (f : Part → Part) : (s.modPart k f).mem = s.mem := rfl
@[simp] theorem modPart_zflag (s : State) (k : Nat) (f : Part → Part) : (s.modPart k f).zflag = s.zflag := rfl
@[simp] theorem modPart_ecc (s : State) (k : Nat) (f : Part → Part) : (s.modPart k f).ecc = s.ecc := rfl
@[simp] theorem modPart_dcache (s : State) (k : Nat) (f : Part → Part) : (s.modPart k f).dcache = s.dcache := rfl
@[simp] theorem modPart_leases (s : State) (k : Nat) (f : Part → Part) : (s.modPart k f).leases = s.leases := rfl
@[simp] theorem modPart_dcopies (s : State) (k : Nat) (f : Part → Part) : (s.modPart k f).dcopies = s.dcopies := rfl
@[simp] theorem modPart_draws (s : State) (k : Nat) (f : Part → Part) : (s.modPart k f).draws = s.draws := rfl
@[simp] theorem modPart_gens (s : State) (k : Nat) (f : Part → Part) : (s.modPart k f).gens = s.gens := rfl
@[simp] theorem modPart_heart (s : State) (k : Nat) (f : Part → Part) : (s.modPart k f).heart = s.heart := rfl
@[simp] theorem modPart_dtlb (s : State) (k : Nat) (f : Part → Part) : (s.modPart k f).dtlb = s.dtlb := rfl
@[simp] theorem modPart_loads (s : State) (k : Nat) (f : Part → Part) : (s.modPart k f).loads = s.loads := rfl
@[simp] theorem modPart_stores (s : State) (k : Nat) (f : Part → Part) : (s.modPart k f).stores = s.stores := rfl
@[simp] theorem modPart_acks (s : State) (k : Nat) (f : Part → Part) : (s.modPart k f).acks = s.acks := rfl
@[simp] theorem modPart_atoms (s : State) (k : Nat) (f : Part → Part) : (s.modPart k f).atoms = s.atoms := rfl
@[simp] theorem modPart_walks (s : State) (k : Nat) (f : Part → Part) : (s.modPart k f).walks = s.walks := rfl
@[simp] theorem modPart_infl (s : State) (k : Nat) (f : Part → Part) : (s.modPart k f).infl = s.infl := rfl
@[simp] theorem modPart_watches (s : State) (k : Nat) (f : Part → Part) : (s.modPart k f).watches = s.watches := rfl
@[simp] theorem modPart_susp (s : State) (k : Nat) (f : Part → Part) : (s.modPart k f).susp = s.susp := rfl
@[simp] theorem modPart_groups (s : State) (k : Nat) (f : Part → Part) : (s.modPart k f).groups = s.groups := rfl
@[simp] theorem modPart_cancels (s : State) (k : Nat) (f : Part → Part) : (s.modPart k f).cancels = s.cancels := rfl
@[simp] theorem modPart_wins (s : State) (k : Nat) (f : Part → Part) : (s.modPart k f).wins = s.wins := rfl
@[simp] theorem modPart_comms (s : State) (k : Nat) (f : Part → Part) : (s.modPart k f).comms = s.comms := rfl
@[simp] theorem modPart_colls (s : State) (k : Nat) (f : Part → Part) : (s.modPart k f).colls = s.colls := rfl
@[simp] theorem modPart_collK (s : State) (k : Nat) (f : Part → Part) : (s.modPart k f).collK = s.collK := rfl
@[simp] theorem modPart_links (s : State) (k : Nat) (f : Part → Part) : (s.modPart k f).links = s.links := rfl
@[simp] theorem modPart_sirxo (s : State) (k : Nat) (f : Part → Part) : (s.modPart k f).sirxo = s.sirxo := rfl
@[simp] theorem modPart_calnet (s : State) (k : Nat) (f : Part → Part) : (s.modPart k f).calnet = s.calnet := rfl
@[simp] theorem modPart_calmem (s : State) (k : Nat) (f : Part → Part) : (s.modPart k f).calmem = s.calmem := rfl
@[simp] theorem modPart_agenda (s : State) (k : Nat) (f : Part → Part) : (s.modPart k f).agenda = s.agenda := rfl
@[simp] theorem modPart_free (s : State) (k : Nat) (f : Part → Part) : (s.modPart k f).free = s.free := rfl
@[simp] theorem modPart_nuid (s : State) (k : Nat) (f : Part → Part) : (s.modPart k f).nuid = s.nuid := rfl

/-! modLaunch -/

@[simp] theorem modLaunch_time (s : State) (p i : Nat) (f : Launch → Launch) : (s.modLaunch p i f).time = s.time := rfl
@[simp] theorem modLaunch_b (s : State) (p i : Nat) (f : Launch → Launch) : (s.modLaunch p i f).b = s.b := rfl
@[simp] theorem modLaunch_boughs (s : State) (p i : Nat) (f : Launch → Launch) : (s.modLaunch p i f).boughs = s.boughs := rfl
@[simp] theorem modLaunch_copses (s : State) (p i : Nat) (f : Launch → Launch) : (s.modLaunch p i f).copses = s.copses := rfl
@[simp] theorem modLaunch_cores (s : State) (p i : Nat) (f : Launch → Launch) : (s.modLaunch p i f).cores = s.cores := rfl
@[simp] theorem modLaunch_parts (s : State) (p i : Nat) (f : Launch → Launch) : (s.modLaunch p i f).parts = s.parts := rfl
@[simp] theorem modLaunch_mem (s : State) (p i : Nat) (f : Launch → Launch) : (s.modLaunch p i f).mem = s.mem := rfl
@[simp] theorem modLaunch_zflag (s : State) (p i : Nat) (f : Launch → Launch) : (s.modLaunch p i f).zflag = s.zflag := rfl
@[simp] theorem modLaunch_ecc (s : State) (p i : Nat) (f : Launch → Launch) : (s.modLaunch p i f).ecc = s.ecc := rfl
@[simp] theorem modLaunch_dcache (s : State) (p i : Nat) (f : Launch → Launch) : (s.modLaunch p i f).dcache = s.dcache := rfl
@[simp] theorem modLaunch_leases (s : State) (p i : Nat) (f : Launch → Launch) : (s.modLaunch p i f).leases = s.leases := rfl
@[simp] theorem modLaunch_dcopies (s : State) (p i : Nat) (f : Launch → Launch) : (s.modLaunch p i f).dcopies = s.dcopies := rfl
@[simp] theorem modLaunch_draws (s : State) (p i : Nat) (f : Launch → Launch) : (s.modLaunch p i f).draws = s.draws := rfl
@[simp] theorem modLaunch_gens (s : State) (p i : Nat) (f : Launch → Launch) : (s.modLaunch p i f).gens = s.gens := rfl
@[simp] theorem modLaunch_heart (s : State) (p i : Nat) (f : Launch → Launch) : (s.modLaunch p i f).heart = s.heart := rfl
@[simp] theorem modLaunch_dtlb (s : State) (p i : Nat) (f : Launch → Launch) : (s.modLaunch p i f).dtlb = s.dtlb := rfl
@[simp] theorem modLaunch_loads (s : State) (p i : Nat) (f : Launch → Launch) : (s.modLaunch p i f).loads = s.loads := rfl
@[simp] theorem modLaunch_stores (s : State) (p i : Nat) (f : Launch → Launch) : (s.modLaunch p i f).stores = s.stores := rfl
@[simp] theorem modLaunch_acks (s : State) (p i : Nat) (f : Launch → Launch) : (s.modLaunch p i f).acks = s.acks := rfl
@[simp] theorem modLaunch_atoms (s : State) (p i : Nat) (f : Launch → Launch) : (s.modLaunch p i f).atoms = s.atoms := rfl
@[simp] theorem modLaunch_walks (s : State) (p i : Nat) (f : Launch → Launch) : (s.modLaunch p i f).walks = s.walks := rfl
@[simp] theorem modLaunch_infl (s : State) (p i : Nat) (f : Launch → Launch) : (s.modLaunch p i f).infl = s.infl := rfl
@[simp] theorem modLaunch_watches (s : State) (p i : Nat) (f : Launch → Launch) : (s.modLaunch p i f).watches = s.watches := rfl
@[simp] theorem modLaunch_susp (s : State) (p i : Nat) (f : Launch → Launch) : (s.modLaunch p i f).susp = s.susp := rfl
@[simp] theorem modLaunch_groups (s : State) (p i : Nat) (f : Launch → Launch) : (s.modLaunch p i f).groups = s.groups := rfl
@[simp] theorem modLaunch_cancels (s : State) (p i : Nat) (f : Launch → Launch) : (s.modLaunch p i f).cancels = s.cancels := rfl
@[simp] theorem modLaunch_wins (s : State) (p i : Nat) (f : Launch → Launch) : (s.modLaunch p i f).wins = s.wins := rfl
@[simp] theorem modLaunch_comms (s : State) (p i : Nat) (f : Launch → Launch) : (s.modLaunch p i f).comms = s.comms := rfl
@[simp] theorem modLaunch_colls (s : State) (p i : Nat) (f : Launch → Launch) : (s.modLaunch p i f).colls = s.colls := rfl
@[simp] theorem modLaunch_collK (s : State) (p i : Nat) (f : Launch → Launch) : (s.modLaunch p i f).collK = s.collK := rfl
@[simp] theorem modLaunch_links (s : State) (p i : Nat) (f : Launch → Launch) : (s.modLaunch p i f).links = s.links := rfl
@[simp] theorem modLaunch_sirxo (s : State) (p i : Nat) (f : Launch → Launch) : (s.modLaunch p i f).sirxo = s.sirxo := rfl
@[simp] theorem modLaunch_calnet (s : State) (p i : Nat) (f : Launch → Launch) : (s.modLaunch p i f).calnet = s.calnet := rfl
@[simp] theorem modLaunch_calmem (s : State) (p i : Nat) (f : Launch → Launch) : (s.modLaunch p i f).calmem = s.calmem := rfl
@[simp] theorem modLaunch_agenda (s : State) (p i : Nat) (f : Launch → Launch) : (s.modLaunch p i f).agenda = s.agenda := rfl
@[simp] theorem modLaunch_free (s : State) (p i : Nat) (f : Launch → Launch) : (s.modLaunch p i f).free = s.free := rfl
@[simp] theorem modLaunch_nuid (s : State) (p i : Nat) (f : Launch → Launch) : (s.modLaunch p i f).nuid = s.nuid := rfl

/-! modCopse -/

@[simp] theorem modCopse_time (s : State) (p l c : Nat) (f : Copse → Copse) : (s.modCopse p l c f).time = s.time := rfl
@[simp] theorem modCopse_b (s : State) (p l c : Nat) (f : Copse → Copse) : (s.modCopse p l c f).b = s.b := rfl
@[simp] theorem modCopse_boughs (s : State) (p l c : Nat) (f : Copse → Copse) : (s.modCopse p l c f).boughs = s.boughs := rfl
@[simp] theorem modCopse_launches (s : State) (p l c : Nat) (f : Copse → Copse) : (s.modCopse p l c f).launches = s.launches := rfl
@[simp] theorem modCopse_cores (s : State) (p l c : Nat) (f : Copse → Copse) : (s.modCopse p l c f).cores = s.cores := rfl
@[simp] theorem modCopse_parts (s : State) (p l c : Nat) (f : Copse → Copse) : (s.modCopse p l c f).parts = s.parts := rfl
@[simp] theorem modCopse_mem (s : State) (p l c : Nat) (f : Copse → Copse) : (s.modCopse p l c f).mem = s.mem := rfl
@[simp] theorem modCopse_zflag (s : State) (p l c : Nat) (f : Copse → Copse) : (s.modCopse p l c f).zflag = s.zflag := rfl
@[simp] theorem modCopse_ecc (s : State) (p l c : Nat) (f : Copse → Copse) : (s.modCopse p l c f).ecc = s.ecc := rfl
@[simp] theorem modCopse_dcache (s : State) (p l c : Nat) (f : Copse → Copse) : (s.modCopse p l c f).dcache = s.dcache := rfl
@[simp] theorem modCopse_leases (s : State) (p l c : Nat) (f : Copse → Copse) : (s.modCopse p l c f).leases = s.leases := rfl
@[simp] theorem modCopse_dcopies (s : State) (p l c : Nat) (f : Copse → Copse) : (s.modCopse p l c f).dcopies = s.dcopies := rfl
@[simp] theorem modCopse_draws (s : State) (p l c : Nat) (f : Copse → Copse) : (s.modCopse p l c f).draws = s.draws := rfl
@[simp] theorem modCopse_gens (s : State) (p l c : Nat) (f : Copse → Copse) : (s.modCopse p l c f).gens = s.gens := rfl
@[simp] theorem modCopse_heart (s : State) (p l c : Nat) (f : Copse → Copse) : (s.modCopse p l c f).heart = s.heart := rfl
@[simp] theorem modCopse_dtlb (s : State) (p l c : Nat) (f : Copse → Copse) : (s.modCopse p l c f).dtlb = s.dtlb := rfl
@[simp] theorem modCopse_loads (s : State) (p l c : Nat) (f : Copse → Copse) : (s.modCopse p l c f).loads = s.loads := rfl
@[simp] theorem modCopse_stores (s : State) (p l c : Nat) (f : Copse → Copse) : (s.modCopse p l c f).stores = s.stores := rfl
@[simp] theorem modCopse_acks (s : State) (p l c : Nat) (f : Copse → Copse) : (s.modCopse p l c f).acks = s.acks := rfl
@[simp] theorem modCopse_atoms (s : State) (p l c : Nat) (f : Copse → Copse) : (s.modCopse p l c f).atoms = s.atoms := rfl
@[simp] theorem modCopse_walks (s : State) (p l c : Nat) (f : Copse → Copse) : (s.modCopse p l c f).walks = s.walks := rfl
@[simp] theorem modCopse_infl (s : State) (p l c : Nat) (f : Copse → Copse) : (s.modCopse p l c f).infl = s.infl := rfl
@[simp] theorem modCopse_watches (s : State) (p l c : Nat) (f : Copse → Copse) : (s.modCopse p l c f).watches = s.watches := rfl
@[simp] theorem modCopse_susp (s : State) (p l c : Nat) (f : Copse → Copse) : (s.modCopse p l c f).susp = s.susp := rfl
@[simp] theorem modCopse_groups (s : State) (p l c : Nat) (f : Copse → Copse) : (s.modCopse p l c f).groups = s.groups := rfl
@[simp] theorem modCopse_cancels (s : State) (p l c : Nat) (f : Copse → Copse) : (s.modCopse p l c f).cancels = s.cancels := rfl
@[simp] theorem modCopse_wins (s : State) (p l c : Nat) (f : Copse → Copse) : (s.modCopse p l c f).wins = s.wins := rfl
@[simp] theorem modCopse_comms (s : State) (p l c : Nat) (f : Copse → Copse) : (s.modCopse p l c f).comms = s.comms := rfl
@[simp] theorem modCopse_colls (s : State) (p l c : Nat) (f : Copse → Copse) : (s.modCopse p l c f).colls = s.colls := rfl
@[simp] theorem modCopse_collK (s : State) (p l c : Nat) (f : Copse → Copse) : (s.modCopse p l c f).collK = s.collK := rfl
@[simp] theorem modCopse_links (s : State) (p l c : Nat) (f : Copse → Copse) : (s.modCopse p l c f).links = s.links := rfl
@[simp] theorem modCopse_sirxo (s : State) (p l c : Nat) (f : Copse → Copse) : (s.modCopse p l c f).sirxo = s.sirxo := rfl
@[simp] theorem modCopse_calnet (s : State) (p l c : Nat) (f : Copse → Copse) : (s.modCopse p l c f).calnet = s.calnet := rfl
@[simp] theorem modCopse_calmem (s : State) (p l c : Nat) (f : Copse → Copse) : (s.modCopse p l c f).calmem = s.calmem := rfl
@[simp] theorem modCopse_agenda (s : State) (p l c : Nat) (f : Copse → Copse) : (s.modCopse p l c f).agenda = s.agenda := rfl
@[simp] theorem modCopse_free (s : State) (p l c : Nat) (f : Copse → Copse) : (s.modCopse p l c f).free = s.free := rfl
@[simp] theorem modCopse_nuid (s : State) (p l c : Nat) (f : Copse → Copse) : (s.modCopse p l c f).nuid = s.nuid := rfl

/-! fresh -/

@[simp] theorem fresh_time (s : State) : (s.fresh.2).time = s.time := rfl
@[simp] theorem fresh_b (s : State) : (s.fresh.2).b = s.b := rfl
@[simp] theorem fresh_boughs (s : State) : (s.fresh.2).boughs = s.boughs := rfl
@[simp] theorem fresh_copses (s : State) : (s.fresh.2).copses = s.copses := rfl
@[simp] theorem fresh_launches (s : State) : (s.fresh.2).launches = s.launches := rfl
@[simp] theorem fresh_cores (s : State) : (s.fresh.2).cores = s.cores := rfl
@[simp] theorem fresh_parts (s : State) : (s.fresh.2).parts = s.parts := rfl
@[simp] theorem fresh_mem (s : State) : (s.fresh.2).mem = s.mem := rfl
@[simp] theorem fresh_zflag (s : State) : (s.fresh.2).zflag = s.zflag := rfl
@[simp] theorem fresh_ecc (s : State) : (s.fresh.2).ecc = s.ecc := rfl
@[simp] theorem fresh_dcache (s : State) : (s.fresh.2).dcache = s.dcache := rfl
@[simp] theorem fresh_leases (s : State) : (s.fresh.2).leases = s.leases := rfl
@[simp] theorem fresh_dcopies (s : State) : (s.fresh.2).dcopies = s.dcopies := rfl
@[simp] theorem fresh_draws (s : State) : (s.fresh.2).draws = s.draws := rfl
@[simp] theorem fresh_gens (s : State) : (s.fresh.2).gens = s.gens := rfl
@[simp] theorem fresh_heart (s : State) : (s.fresh.2).heart = s.heart := rfl
@[simp] theorem fresh_dtlb (s : State) : (s.fresh.2).dtlb = s.dtlb := rfl
@[simp] theorem fresh_loads (s : State) : (s.fresh.2).loads = s.loads := rfl
@[simp] theorem fresh_stores (s : State) : (s.fresh.2).stores = s.stores := rfl
@[simp] theorem fresh_acks (s : State) : (s.fresh.2).acks = s.acks := rfl
@[simp] theorem fresh_atoms (s : State) : (s.fresh.2).atoms = s.atoms := rfl
@[simp] theorem fresh_walks (s : State) : (s.fresh.2).walks = s.walks := rfl
@[simp] theorem fresh_infl (s : State) : (s.fresh.2).infl = s.infl := rfl
@[simp] theorem fresh_watches (s : State) : (s.fresh.2).watches = s.watches := rfl
@[simp] theorem fresh_susp (s : State) : (s.fresh.2).susp = s.susp := rfl
@[simp] theorem fresh_groups (s : State) : (s.fresh.2).groups = s.groups := rfl
@[simp] theorem fresh_cancels (s : State) : (s.fresh.2).cancels = s.cancels := rfl
@[simp] theorem fresh_wins (s : State) : (s.fresh.2).wins = s.wins := rfl
@[simp] theorem fresh_comms (s : State) : (s.fresh.2).comms = s.comms := rfl
@[simp] theorem fresh_colls (s : State) : (s.fresh.2).colls = s.colls := rfl
@[simp] theorem fresh_collK (s : State) : (s.fresh.2).collK = s.collK := rfl
@[simp] theorem fresh_links (s : State) : (s.fresh.2).links = s.links := rfl
@[simp] theorem fresh_sirxo (s : State) : (s.fresh.2).sirxo = s.sirxo := rfl
@[simp] theorem fresh_calnet (s : State) : (s.fresh.2).calnet = s.calnet := rfl
@[simp] theorem fresh_calmem (s : State) : (s.fresh.2).calmem = s.calmem := rfl
@[simp] theorem fresh_agenda (s : State) : (s.fresh.2).agenda = s.agenda := rfl
@[simp] theorem fresh_free (s : State) : (s.fresh.2).free = s.free := rfl
@[simp] theorem fresh_nuid (s : State) : s.fresh.2.nuid = s.nuid + 1 := rfl
@[simp] theorem fresh_id (s : State) : s.fresh.1 = s.nuid := rfl

/-! freeValue -/

@[simp] theorem freeValue_time (s : State) : (s.freeValue).time = s.time := rfl
@[simp] theorem freeValue_b (s : State) : (s.freeValue).b = s.b := rfl
@[simp] theorem freeValue_boughs (s : State) : (s.freeValue).boughs = s.boughs := rfl
@[simp] theorem freeValue_copses (s : State) : (s.freeValue).copses = s.copses := rfl
@[simp] theorem freeValue_launches (s : State) : (s.freeValue).launches = s.launches := rfl
@[simp] theorem freeValue_cores (s : State) : (s.freeValue).cores = s.cores := rfl
@[simp] theorem freeValue_parts (s : State) : (s.freeValue).parts = s.parts := rfl
@[simp] theorem freeValue_mem (s : State) : (s.freeValue).mem = s.mem := rfl
@[simp] theorem freeValue_zflag (s : State) : (s.freeValue).zflag = s.zflag := rfl
@[simp] theorem freeValue_ecc (s : State) : (s.freeValue).ecc = s.ecc := rfl
@[simp] theorem freeValue_dcache (s : State) : (s.freeValue).dcache = s.dcache := rfl
@[simp] theorem freeValue_leases (s : State) : (s.freeValue).leases = s.leases := rfl
@[simp] theorem freeValue_dcopies (s : State) : (s.freeValue).dcopies = s.dcopies := rfl
@[simp] theorem freeValue_draws (s : State) : (s.freeValue).draws = s.draws := rfl
@[simp] theorem freeValue_gens (s : State) : (s.freeValue).gens = s.gens := rfl
@[simp] theorem freeValue_heart (s : State) : (s.freeValue).heart = s.heart := rfl
@[simp] theorem freeValue_dtlb (s : State) : (s.freeValue).dtlb = s.dtlb := rfl
@[simp] theorem freeValue_loads (s : State) : (s.freeValue).loads = s.loads := rfl
@[simp] theorem freeValue_stores (s : State) : (s.freeValue).stores = s.stores := rfl
@[simp] theorem freeValue_acks (s : State) : (s.freeValue).acks = s.acks := rfl
@[simp] theorem freeValue_atoms (s : State) : (s.freeValue).atoms = s.atoms := rfl
@[simp] theorem freeValue_walks (s : State) : (s.freeValue).walks = s.walks := rfl
@[simp] theorem freeValue_infl (s : State) : (s.freeValue).infl = s.infl := rfl
@[simp] theorem freeValue_watches (s : State) : (s.freeValue).watches = s.watches := rfl
@[simp] theorem freeValue_susp (s : State) : (s.freeValue).susp = s.susp := rfl
@[simp] theorem freeValue_groups (s : State) : (s.freeValue).groups = s.groups := rfl
@[simp] theorem freeValue_cancels (s : State) : (s.freeValue).cancels = s.cancels := rfl
@[simp] theorem freeValue_wins (s : State) : (s.freeValue).wins = s.wins := rfl
@[simp] theorem freeValue_comms (s : State) : (s.freeValue).comms = s.comms := rfl
@[simp] theorem freeValue_colls (s : State) : (s.freeValue).colls = s.colls := rfl
@[simp] theorem freeValue_collK (s : State) : (s.freeValue).collK = s.collK := rfl
@[simp] theorem freeValue_links (s : State) : (s.freeValue).links = s.links := rfl
@[simp] theorem freeValue_sirxo (s : State) : (s.freeValue).sirxo = s.sirxo := rfl
@[simp] theorem freeValue_calnet (s : State) : (s.freeValue).calnet = s.calnet := rfl
@[simp] theorem freeValue_calmem (s : State) : (s.freeValue).calmem = s.calmem := rfl
@[simp] theorem freeValue_agenda (s : State) : (s.freeValue).agenda = s.agenda := rfl
@[simp] theorem freeValue_nuid (s : State) : (s.freeValue).nuid = s.nuid := rfl
@[simp] theorem freeValue_free (s : State) : s.freeValue.free = s.free + 1 := rfl

/-! modBoughs -/

@[simp] theorem modBoughs_time (s : State) (p : Bough → Bool) (f : Bough → Bough) : (s.modBoughs p f).time = s.time := rfl
@[simp] theorem modBoughs_copses (s : State) (p : Bough → Bool) (f : Bough → Bough) : (s.modBoughs p f).copses = s.copses := rfl
@[simp] theorem modBoughs_launches (s : State) (p : Bough → Bool) (f : Bough → Bough) : (s.modBoughs p f).launches = s.launches := rfl
@[simp] theorem modBoughs_cores (s : State) (p : Bough → Bool) (f : Bough → Bough) : (s.modBoughs p f).cores = s.cores := rfl
@[simp] theorem modBoughs_parts (s : State) (p : Bough → Bool) (f : Bough → Bough) : (s.modBoughs p f).parts = s.parts := rfl
@[simp] theorem modBoughs_mem (s : State) (p : Bough → Bool) (f : Bough → Bough) : (s.modBoughs p f).mem = s.mem := rfl
@[simp] theorem modBoughs_zflag (s : State) (p : Bough → Bool) (f : Bough → Bough) : (s.modBoughs p f).zflag = s.zflag := rfl
@[simp] theorem modBoughs_ecc (s : State) (p : Bough → Bool) (f : Bough → Bough) : (s.modBoughs p f).ecc = s.ecc := rfl
@[simp] theorem modBoughs_dcache (s : State) (p : Bough → Bool) (f : Bough → Bough) : (s.modBoughs p f).dcache = s.dcache := rfl
@[simp] theorem modBoughs_leases (s : State) (p : Bough → Bool) (f : Bough → Bough) : (s.modBoughs p f).leases = s.leases := rfl
@[simp] theorem modBoughs_dcopies (s : State) (p : Bough → Bool) (f : Bough → Bough) : (s.modBoughs p f).dcopies = s.dcopies := rfl
@[simp] theorem modBoughs_draws (s : State) (p : Bough → Bool) (f : Bough → Bough) : (s.modBoughs p f).draws = s.draws := rfl
@[simp] theorem modBoughs_gens (s : State) (p : Bough → Bool) (f : Bough → Bough) : (s.modBoughs p f).gens = s.gens := rfl
@[simp] theorem modBoughs_heart (s : State) (p : Bough → Bool) (f : Bough → Bough) : (s.modBoughs p f).heart = s.heart := rfl
@[simp] theorem modBoughs_dtlb (s : State) (p : Bough → Bool) (f : Bough → Bough) : (s.modBoughs p f).dtlb = s.dtlb := rfl
@[simp] theorem modBoughs_loads (s : State) (p : Bough → Bool) (f : Bough → Bough) : (s.modBoughs p f).loads = s.loads := rfl
@[simp] theorem modBoughs_stores (s : State) (p : Bough → Bool) (f : Bough → Bough) : (s.modBoughs p f).stores = s.stores := rfl
@[simp] theorem modBoughs_acks (s : State) (p : Bough → Bool) (f : Bough → Bough) : (s.modBoughs p f).acks = s.acks := rfl
@[simp] theorem modBoughs_atoms (s : State) (p : Bough → Bool) (f : Bough → Bough) : (s.modBoughs p f).atoms = s.atoms := rfl
@[simp] theorem modBoughs_walks (s : State) (p : Bough → Bool) (f : Bough → Bough) : (s.modBoughs p f).walks = s.walks := rfl
@[simp] theorem modBoughs_infl (s : State) (p : Bough → Bool) (f : Bough → Bough) : (s.modBoughs p f).infl = s.infl := rfl
@[simp] theorem modBoughs_watches (s : State) (p : Bough → Bool) (f : Bough → Bough) : (s.modBoughs p f).watches = s.watches := rfl
@[simp] theorem modBoughs_susp (s : State) (p : Bough → Bool) (f : Bough → Bough) : (s.modBoughs p f).susp = s.susp := rfl
@[simp] theorem modBoughs_groups (s : State) (p : Bough → Bool) (f : Bough → Bough) : (s.modBoughs p f).groups = s.groups := rfl
@[simp] theorem modBoughs_cancels (s : State) (p : Bough → Bool) (f : Bough → Bough) : (s.modBoughs p f).cancels = s.cancels := rfl
@[simp] theorem modBoughs_wins (s : State) (p : Bough → Bool) (f : Bough → Bough) : (s.modBoughs p f).wins = s.wins := rfl
@[simp] theorem modBoughs_comms (s : State) (p : Bough → Bool) (f : Bough → Bough) : (s.modBoughs p f).comms = s.comms := rfl
@[simp] theorem modBoughs_colls (s : State) (p : Bough → Bool) (f : Bough → Bough) : (s.modBoughs p f).colls = s.colls := rfl
@[simp] theorem modBoughs_collK (s : State) (p : Bough → Bool) (f : Bough → Bough) : (s.modBoughs p f).collK = s.collK := rfl
@[simp] theorem modBoughs_links (s : State) (p : Bough → Bool) (f : Bough → Bough) : (s.modBoughs p f).links = s.links := rfl
@[simp] theorem modBoughs_sirxo (s : State) (p : Bough → Bool) (f : Bough → Bough) : (s.modBoughs p f).sirxo = s.sirxo := rfl
@[simp] theorem modBoughs_calnet (s : State) (p : Bough → Bool) (f : Bough → Bough) : (s.modBoughs p f).calnet = s.calnet := rfl
@[simp] theorem modBoughs_calmem (s : State) (p : Bough → Bool) (f : Bough → Bough) : (s.modBoughs p f).calmem = s.calmem := rfl
@[simp] theorem modBoughs_agenda (s : State) (p : Bough → Bool) (f : Bough → Bough) : (s.modBoughs p f).agenda = s.agenda := rfl
@[simp] theorem modBoughs_free (s : State) (p : Bough → Bool) (f : Bough → Bough) : (s.modBoughs p f).free = s.free := rfl
@[simp] theorem modBoughs_nuid (s : State) (p : Bough → Bool) (f : Bough → Bough) : (s.modBoughs p f).nuid = s.nuid := rfl

/-! zeroLine -/

@[simp] theorem zeroLine_time (s : State) (n : Nat) : (s.zeroLine n).time = s.time := rfl
@[simp] theorem zeroLine_b (s : State) (n : Nat) : (s.zeroLine n).b = s.b := rfl
@[simp] theorem zeroLine_boughs (s : State) (n : Nat) : (s.zeroLine n).boughs = s.boughs := rfl
@[simp] theorem zeroLine_copses (s : State) (n : Nat) : (s.zeroLine n).copses = s.copses := rfl
@[simp] theorem zeroLine_launches (s : State) (n : Nat) : (s.zeroLine n).launches = s.launches := rfl
@[simp] theorem zeroLine_cores (s : State) (n : Nat) : (s.zeroLine n).cores = s.cores := rfl
@[simp] theorem zeroLine_parts (s : State) (n : Nat) : (s.zeroLine n).parts = s.parts := rfl
@[simp] theorem zeroLine_leases (s : State) (n : Nat) : (s.zeroLine n).leases = s.leases := rfl
@[simp] theorem zeroLine_dcopies (s : State) (n : Nat) : (s.zeroLine n).dcopies = s.dcopies := rfl
@[simp] theorem zeroLine_draws (s : State) (n : Nat) : (s.zeroLine n).draws = s.draws := rfl
@[simp] theorem zeroLine_gens (s : State) (n : Nat) : (s.zeroLine n).gens = s.gens := rfl
@[simp] theorem zeroLine_heart (s : State) (n : Nat) : (s.zeroLine n).heart = s.heart := rfl
@[simp] theorem zeroLine_dtlb (s : State) (n : Nat) : (s.zeroLine n).dtlb = s.dtlb := rfl
@[simp] theorem zeroLine_loads (s : State) (n : Nat) : (s.zeroLine n).loads = s.loads := rfl
@[simp] theorem zeroLine_stores (s : State) (n : Nat) : (s.zeroLine n).stores = s.stores := rfl
@[simp] theorem zeroLine_acks (s : State) (n : Nat) : (s.zeroLine n).acks = s.acks := rfl
@[simp] theorem zeroLine_atoms (s : State) (n : Nat) : (s.zeroLine n).atoms = s.atoms := rfl
@[simp] theorem zeroLine_walks (s : State) (n : Nat) : (s.zeroLine n).walks = s.walks := rfl
@[simp] theorem zeroLine_infl (s : State) (n : Nat) : (s.zeroLine n).infl = s.infl := rfl
@[simp] theorem zeroLine_watches (s : State) (n : Nat) : (s.zeroLine n).watches = s.watches := rfl
@[simp] theorem zeroLine_susp (s : State) (n : Nat) : (s.zeroLine n).susp = s.susp := rfl
@[simp] theorem zeroLine_groups (s : State) (n : Nat) : (s.zeroLine n).groups = s.groups := rfl
@[simp] theorem zeroLine_cancels (s : State) (n : Nat) : (s.zeroLine n).cancels = s.cancels := rfl
@[simp] theorem zeroLine_wins (s : State) (n : Nat) : (s.zeroLine n).wins = s.wins := rfl
@[simp] theorem zeroLine_comms (s : State) (n : Nat) : (s.zeroLine n).comms = s.comms := rfl
@[simp] theorem zeroLine_colls (s : State) (n : Nat) : (s.zeroLine n).colls = s.colls := rfl
@[simp] theorem zeroLine_collK (s : State) (n : Nat) : (s.zeroLine n).collK = s.collK := rfl
@[simp] theorem zeroLine_links (s : State) (n : Nat) : (s.zeroLine n).links = s.links := rfl
@[simp] theorem zeroLine_sirxo (s : State) (n : Nat) : (s.zeroLine n).sirxo = s.sirxo := rfl
@[simp] theorem zeroLine_calnet (s : State) (n : Nat) : (s.zeroLine n).calnet = s.calnet := rfl
@[simp] theorem zeroLine_calmem (s : State) (n : Nat) : (s.zeroLine n).calmem = s.calmem := rfl
@[simp] theorem zeroLine_agenda (s : State) (n : Nat) : (s.zeroLine n).agenda = s.agenda := rfl
@[simp] theorem zeroLine_free (s : State) (n : Nat) : (s.zeroLine n).free = s.free := rfl
@[simp] theorem zeroLine_nuid (s : State) (n : Nat) : (s.zeroLine n).nuid = s.nuid := rfl

/-! wr -/

@[simp] theorem wr_time (s : State) (pa n v : Nat) : (s.wr pa n v).time = s.time := by unfold State.wr; split <;> rfl
@[simp] theorem wr_b (s : State) (pa n v : Nat) : (s.wr pa n v).b = s.b := by unfold State.wr; split <;> rfl
@[simp] theorem wr_boughs (s : State) (pa n v : Nat) : (s.wr pa n v).boughs = s.boughs := by unfold State.wr; split <;> rfl
@[simp] theorem wr_copses (s : State) (pa n v : Nat) : (s.wr pa n v).copses = s.copses := by unfold State.wr; split <;> rfl
@[simp] theorem wr_launches (s : State) (pa n v : Nat) : (s.wr pa n v).launches = s.launches := by unfold State.wr; split <;> rfl
@[simp] theorem wr_cores (s : State) (pa n v : Nat) : (s.wr pa n v).cores = s.cores := by unfold State.wr; split <;> rfl
@[simp] theorem wr_parts (s : State) (pa n v : Nat) : (s.wr pa n v).parts = s.parts := by unfold State.wr; split <;> rfl
@[simp] theorem wr_ecc (s : State) (pa n v : Nat) : (s.wr pa n v).ecc = s.ecc := by unfold State.wr; split <;> rfl
@[simp] theorem wr_leases (s : State) (pa n v : Nat) : (s.wr pa n v).leases = s.leases := by unfold State.wr; split <;> rfl
@[simp] theorem wr_dcopies (s : State) (pa n v : Nat) : (s.wr pa n v).dcopies = s.dcopies := by unfold State.wr; split <;> rfl
@[simp] theorem wr_draws (s : State) (pa n v : Nat) : (s.wr pa n v).draws = s.draws := by unfold State.wr; split <;> rfl
@[simp] theorem wr_gens (s : State) (pa n v : Nat) : (s.wr pa n v).gens = s.gens := by unfold State.wr; split <;> rfl
@[simp] theorem wr_heart (s : State) (pa n v : Nat) : (s.wr pa n v).heart = s.heart := by unfold State.wr; split <;> rfl
@[simp] theorem wr_dtlb (s : State) (pa n v : Nat) : (s.wr pa n v).dtlb = s.dtlb := by unfold State.wr; split <;> rfl
@[simp] theorem wr_loads (s : State) (pa n v : Nat) : (s.wr pa n v).loads = s.loads := by unfold State.wr; split <;> rfl
@[simp] theorem wr_stores (s : State) (pa n v : Nat) : (s.wr pa n v).stores = s.stores := by unfold State.wr; split <;> rfl
@[simp] theorem wr_acks (s : State) (pa n v : Nat) : (s.wr pa n v).acks = s.acks := by unfold State.wr; split <;> rfl
@[simp] theorem wr_atoms (s : State) (pa n v : Nat) : (s.wr pa n v).atoms = s.atoms := by unfold State.wr; split <;> rfl
@[simp] theorem wr_walks (s : State) (pa n v : Nat) : (s.wr pa n v).walks = s.walks := by unfold State.wr; split <;> rfl
@[simp] theorem wr_infl (s : State) (pa n v : Nat) : (s.wr pa n v).infl = s.infl := by unfold State.wr; split <;> rfl
@[simp] theorem wr_watches (s : State) (pa n v : Nat) : (s.wr pa n v).watches = s.watches := by unfold State.wr; split <;> rfl
@[simp] theorem wr_susp (s : State) (pa n v : Nat) : (s.wr pa n v).susp = s.susp := by unfold State.wr; split <;> rfl
@[simp] theorem wr_groups (s : State) (pa n v : Nat) : (s.wr pa n v).groups = s.groups := by unfold State.wr; split <;> rfl
@[simp] theorem wr_cancels (s : State) (pa n v : Nat) : (s.wr pa n v).cancels = s.cancels := by unfold State.wr; split <;> rfl
@[simp] theorem wr_wins (s : State) (pa n v : Nat) : (s.wr pa n v).wins = s.wins := by unfold State.wr; split <;> rfl
@[simp] theorem wr_comms (s : State) (pa n v : Nat) : (s.wr pa n v).comms = s.comms := by unfold State.wr; split <;> rfl
@[simp] theorem wr_colls (s : State) (pa n v : Nat) : (s.wr pa n v).colls = s.colls := by unfold State.wr; split <;> rfl
@[simp] theorem wr_collK (s : State) (pa n v : Nat) : (s.wr pa n v).collK = s.collK := by unfold State.wr; split <;> rfl
@[simp] theorem wr_links (s : State) (pa n v : Nat) : (s.wr pa n v).links = s.links := by unfold State.wr; split <;> rfl
@[simp] theorem wr_sirxo (s : State) (pa n v : Nat) : (s.wr pa n v).sirxo = s.sirxo := by unfold State.wr; split <;> rfl
@[simp] theorem wr_calnet (s : State) (pa n v : Nat) : (s.wr pa n v).calnet = s.calnet := by unfold State.wr; split <;> rfl
@[simp] theorem wr_calmem (s : State) (pa n v : Nat) : (s.wr pa n v).calmem = s.calmem := by unfold State.wr; split <;> rfl
@[simp] theorem wr_agenda (s : State) (pa n v : Nat) : (s.wr pa n v).agenda = s.agenda := by unfold State.wr; split <;> rfl
@[simp] theorem wr_free (s : State) (pa n v : Nat) : (s.wr pa n v).free = s.free := by unfold State.wr; split <;> rfl
@[simp] theorem wr_nuid (s : State) (pa n v : Nat) : (s.wr pa n v).nuid = s.nuid := by unfold State.wr; split <;> rfl
@[simp] theorem wr_mem (s : State) (pa n v : Nat) : (s.wr pa n v).mem = Sparse.setLE s.mem pa n v := by
  unfold State.wr; split
  · subst n; rfl
  · rfl

/-! modBough -/

@[simp] theorem modBough_time (s : State) (u : Nat) (f : Bough → Bough) : (s.modBough u f).time = s.time := by
  unfold State.modBough; split; rfl; split <;> rfl
@[simp] theorem modBough_copses (s : State) (u : Nat) (f : Bough → Bough) : (s.modBough u f).copses = s.copses := by
  unfold State.modBough; split; rfl; split <;> rfl
@[simp] theorem modBough_launches (s : State) (u : Nat) (f : Bough → Bough) : (s.modBough u f).launches = s.launches := by
  unfold State.modBough; split; rfl; split <;> rfl
@[simp] theorem modBough_cores (s : State) (u : Nat) (f : Bough → Bough) : (s.modBough u f).cores = s.cores := by
  unfold State.modBough; split; rfl; split <;> rfl
@[simp] theorem modBough_parts (s : State) (u : Nat) (f : Bough → Bough) : (s.modBough u f).parts = s.parts := by
  unfold State.modBough; split; rfl; split <;> rfl
@[simp] theorem modBough_mem (s : State) (u : Nat) (f : Bough → Bough) : (s.modBough u f).mem = s.mem := by
  unfold State.modBough; split; rfl; split <;> rfl
@[simp] theorem modBough_zflag (s : State) (u : Nat) (f : Bough → Bough) : (s.modBough u f).zflag = s.zflag := by
  unfold State.modBough; split; rfl; split <;> rfl
@[simp] theorem modBough_ecc (s : State) (u : Nat) (f : Bough → Bough) : (s.modBough u f).ecc = s.ecc := by
  unfold State.modBough; split; rfl; split <;> rfl
@[simp] theorem modBough_dcache (s : State) (u : Nat) (f : Bough → Bough) : (s.modBough u f).dcache = s.dcache := by
  unfold State.modBough; split; rfl; split <;> rfl
@[simp] theorem modBough_leases (s : State) (u : Nat) (f : Bough → Bough) : (s.modBough u f).leases = s.leases := by
  unfold State.modBough; split; rfl; split <;> rfl
@[simp] theorem modBough_dcopies (s : State) (u : Nat) (f : Bough → Bough) : (s.modBough u f).dcopies = s.dcopies := by
  unfold State.modBough; split; rfl; split <;> rfl
@[simp] theorem modBough_draws (s : State) (u : Nat) (f : Bough → Bough) : (s.modBough u f).draws = s.draws := by
  unfold State.modBough; split; rfl; split <;> rfl
@[simp] theorem modBough_gens (s : State) (u : Nat) (f : Bough → Bough) : (s.modBough u f).gens = s.gens := by
  unfold State.modBough; split; rfl; split <;> rfl
@[simp] theorem modBough_heart (s : State) (u : Nat) (f : Bough → Bough) : (s.modBough u f).heart = s.heart := by
  unfold State.modBough; split; rfl; split <;> rfl
@[simp] theorem modBough_dtlb (s : State) (u : Nat) (f : Bough → Bough) : (s.modBough u f).dtlb = s.dtlb := by
  unfold State.modBough; split; rfl; split <;> rfl
@[simp] theorem modBough_loads (s : State) (u : Nat) (f : Bough → Bough) : (s.modBough u f).loads = s.loads := by
  unfold State.modBough; split; rfl; split <;> rfl
@[simp] theorem modBough_stores (s : State) (u : Nat) (f : Bough → Bough) : (s.modBough u f).stores = s.stores := by
  unfold State.modBough; split; rfl; split <;> rfl
@[simp] theorem modBough_acks (s : State) (u : Nat) (f : Bough → Bough) : (s.modBough u f).acks = s.acks := by
  unfold State.modBough; split; rfl; split <;> rfl
@[simp] theorem modBough_atoms (s : State) (u : Nat) (f : Bough → Bough) : (s.modBough u f).atoms = s.atoms := by
  unfold State.modBough; split; rfl; split <;> rfl
@[simp] theorem modBough_walks (s : State) (u : Nat) (f : Bough → Bough) : (s.modBough u f).walks = s.walks := by
  unfold State.modBough; split; rfl; split <;> rfl
@[simp] theorem modBough_infl (s : State) (u : Nat) (f : Bough → Bough) : (s.modBough u f).infl = s.infl := by
  unfold State.modBough; split; rfl; split <;> rfl
@[simp] theorem modBough_watches (s : State) (u : Nat) (f : Bough → Bough) : (s.modBough u f).watches = s.watches := by
  unfold State.modBough; split; rfl; split <;> rfl
@[simp] theorem modBough_susp (s : State) (u : Nat) (f : Bough → Bough) : (s.modBough u f).susp = s.susp := by
  unfold State.modBough; split; rfl; split <;> rfl
@[simp] theorem modBough_groups (s : State) (u : Nat) (f : Bough → Bough) : (s.modBough u f).groups = s.groups := by
  unfold State.modBough; split; rfl; split <;> rfl
@[simp] theorem modBough_cancels (s : State) (u : Nat) (f : Bough → Bough) : (s.modBough u f).cancels = s.cancels := by
  unfold State.modBough; split; rfl; split <;> rfl
@[simp] theorem modBough_wins (s : State) (u : Nat) (f : Bough → Bough) : (s.modBough u f).wins = s.wins := by
  unfold State.modBough; split; rfl; split <;> rfl
@[simp] theorem modBough_comms (s : State) (u : Nat) (f : Bough → Bough) : (s.modBough u f).comms = s.comms := by
  unfold State.modBough; split; rfl; split <;> rfl
@[simp] theorem modBough_colls (s : State) (u : Nat) (f : Bough → Bough) : (s.modBough u f).colls = s.colls := by
  unfold State.modBough; split; rfl; split <;> rfl
@[simp] theorem modBough_collK (s : State) (u : Nat) (f : Bough → Bough) : (s.modBough u f).collK = s.collK := by
  unfold State.modBough; split; rfl; split <;> rfl
@[simp] theorem modBough_links (s : State) (u : Nat) (f : Bough → Bough) : (s.modBough u f).links = s.links := by
  unfold State.modBough; split; rfl; split <;> rfl
@[simp] theorem modBough_sirxo (s : State) (u : Nat) (f : Bough → Bough) : (s.modBough u f).sirxo = s.sirxo := by
  unfold State.modBough; split; rfl; split <;> rfl
@[simp] theorem modBough_calnet (s : State) (u : Nat) (f : Bough → Bough) : (s.modBough u f).calnet = s.calnet := by
  unfold State.modBough; split; rfl; split <;> rfl
@[simp] theorem modBough_calmem (s : State) (u : Nat) (f : Bough → Bough) : (s.modBough u f).calmem = s.calmem := by
  unfold State.modBough; split; rfl; split <;> rfl
@[simp] theorem modBough_agenda (s : State) (u : Nat) (f : Bough → Bough) : (s.modBough u f).agenda = s.agenda := by
  unfold State.modBough; split; rfl; split <;> rfl
@[simp] theorem modBough_free (s : State) (u : Nat) (f : Bough → Bough) : (s.modBough u f).free = s.free := by
  unfold State.modBough; split; rfl; split <;> rfl
@[simp] theorem modBough_nuid (s : State) (u : Nat) (f : Bough → Bough) : (s.modBough u f).nuid = s.nuid := by
  unfold State.modBough; split; rfl; split <;> rfl

/-! focus -/

@[simp] theorem focus_time (s : State) (u : Nat) : (s.focus u).time = s.time := by
  unfold State.focus; split; rfl; split <;> rfl
@[simp] theorem focus_copses (s : State) (u : Nat) : (s.focus u).copses = s.copses := by
  unfold State.focus; split; rfl; split <;> rfl
@[simp] theorem focus_launches (s : State) (u : Nat) : (s.focus u).launches = s.launches := by
  unfold State.focus; split; rfl; split <;> rfl
@[simp] theorem focus_cores (s : State) (u : Nat) : (s.focus u).cores = s.cores := by
  unfold State.focus; split; rfl; split <;> rfl
@[simp] theorem focus_parts (s : State) (u : Nat) : (s.focus u).parts = s.parts := by
  unfold State.focus; split; rfl; split <;> rfl
@[simp] theorem focus_mem (s : State) (u : Nat) : (s.focus u).mem = s.mem := by
  unfold State.focus; split; rfl; split <;> rfl
@[simp] theorem focus_zflag (s : State) (u : Nat) : (s.focus u).zflag = s.zflag := by
  unfold State.focus; split; rfl; split <;> rfl
@[simp] theorem focus_ecc (s : State) (u : Nat) : (s.focus u).ecc = s.ecc := by
  unfold State.focus; split; rfl; split <;> rfl
@[simp] theorem focus_dcache (s : State) (u : Nat) : (s.focus u).dcache = s.dcache := by
  unfold State.focus; split; rfl; split <;> rfl
@[simp] theorem focus_leases (s : State) (u : Nat) : (s.focus u).leases = s.leases := by
  unfold State.focus; split; rfl; split <;> rfl
@[simp] theorem focus_dcopies (s : State) (u : Nat) : (s.focus u).dcopies = s.dcopies := by
  unfold State.focus; split; rfl; split <;> rfl
@[simp] theorem focus_draws (s : State) (u : Nat) : (s.focus u).draws = s.draws := by
  unfold State.focus; split; rfl; split <;> rfl
@[simp] theorem focus_gens (s : State) (u : Nat) : (s.focus u).gens = s.gens := by
  unfold State.focus; split; rfl; split <;> rfl
@[simp] theorem focus_heart (s : State) (u : Nat) : (s.focus u).heart = s.heart := by
  unfold State.focus; split; rfl; split <;> rfl
@[simp] theorem focus_dtlb (s : State) (u : Nat) : (s.focus u).dtlb = s.dtlb := by
  unfold State.focus; split; rfl; split <;> rfl
@[simp] theorem focus_loads (s : State) (u : Nat) : (s.focus u).loads = s.loads := by
  unfold State.focus; split; rfl; split <;> rfl
@[simp] theorem focus_stores (s : State) (u : Nat) : (s.focus u).stores = s.stores := by
  unfold State.focus; split; rfl; split <;> rfl
@[simp] theorem focus_acks (s : State) (u : Nat) : (s.focus u).acks = s.acks := by
  unfold State.focus; split; rfl; split <;> rfl
@[simp] theorem focus_atoms (s : State) (u : Nat) : (s.focus u).atoms = s.atoms := by
  unfold State.focus; split; rfl; split <;> rfl
@[simp] theorem focus_walks (s : State) (u : Nat) : (s.focus u).walks = s.walks := by
  unfold State.focus; split; rfl; split <;> rfl
@[simp] theorem focus_infl (s : State) (u : Nat) : (s.focus u).infl = s.infl := by
  unfold State.focus; split; rfl; split <;> rfl
@[simp] theorem focus_watches (s : State) (u : Nat) : (s.focus u).watches = s.watches := by
  unfold State.focus; split; rfl; split <;> rfl
@[simp] theorem focus_susp (s : State) (u : Nat) : (s.focus u).susp = s.susp := by
  unfold State.focus; split; rfl; split <;> rfl
@[simp] theorem focus_groups (s : State) (u : Nat) : (s.focus u).groups = s.groups := by
  unfold State.focus; split; rfl; split <;> rfl
@[simp] theorem focus_cancels (s : State) (u : Nat) : (s.focus u).cancels = s.cancels := by
  unfold State.focus; split; rfl; split <;> rfl
@[simp] theorem focus_wins (s : State) (u : Nat) : (s.focus u).wins = s.wins := by
  unfold State.focus; split; rfl; split <;> rfl
@[simp] theorem focus_comms (s : State) (u : Nat) : (s.focus u).comms = s.comms := by
  unfold State.focus; split; rfl; split <;> rfl
@[simp] theorem focus_colls (s : State) (u : Nat) : (s.focus u).colls = s.colls := by
  unfold State.focus; split; rfl; split <;> rfl
@[simp] theorem focus_collK (s : State) (u : Nat) : (s.focus u).collK = s.collK := by
  unfold State.focus; split; rfl; split <;> rfl
@[simp] theorem focus_links (s : State) (u : Nat) : (s.focus u).links = s.links := by
  unfold State.focus; split; rfl; split <;> rfl
@[simp] theorem focus_sirxo (s : State) (u : Nat) : (s.focus u).sirxo = s.sirxo := by
  unfold State.focus; split; rfl; split <;> rfl
@[simp] theorem focus_calnet (s : State) (u : Nat) : (s.focus u).calnet = s.calnet := by
  unfold State.focus; split; rfl; split <;> rfl
@[simp] theorem focus_calmem (s : State) (u : Nat) : (s.focus u).calmem = s.calmem := by
  unfold State.focus; split; rfl; split <;> rfl
@[simp] theorem focus_agenda (s : State) (u : Nat) : (s.focus u).agenda = s.agenda := by
  unfold State.focus; split; rfl; split <;> rfl
@[simp] theorem focus_free (s : State) (u : Nat) : (s.focus u).free = s.free := by
  unfold State.focus; split; rfl; split <;> rfl
@[simp] theorem focus_nuid (s : State) (u : Nat) : (s.focus u).nuid = s.nuid := by
  unfold State.focus; split; rfl; split <;> rfl

/-! ## Updates of a bough -/


/-! setSreg -/

@[simp] theorem setSreg_uid (b : Bough) (k : Nat) (v : W64) : (b.setSreg k v).uid = b.uid := by
  unfold Bough.setSreg; split <;> rfl
@[simp] theorem setSreg_status (b : Bough) (k : Nat) (v : W64) : (b.setSreg k v).status = b.status := by
  unfold Bough.setSreg; split <;> rfl
@[simp] theorem setSreg_launch (b : Bough) (k : Nat) (v : W64) : (b.setSreg k v).launch = b.launch := by
  unfold Bough.setSreg; split <;> rfl
@[simp] theorem setSreg_cid (b : Bough) (k : Nat) (v : W64) : (b.setSreg k v).cid = b.cid := by
  unfold Bough.setSreg; split <;> rfl
@[simp] theorem setSreg_idx (b : Bough) (k : Nat) (v : W64) : (b.setSreg k v).idx = b.idx := by
  unfold Bough.setSreg; split <;> rfl
@[simp] theorem setSreg_part (b : Bough) (k : Nat) (v : W64) : (b.setSreg k v).part = b.part := by
  unfold Bough.setSreg; split <;> rfl
@[simp] theorem setSreg_core (b : Bough) (k : Nat) (v : W64) : (b.setSreg k v).core = b.core := by
  unfold Bough.setSreg; split <;> rfl
@[simp] theorem setSreg_slot (b : Bough) (k : Nat) (v : W64) : (b.setSreg k v).slot = b.slot := by
  unfold Bough.setSreg; split <;> rfl
@[simp] theorem setSreg_nregs (b : Bough) (k : Nat) (v : W64) : (b.setSreg k v).nregs = b.nregs := by
  unfold Bough.setSreg; split <;> rfl
@[simp] theorem setSreg_regbase (b : Bough) (k : Nat) (v : W64) : (b.setSreg k v).regbase = b.regbase := by
  unfold Bough.setSreg; split <;> rfl
@[simp] theorem setSreg_pc (b : Bough) (k : Nat) (v : W64) : (b.setSreg k v).pc = b.pc := by
  unfold Bough.setSreg; split <;> rfl
@[simp] theorem setSreg_emr (b : Bough) (k : Nat) (v : W64) : (b.setSreg k v).emr = b.emr := by
  unfold Bough.setSreg; split <;> rfl
@[simp] theorem setSreg_idle (b : Bough) (k : Nat) (v : W64) : (b.setSreg k v).idle = b.idle := by
  unfold Bough.setSreg; split <;> rfl
@[simp] theorem setSreg_live (b : Bough) (k : Nat) (v : W64) : (b.setSreg k v).live = b.live := by
  unfold Bough.setSreg; split <;> rfl
@[simp] theorem setSreg_ready (b : Bough) (k : Nat) (v : W64) : (b.setSreg k v).ready = b.ready := by
  unfold Bough.setSreg; split <;> rfl
@[simp] theorem setSreg_seen (b : Bough) (k : Nat) (v : W64) : (b.setSreg k v).seen = b.seen := by
  unfold Bough.setSreg; split <;> rfl
@[simp] theorem setSreg_stack (b : Bough) (k : Nat) (v : W64) : (b.setSreg k v).stack = b.stack := by
  unfold Bough.setSreg; split <;> rfl
@[simp] theorem setSreg_nf (b : Bough) (k : Nat) (v : W64) : (b.setSreg k v).nf = b.nf := by
  unfold Bough.setSreg; split <;> rfl
@[simp] theorem setSreg_fmt (b : Bough) (k : Nat) (v : W64) : (b.setSreg k v).fmt = b.fmt := by
  unfold Bough.setSreg; split <;> rfl
@[simp] theorem setSreg_vregs (b : Bough) (k : Nat) (v : W64) : (b.setSreg k v).vregs = b.vregs := by
  unfold Bough.setSreg; split <;> rfl
@[simp] theorem setSreg_preds (b : Bough) (k : Nat) (v : W64) : (b.setSreg k v).preds = b.preds := by
  unfold Bough.setSreg; split <;> rfl
@[simp] theorem setSreg_flags (b : Bough) (k : Nat) (v : W64) : (b.setSreg k v).flags = b.flags := by
  unfold Bough.setSreg; split <;> rfl
@[simp] theorem setSreg_wh (b : Bough) (k : Nat) (v : W64) : (b.setSreg k v).wh = b.wh := by
  unfold Bough.setSreg; split <;> rfl
@[simp] theorem setSreg_fw (b : Bough) (k : Nat) (v : W64) : (b.setSreg k v).fw = b.fw := by
  unfold Bough.setSreg; split <;> rfl
@[simp] theorem setSreg_nest (b : Bough) (k : Nat) (v : W64) : (b.setSreg k v).nest = b.nest := by
  unfold Bough.setSreg; split <;> rfl
@[simp] theorem setSreg_coef (b : Bough) (k : Nat) (v : W64) : (b.setSreg k v).coef = b.coef := by
  unfold Bough.setSreg; split <;> rfl
@[simp] theorem setSreg_rep (b : Bough) (k : Nat) (v : W64) : (b.setSreg k v).rep = b.rep := by
  unfold Bough.setSreg; split <;> rfl
@[simp] theorem setSreg_replaying (b : Bough) (k : Nat) (v : W64) : (b.setSreg k v).replaying = b.replaying := by
  unfold Bough.setSreg; split <;> rfl
@[simp] theorem setSreg_rtok (b : Bough) (k : Nat) (v : W64) : (b.setSreg k v).rtok = b.rtok := by
  unfold Bough.setSreg; split <;> rfl
@[simp] theorem setSreg_itok (b : Bough) (k : Nat) (v : W64) : (b.setSreg k v).itok = b.itok := by
  unfold Bough.setSreg; split <;> rfl
@[simp] theorem setSreg_tgroups (b : Bough) (k : Nat) (v : W64) : (b.setSreg k v).tgroups = b.tgroups := by
  unfold Bough.setSreg; split <;> rfl
@[simp] theorem setSreg_setpri (b : Bough) (k : Nat) (v : W64) : (b.setSreg k v).setpri = b.setpri := by
  unfold Bough.setSreg; split <;> rfl
@[simp] theorem setSreg_line (b : Bough) (k : Nat) (v : W64) : (b.setSreg k v).line = b.line := by
  unfold Bough.setSreg; split <;> rfl
@[simp] theorem setSreg_entered (b : Bough) (k : Nat) (v : W64) : (b.setSreg k v).entered = b.entered := by
  unfold Bough.setSreg; split <;> rfl
@[simp] theorem setSreg_checkTM (b : Bough) (k : Nat) (v : W64) : (b.setSreg k v).checkTM = b.checkTM := by
  unfold Bough.setSreg; split <;> rfl
@[simp] theorem setSreg_tmDue (b : Bough) (k : Nat) (v : W64) : (b.setSreg k v).tmDue = b.tmDue := by
  unfold Bough.setSreg; split <;> rfl
@[simp] theorem setSreg_wait (b : Bough) (k : Nat) (v : W64) : (b.setSreg k v).wait = b.wait := by
  unfold Bough.setSreg; split <;> rfl
@[simp] theorem setSreg_waitSince (b : Bough) (k : Nat) (v : W64) : (b.setSreg k v).waitSince = b.waitSince := by
  unfold Bough.setSreg; split <;> rfl
@[simp] theorem setSreg_trapAt (b : Bough) (k : Nat) (v : W64) : (b.setSreg k v).trapAt = b.trapAt := by
  unfold Bough.setSreg; split <;> rfl
@[simp] theorem setSreg_refill (b : Bough) (k : Nat) (v : W64) : (b.setSreg k v).refill = b.refill := by
  unfold Bough.setSreg; split <;> rfl
@[simp] theorem setSreg_rjoined (b : Bough) (k : Nat) (v : W64) : (b.setSreg k v).rjoined = b.rjoined := by
  unfold Bough.setSreg; split <;> rfl
@[simp] theorem setSreg_frames (b : Bough) (k : Nat) (v : W64) : (b.setSreg k v).frames = b.frames := by
  unfold Bough.setSreg; split <;> rfl
@[simp] theorem setSreg_taskOf (b : Bough) (k : Nat) (v : W64) : (b.setSreg k v).taskOf = b.taskOf := by
  unfold Bough.setSreg; split <;> rfl
@[simp] theorem setSreg_tstat (b : Bough) (k : Nat) (v : W64) : (b.setSreg k v).tstat = b.tstat := by
  unfold Bough.setSreg; split <;> rfl
@[simp] theorem setSreg_nestmax (b : Bough) (k : Nat) (v : W64) : (b.setSreg k v).nestmax = b.nestmax := by
  unfold Bough.setSreg; split <;> rfl
@[simp] theorem setSreg_lcb (b : Bough) (k : Nat) (v : W64) : (b.setSreg k v).lcb = b.lcb := by
  unfold Bough.setSreg; split <;> rfl
@[simp] theorem setSreg_lcseed (b : Bough) (k : Nat) (v : W64) : (b.setSreg k v).lcseed = b.lcseed := by
  unfold Bough.setSreg; split <;> rfl
@[simp] theorem setSreg_bankcnt (b : Bough) (k : Nat) (v : W64) : (b.setSreg k v).bankcnt = b.bankcnt := by
  unfold Bough.setSreg; split <;> rfl
@[simp] theorem setSreg_utag (b : Bough) (k : Nat) (v : W64) : (b.setSreg k v).utag = b.utag := by
  unfold Bough.setSreg; split <;> rfl
@[simp] theorem setSreg_epc (b : Bough) (k : Nat) (v : W64) : (b.setSreg k v).epc = b.epc := by
  unfold Bough.setSreg; split <;> rfl
@[simp] theorem setSreg_emask (b : Bough) (k : Nat) (v : W64) : (b.setSreg k v).emask = b.emask := by
  unfold Bough.setSreg; split <;> rfl
@[simp] theorem setSreg_ecause (b : Bough) (k : Nat) (v : W64) : (b.setSreg k v).ecause = b.ecause := by
  unfold Bough.setSreg; split <;> rfl
@[simp] theorem setSreg_eaddr (b : Bough) (k : Nat) (v : W64) : (b.setSreg k v).eaddr = b.eaddr := by
  unfold Bough.setSreg; split <;> rfl
@[simp] theorem setSreg_esavea (b : Bough) (k : Nat) (v : W64) : (b.setSreg k v).esavea = b.esavea := by
  unfold Bough.setSreg; split <;> rfl
@[simp] theorem setSreg_esaveb (b : Bough) (k : Nat) (v : W64) : (b.setSreg k v).esaveb = b.esaveb := by
  unfold Bough.setSreg; split <;> rfl
@[simp] theorem setSreg_sysmode (b : Bough) (k : Nat) (v : W64) : (b.setSreg k v).sysmode = b.sysmode := by
  unfold Bough.setSreg; split <;> rfl
@[simp] theorem setSreg_arrived (b : Bough) (k : Nat) (v : W64) : (b.setSreg k v).arrived = b.arrived := by
  unfold Bough.setSreg; split <;> rfl
@[simp] theorem setSreg_arrGen (b : Bough) (k : Nat) (v : W64) : (b.setSreg k v).arrGen = b.arrGen := by
  unfold Bough.setSreg; split <;> rfl
@[simp] theorem setSreg_lastArr (b : Bough) (k : Nat) (v : W64) : (b.setSreg k v).lastArr = b.lastArr := by
  unfold Bough.setSreg; split <;> rfl
@[simp] theorem setSreg_stepdone (b : Bough) (k : Nat) (v : W64) : (b.setSreg k v).stepdone = b.stepdone := by
  unfold Bough.setSreg; split <;> rfl
@[simp] theorem setSreg_sib (b : Bough) (k : Nat) (v : W64) : (b.setSreg k v).sib = b.sib := by
  unfold Bough.setSreg; split <;> rfl
@[simp] theorem setSreg_walkRes (b : Bough) (k : Nat) (v : W64) : (b.setSreg k v).walkRes = b.walkRes := by
  unfold Bough.setSreg; split <;> rfl
@[simp] theorem setSreg_recorded (b : Bough) (k : Nat) (v : W64) : (b.setSreg k v).recorded = b.recorded := by
  unfold Bough.setSreg; split <;> rfl

/-! setPred -/

@[simp] theorem setPred_uid (b : Bough) (k : Nat) (m v : Mask) : (b.setPred k m v).uid = b.uid := by
  unfold Bough.setPred; split <;> rfl
@[simp] theorem setPred_status (b : Bough) (k : Nat) (m v : Mask) : (b.setPred k m v).status = b.status := by
  unfold Bough.setPred; split <;> rfl
@[simp] theorem setPred_launch (b : Bough) (k : Nat) (m v : Mask) : (b.setPred k m v).launch = b.launch := by
  unfold Bough.setPred; split <;> rfl
@[simp] theorem setPred_cid (b : Bough) (k : Nat) (m v : Mask) : (b.setPred k m v).cid = b.cid := by
  unfold Bough.setPred; split <;> rfl
@[simp] theorem setPred_idx (b : Bough) (k : Nat) (m v : Mask) : (b.setPred k m v).idx = b.idx := by
  unfold Bough.setPred; split <;> rfl
@[simp] theorem setPred_part (b : Bough) (k : Nat) (m v : Mask) : (b.setPred k m v).part = b.part := by
  unfold Bough.setPred; split <;> rfl
@[simp] theorem setPred_core (b : Bough) (k : Nat) (m v : Mask) : (b.setPred k m v).core = b.core := by
  unfold Bough.setPred; split <;> rfl
@[simp] theorem setPred_slot (b : Bough) (k : Nat) (m v : Mask) : (b.setPred k m v).slot = b.slot := by
  unfold Bough.setPred; split <;> rfl
@[simp] theorem setPred_nregs (b : Bough) (k : Nat) (m v : Mask) : (b.setPred k m v).nregs = b.nregs := by
  unfold Bough.setPred; split <;> rfl
@[simp] theorem setPred_regbase (b : Bough) (k : Nat) (m v : Mask) : (b.setPred k m v).regbase = b.regbase := by
  unfold Bough.setPred; split <;> rfl
@[simp] theorem setPred_pc (b : Bough) (k : Nat) (m v : Mask) : (b.setPred k m v).pc = b.pc := by
  unfold Bough.setPred; split <;> rfl
@[simp] theorem setPred_emr (b : Bough) (k : Nat) (m v : Mask) : (b.setPred k m v).emr = b.emr := by
  unfold Bough.setPred; split <;> rfl
@[simp] theorem setPred_idle (b : Bough) (k : Nat) (m v : Mask) : (b.setPred k m v).idle = b.idle := by
  unfold Bough.setPred; split <;> rfl
@[simp] theorem setPred_live (b : Bough) (k : Nat) (m v : Mask) : (b.setPred k m v).live = b.live := by
  unfold Bough.setPred; split <;> rfl
@[simp] theorem setPred_ready (b : Bough) (k : Nat) (m v : Mask) : (b.setPred k m v).ready = b.ready := by
  unfold Bough.setPred; split <;> rfl
@[simp] theorem setPred_seen (b : Bough) (k : Nat) (m v : Mask) : (b.setPred k m v).seen = b.seen := by
  unfold Bough.setPred; split <;> rfl
@[simp] theorem setPred_stack (b : Bough) (k : Nat) (m v : Mask) : (b.setPred k m v).stack = b.stack := by
  unfold Bough.setPred; split <;> rfl
@[simp] theorem setPred_nf (b : Bough) (k : Nat) (m v : Mask) : (b.setPred k m v).nf = b.nf := by
  unfold Bough.setPred; split <;> rfl
@[simp] theorem setPred_fmt (b : Bough) (k : Nat) (m v : Mask) : (b.setPred k m v).fmt = b.fmt := by
  unfold Bough.setPred; split <;> rfl
@[simp] theorem setPred_vregs (b : Bough) (k : Nat) (m v : Mask) : (b.setPred k m v).vregs = b.vregs := by
  unfold Bough.setPred; split <;> rfl
@[simp] theorem setPred_sregs (b : Bough) (k : Nat) (m v : Mask) : (b.setPred k m v).sregs = b.sregs := by
  unfold Bough.setPred; split <;> rfl
@[simp] theorem setPred_flags (b : Bough) (k : Nat) (m v : Mask) : (b.setPred k m v).flags = b.flags := by
  unfold Bough.setPred; split <;> rfl
@[simp] theorem setPred_wh (b : Bough) (k : Nat) (m v : Mask) : (b.setPred k m v).wh = b.wh := by
  unfold Bough.setPred; split <;> rfl
@[simp] theorem setPred_fw (b : Bough) (k : Nat) (m v : Mask) : (b.setPred k m v).fw = b.fw := by
  unfold Bough.setPred; split <;> rfl
@[simp] theorem setPred_nest (b : Bough) (k : Nat) (m v : Mask) : (b.setPred k m v).nest = b.nest := by
  unfold Bough.setPred; split <;> rfl
@[simp] theorem setPred_coef (b : Bough) (k : Nat) (m v : Mask) : (b.setPred k m v).coef = b.coef := by
  unfold Bough.setPred; split <;> rfl
@[simp] theorem setPred_rep (b : Bough) (k : Nat) (m v : Mask) : (b.setPred k m v).rep = b.rep := by
  unfold Bough.setPred; split <;> rfl
@[simp] theorem setPred_replaying (b : Bough) (k : Nat) (m v : Mask) : (b.setPred k m v).replaying = b.replaying := by
  unfold Bough.setPred; split <;> rfl
@[simp] theorem setPred_rtok (b : Bough) (k : Nat) (m v : Mask) : (b.setPred k m v).rtok = b.rtok := by
  unfold Bough.setPred; split <;> rfl
@[simp] theorem setPred_itok (b : Bough) (k : Nat) (m v : Mask) : (b.setPred k m v).itok = b.itok := by
  unfold Bough.setPred; split <;> rfl
@[simp] theorem setPred_tgroups (b : Bough) (k : Nat) (m v : Mask) : (b.setPred k m v).tgroups = b.tgroups := by
  unfold Bough.setPred; split <;> rfl
@[simp] theorem setPred_setpri (b : Bough) (k : Nat) (m v : Mask) : (b.setPred k m v).setpri = b.setpri := by
  unfold Bough.setPred; split <;> rfl
@[simp] theorem setPred_line (b : Bough) (k : Nat) (m v : Mask) : (b.setPred k m v).line = b.line := by
  unfold Bough.setPred; split <;> rfl
@[simp] theorem setPred_entered (b : Bough) (k : Nat) (m v : Mask) : (b.setPred k m v).entered = b.entered := by
  unfold Bough.setPred; split <;> rfl
@[simp] theorem setPred_checkTM (b : Bough) (k : Nat) (m v : Mask) : (b.setPred k m v).checkTM = b.checkTM := by
  unfold Bough.setPred; split <;> rfl
@[simp] theorem setPred_tmDue (b : Bough) (k : Nat) (m v : Mask) : (b.setPred k m v).tmDue = b.tmDue := by
  unfold Bough.setPred; split <;> rfl
@[simp] theorem setPred_wait (b : Bough) (k : Nat) (m v : Mask) : (b.setPred k m v).wait = b.wait := by
  unfold Bough.setPred; split <;> rfl
@[simp] theorem setPred_waitSince (b : Bough) (k : Nat) (m v : Mask) : (b.setPred k m v).waitSince = b.waitSince := by
  unfold Bough.setPred; split <;> rfl
@[simp] theorem setPred_trapAt (b : Bough) (k : Nat) (m v : Mask) : (b.setPred k m v).trapAt = b.trapAt := by
  unfold Bough.setPred; split <;> rfl
@[simp] theorem setPred_refill (b : Bough) (k : Nat) (m v : Mask) : (b.setPred k m v).refill = b.refill := by
  unfold Bough.setPred; split <;> rfl
@[simp] theorem setPred_rjoined (b : Bough) (k : Nat) (m v : Mask) : (b.setPred k m v).rjoined = b.rjoined := by
  unfold Bough.setPred; split <;> rfl
@[simp] theorem setPred_frames (b : Bough) (k : Nat) (m v : Mask) : (b.setPred k m v).frames = b.frames := by
  unfold Bough.setPred; split <;> rfl
@[simp] theorem setPred_taskOf (b : Bough) (k : Nat) (m v : Mask) : (b.setPred k m v).taskOf = b.taskOf := by
  unfold Bough.setPred; split <;> rfl
@[simp] theorem setPred_tstat (b : Bough) (k : Nat) (m v : Mask) : (b.setPred k m v).tstat = b.tstat := by
  unfold Bough.setPred; split <;> rfl
@[simp] theorem setPred_nestmax (b : Bough) (k : Nat) (m v : Mask) : (b.setPred k m v).nestmax = b.nestmax := by
  unfold Bough.setPred; split <;> rfl
@[simp] theorem setPred_lcb (b : Bough) (k : Nat) (m v : Mask) : (b.setPred k m v).lcb = b.lcb := by
  unfold Bough.setPred; split <;> rfl
@[simp] theorem setPred_lcseed (b : Bough) (k : Nat) (m v : Mask) : (b.setPred k m v).lcseed = b.lcseed := by
  unfold Bough.setPred; split <;> rfl
@[simp] theorem setPred_bankcnt (b : Bough) (k : Nat) (m v : Mask) : (b.setPred k m v).bankcnt = b.bankcnt := by
  unfold Bough.setPred; split <;> rfl
@[simp] theorem setPred_utag (b : Bough) (k : Nat) (m v : Mask) : (b.setPred k m v).utag = b.utag := by
  unfold Bough.setPred; split <;> rfl
@[simp] theorem setPred_epc (b : Bough) (k : Nat) (m v : Mask) : (b.setPred k m v).epc = b.epc := by
  unfold Bough.setPred; split <;> rfl
@[simp] theorem setPred_emask (b : Bough) (k : Nat) (m v : Mask) : (b.setPred k m v).emask = b.emask := by
  unfold Bough.setPred; split <;> rfl
@[simp] theorem setPred_ecause (b : Bough) (k : Nat) (m v : Mask) : (b.setPred k m v).ecause = b.ecause := by
  unfold Bough.setPred; split <;> rfl
@[simp] theorem setPred_eaddr (b : Bough) (k : Nat) (m v : Mask) : (b.setPred k m v).eaddr = b.eaddr := by
  unfold Bough.setPred; split <;> rfl
@[simp] theorem setPred_esavea (b : Bough) (k : Nat) (m v : Mask) : (b.setPred k m v).esavea = b.esavea := by
  unfold Bough.setPred; split <;> rfl
@[simp] theorem setPred_esaveb (b : Bough) (k : Nat) (m v : Mask) : (b.setPred k m v).esaveb = b.esaveb := by
  unfold Bough.setPred; split <;> rfl
@[simp] theorem setPred_sysmode (b : Bough) (k : Nat) (m v : Mask) : (b.setPred k m v).sysmode = b.sysmode := by
  unfold Bough.setPred; split <;> rfl
@[simp] theorem setPred_arrived (b : Bough) (k : Nat) (m v : Mask) : (b.setPred k m v).arrived = b.arrived := by
  unfold Bough.setPred; split <;> rfl
@[simp] theorem setPred_arrGen (b : Bough) (k : Nat) (m v : Mask) : (b.setPred k m v).arrGen = b.arrGen := by
  unfold Bough.setPred; split <;> rfl
@[simp] theorem setPred_lastArr (b : Bough) (k : Nat) (m v : Mask) : (b.setPred k m v).lastArr = b.lastArr := by
  unfold Bough.setPred; split <;> rfl
@[simp] theorem setPred_stepdone (b : Bough) (k : Nat) (m v : Mask) : (b.setPred k m v).stepdone = b.stepdone := by
  unfold Bough.setPred; split <;> rfl
@[simp] theorem setPred_sib (b : Bough) (k : Nat) (m v : Mask) : (b.setPred k m v).sib = b.sib := by
  unfold Bough.setPred; split <;> rfl
@[simp] theorem setPred_walkRes (b : Bough) (k : Nat) (m v : Mask) : (b.setPred k m v).walkRes = b.walkRes := by
  unfold Bough.setPred; split <;> rfl
@[simp] theorem setPred_recorded (b : Bough) (k : Nat) (m v : Mask) : (b.setPred k m v).recorded = b.recorded := by
  unfold Bough.setPred; split <;> rfl

/-! setPd -/

@[simp] theorem setPd_uid (b : Bough) (pd : Pd) (m v : Mask) : (b.setPd pd m v).uid = b.uid := by
  unfold Bough.setPd; split; rfl; exact setPred_uid ..
@[simp] theorem setPd_status (b : Bough) (pd : Pd) (m v : Mask) : (b.setPd pd m v).status = b.status := by
  unfold Bough.setPd; split; rfl; exact setPred_status ..
@[simp] theorem setPd_launch (b : Bough) (pd : Pd) (m v : Mask) : (b.setPd pd m v).launch = b.launch := by
  unfold Bough.setPd; split; rfl; exact setPred_launch ..
@[simp] theorem setPd_cid (b : Bough) (pd : Pd) (m v : Mask) : (b.setPd pd m v).cid = b.cid := by
  unfold Bough.setPd; split; rfl; exact setPred_cid ..
@[simp] theorem setPd_idx (b : Bough) (pd : Pd) (m v : Mask) : (b.setPd pd m v).idx = b.idx := by
  unfold Bough.setPd; split; rfl; exact setPred_idx ..
@[simp] theorem setPd_part (b : Bough) (pd : Pd) (m v : Mask) : (b.setPd pd m v).part = b.part := by
  unfold Bough.setPd; split; rfl; exact setPred_part ..
@[simp] theorem setPd_core (b : Bough) (pd : Pd) (m v : Mask) : (b.setPd pd m v).core = b.core := by
  unfold Bough.setPd; split; rfl; exact setPred_core ..
@[simp] theorem setPd_slot (b : Bough) (pd : Pd) (m v : Mask) : (b.setPd pd m v).slot = b.slot := by
  unfold Bough.setPd; split; rfl; exact setPred_slot ..
@[simp] theorem setPd_nregs (b : Bough) (pd : Pd) (m v : Mask) : (b.setPd pd m v).nregs = b.nregs := by
  unfold Bough.setPd; split; rfl; exact setPred_nregs ..
@[simp] theorem setPd_regbase (b : Bough) (pd : Pd) (m v : Mask) : (b.setPd pd m v).regbase = b.regbase := by
  unfold Bough.setPd; split; rfl; exact setPred_regbase ..
@[simp] theorem setPd_pc (b : Bough) (pd : Pd) (m v : Mask) : (b.setPd pd m v).pc = b.pc := by
  unfold Bough.setPd; split; rfl; exact setPred_pc ..
@[simp] theorem setPd_emr (b : Bough) (pd : Pd) (m v : Mask) : (b.setPd pd m v).emr = b.emr := by
  unfold Bough.setPd; split; rfl; exact setPred_emr ..
@[simp] theorem setPd_idle (b : Bough) (pd : Pd) (m v : Mask) : (b.setPd pd m v).idle = b.idle := by
  unfold Bough.setPd; split; rfl; exact setPred_idle ..
@[simp] theorem setPd_live (b : Bough) (pd : Pd) (m v : Mask) : (b.setPd pd m v).live = b.live := by
  unfold Bough.setPd; split; rfl; exact setPred_live ..
@[simp] theorem setPd_ready (b : Bough) (pd : Pd) (m v : Mask) : (b.setPd pd m v).ready = b.ready := by
  unfold Bough.setPd; split; rfl; exact setPred_ready ..
@[simp] theorem setPd_seen (b : Bough) (pd : Pd) (m v : Mask) : (b.setPd pd m v).seen = b.seen := by
  unfold Bough.setPd; split; rfl; exact setPred_seen ..
@[simp] theorem setPd_stack (b : Bough) (pd : Pd) (m v : Mask) : (b.setPd pd m v).stack = b.stack := by
  unfold Bough.setPd; split; rfl; exact setPred_stack ..
@[simp] theorem setPd_nf (b : Bough) (pd : Pd) (m v : Mask) : (b.setPd pd m v).nf = b.nf := by
  unfold Bough.setPd; split; rfl; exact setPred_nf ..
@[simp] theorem setPd_fmt (b : Bough) (pd : Pd) (m v : Mask) : (b.setPd pd m v).fmt = b.fmt := by
  unfold Bough.setPd; split; rfl; exact setPred_fmt ..
@[simp] theorem setPd_vregs (b : Bough) (pd : Pd) (m v : Mask) : (b.setPd pd m v).vregs = b.vregs := by
  unfold Bough.setPd; split; rfl; exact setPred_vregs ..
@[simp] theorem setPd_sregs (b : Bough) (pd : Pd) (m v : Mask) : (b.setPd pd m v).sregs = b.sregs := by
  unfold Bough.setPd; split; rfl; exact setPred_sregs ..
@[simp] theorem setPd_flags (b : Bough) (pd : Pd) (m v : Mask) : (b.setPd pd m v).flags = b.flags := by
  unfold Bough.setPd; split; rfl; exact setPred_flags ..
@[simp] theorem setPd_wh (b : Bough) (pd : Pd) (m v : Mask) : (b.setPd pd m v).wh = b.wh := by
  unfold Bough.setPd; split; rfl; exact setPred_wh ..
@[simp] theorem setPd_fw (b : Bough) (pd : Pd) (m v : Mask) : (b.setPd pd m v).fw = b.fw := by
  unfold Bough.setPd; split; rfl; exact setPred_fw ..
@[simp] theorem setPd_nest (b : Bough) (pd : Pd) (m v : Mask) : (b.setPd pd m v).nest = b.nest := by
  unfold Bough.setPd; split; rfl; exact setPred_nest ..
@[simp] theorem setPd_coef (b : Bough) (pd : Pd) (m v : Mask) : (b.setPd pd m v).coef = b.coef := by
  unfold Bough.setPd; split; rfl; exact setPred_coef ..
@[simp] theorem setPd_rep (b : Bough) (pd : Pd) (m v : Mask) : (b.setPd pd m v).rep = b.rep := by
  unfold Bough.setPd; split; rfl; exact setPred_rep ..
@[simp] theorem setPd_replaying (b : Bough) (pd : Pd) (m v : Mask) : (b.setPd pd m v).replaying = b.replaying := by
  unfold Bough.setPd; split; rfl; exact setPred_replaying ..
@[simp] theorem setPd_rtok (b : Bough) (pd : Pd) (m v : Mask) : (b.setPd pd m v).rtok = b.rtok := by
  unfold Bough.setPd; split; rfl; exact setPred_rtok ..
@[simp] theorem setPd_itok (b : Bough) (pd : Pd) (m v : Mask) : (b.setPd pd m v).itok = b.itok := by
  unfold Bough.setPd; split; rfl; exact setPred_itok ..
@[simp] theorem setPd_tgroups (b : Bough) (pd : Pd) (m v : Mask) : (b.setPd pd m v).tgroups = b.tgroups := by
  unfold Bough.setPd; split; rfl; exact setPred_tgroups ..
@[simp] theorem setPd_setpri (b : Bough) (pd : Pd) (m v : Mask) : (b.setPd pd m v).setpri = b.setpri := by
  unfold Bough.setPd; split; rfl; exact setPred_setpri ..
@[simp] theorem setPd_line (b : Bough) (pd : Pd) (m v : Mask) : (b.setPd pd m v).line = b.line := by
  unfold Bough.setPd; split; rfl; exact setPred_line ..
@[simp] theorem setPd_entered (b : Bough) (pd : Pd) (m v : Mask) : (b.setPd pd m v).entered = b.entered := by
  unfold Bough.setPd; split; rfl; exact setPred_entered ..
@[simp] theorem setPd_checkTM (b : Bough) (pd : Pd) (m v : Mask) : (b.setPd pd m v).checkTM = b.checkTM := by
  unfold Bough.setPd; split; rfl; exact setPred_checkTM ..
@[simp] theorem setPd_tmDue (b : Bough) (pd : Pd) (m v : Mask) : (b.setPd pd m v).tmDue = b.tmDue := by
  unfold Bough.setPd; split; rfl; exact setPred_tmDue ..
@[simp] theorem setPd_wait (b : Bough) (pd : Pd) (m v : Mask) : (b.setPd pd m v).wait = b.wait := by
  unfold Bough.setPd; split; rfl; exact setPred_wait ..
@[simp] theorem setPd_waitSince (b : Bough) (pd : Pd) (m v : Mask) : (b.setPd pd m v).waitSince = b.waitSince := by
  unfold Bough.setPd; split; rfl; exact setPred_waitSince ..
@[simp] theorem setPd_trapAt (b : Bough) (pd : Pd) (m v : Mask) : (b.setPd pd m v).trapAt = b.trapAt := by
  unfold Bough.setPd; split; rfl; exact setPred_trapAt ..
@[simp] theorem setPd_refill (b : Bough) (pd : Pd) (m v : Mask) : (b.setPd pd m v).refill = b.refill := by
  unfold Bough.setPd; split; rfl; exact setPred_refill ..
@[simp] theorem setPd_rjoined (b : Bough) (pd : Pd) (m v : Mask) : (b.setPd pd m v).rjoined = b.rjoined := by
  unfold Bough.setPd; split; rfl; exact setPred_rjoined ..
@[simp] theorem setPd_frames (b : Bough) (pd : Pd) (m v : Mask) : (b.setPd pd m v).frames = b.frames := by
  unfold Bough.setPd; split; rfl; exact setPred_frames ..
@[simp] theorem setPd_taskOf (b : Bough) (pd : Pd) (m v : Mask) : (b.setPd pd m v).taskOf = b.taskOf := by
  unfold Bough.setPd; split; rfl; exact setPred_taskOf ..
@[simp] theorem setPd_tstat (b : Bough) (pd : Pd) (m v : Mask) : (b.setPd pd m v).tstat = b.tstat := by
  unfold Bough.setPd; split; rfl; exact setPred_tstat ..
@[simp] theorem setPd_nestmax (b : Bough) (pd : Pd) (m v : Mask) : (b.setPd pd m v).nestmax = b.nestmax := by
  unfold Bough.setPd; split; rfl; exact setPred_nestmax ..
@[simp] theorem setPd_lcb (b : Bough) (pd : Pd) (m v : Mask) : (b.setPd pd m v).lcb = b.lcb := by
  unfold Bough.setPd; split; rfl; exact setPred_lcb ..
@[simp] theorem setPd_lcseed (b : Bough) (pd : Pd) (m v : Mask) : (b.setPd pd m v).lcseed = b.lcseed := by
  unfold Bough.setPd; split; rfl; exact setPred_lcseed ..
@[simp] theorem setPd_bankcnt (b : Bough) (pd : Pd) (m v : Mask) : (b.setPd pd m v).bankcnt = b.bankcnt := by
  unfold Bough.setPd; split; rfl; exact setPred_bankcnt ..
@[simp] theorem setPd_utag (b : Bough) (pd : Pd) (m v : Mask) : (b.setPd pd m v).utag = b.utag := by
  unfold Bough.setPd; split; rfl; exact setPred_utag ..
@[simp] theorem setPd_epc (b : Bough) (pd : Pd) (m v : Mask) : (b.setPd pd m v).epc = b.epc := by
  unfold Bough.setPd; split; rfl; exact setPred_epc ..
@[simp] theorem setPd_emask (b : Bough) (pd : Pd) (m v : Mask) : (b.setPd pd m v).emask = b.emask := by
  unfold Bough.setPd; split; rfl; exact setPred_emask ..
@[simp] theorem setPd_ecause (b : Bough) (pd : Pd) (m v : Mask) : (b.setPd pd m v).ecause = b.ecause := by
  unfold Bough.setPd; split; rfl; exact setPred_ecause ..
@[simp] theorem setPd_eaddr (b : Bough) (pd : Pd) (m v : Mask) : (b.setPd pd m v).eaddr = b.eaddr := by
  unfold Bough.setPd; split; rfl; exact setPred_eaddr ..
@[simp] theorem setPd_esavea (b : Bough) (pd : Pd) (m v : Mask) : (b.setPd pd m v).esavea = b.esavea := by
  unfold Bough.setPd; split; rfl; exact setPred_esavea ..
@[simp] theorem setPd_esaveb (b : Bough) (pd : Pd) (m v : Mask) : (b.setPd pd m v).esaveb = b.esaveb := by
  unfold Bough.setPd; split; rfl; exact setPred_esaveb ..
@[simp] theorem setPd_sysmode (b : Bough) (pd : Pd) (m v : Mask) : (b.setPd pd m v).sysmode = b.sysmode := by
  unfold Bough.setPd; split; rfl; exact setPred_sysmode ..
@[simp] theorem setPd_arrived (b : Bough) (pd : Pd) (m v : Mask) : (b.setPd pd m v).arrived = b.arrived := by
  unfold Bough.setPd; split; rfl; exact setPred_arrived ..
@[simp] theorem setPd_arrGen (b : Bough) (pd : Pd) (m v : Mask) : (b.setPd pd m v).arrGen = b.arrGen := by
  unfold Bough.setPd; split; rfl; exact setPred_arrGen ..
@[simp] theorem setPd_lastArr (b : Bough) (pd : Pd) (m v : Mask) : (b.setPd pd m v).lastArr = b.lastArr := by
  unfold Bough.setPd; split; rfl; exact setPred_lastArr ..
@[simp] theorem setPd_stepdone (b : Bough) (pd : Pd) (m v : Mask) : (b.setPd pd m v).stepdone = b.stepdone := by
  unfold Bough.setPd; split; rfl; exact setPred_stepdone ..
@[simp] theorem setPd_sib (b : Bough) (pd : Pd) (m v : Mask) : (b.setPd pd m v).sib = b.sib := by
  unfold Bough.setPd; split; rfl; exact setPred_sib ..
@[simp] theorem setPd_walkRes (b : Bough) (pd : Pd) (m v : Mask) : (b.setPd pd m v).walkRes = b.walkRes := by
  unfold Bough.setPd; split; rfl; exact setPred_walkRes ..
@[simp] theorem setPd_recorded (b : Bough) (pd : Pd) (m v : Mask) : (b.setPd pd m v).recorded = b.recorded := by
  unfold Bough.setPd; split; rfl; exact setPred_recorded ..

/-! setVreg -/

@[simp] theorem setVreg_uid (b : Bough) (tr : Bool) (r l : Nat) (v : W32) : (b.setVreg tr r l v).uid = b.uid := by
  unfold Bough.setVreg; split <;> rfl
@[simp] theorem setVreg_status (b : Bough) (tr : Bool) (r l : Nat) (v : W32) : (b.setVreg tr r l v).status = b.status := by
  unfold Bough.setVreg; split <;> rfl
@[simp] theorem setVreg_launch (b : Bough) (tr : Bool) (r l : Nat) (v : W32) : (b.setVreg tr r l v).launch = b.launch := by
  unfold Bough.setVreg; split <;> rfl
@[simp] theorem setVreg_cid (b : Bough) (tr : Bool) (r l : Nat) (v : W32) : (b.setVreg tr r l v).cid = b.cid := by
  unfold Bough.setVreg; split <;> rfl
@[simp] theorem setVreg_idx (b : Bough) (tr : Bool) (r l : Nat) (v : W32) : (b.setVreg tr r l v).idx = b.idx := by
  unfold Bough.setVreg; split <;> rfl
@[simp] theorem setVreg_part (b : Bough) (tr : Bool) (r l : Nat) (v : W32) : (b.setVreg tr r l v).part = b.part := by
  unfold Bough.setVreg; split <;> rfl
@[simp] theorem setVreg_core (b : Bough) (tr : Bool) (r l : Nat) (v : W32) : (b.setVreg tr r l v).core = b.core := by
  unfold Bough.setVreg; split <;> rfl
@[simp] theorem setVreg_slot (b : Bough) (tr : Bool) (r l : Nat) (v : W32) : (b.setVreg tr r l v).slot = b.slot := by
  unfold Bough.setVreg; split <;> rfl
@[simp] theorem setVreg_nregs (b : Bough) (tr : Bool) (r l : Nat) (v : W32) : (b.setVreg tr r l v).nregs = b.nregs := by
  unfold Bough.setVreg; split <;> rfl
@[simp] theorem setVreg_regbase (b : Bough) (tr : Bool) (r l : Nat) (v : W32) : (b.setVreg tr r l v).regbase = b.regbase := by
  unfold Bough.setVreg; split <;> rfl
@[simp] theorem setVreg_pc (b : Bough) (tr : Bool) (r l : Nat) (v : W32) : (b.setVreg tr r l v).pc = b.pc := by
  unfold Bough.setVreg; split <;> rfl
@[simp] theorem setVreg_emr (b : Bough) (tr : Bool) (r l : Nat) (v : W32) : (b.setVreg tr r l v).emr = b.emr := by
  unfold Bough.setVreg; split <;> rfl
@[simp] theorem setVreg_idle (b : Bough) (tr : Bool) (r l : Nat) (v : W32) : (b.setVreg tr r l v).idle = b.idle := by
  unfold Bough.setVreg; split <;> rfl
@[simp] theorem setVreg_live (b : Bough) (tr : Bool) (r l : Nat) (v : W32) : (b.setVreg tr r l v).live = b.live := by
  unfold Bough.setVreg; split <;> rfl
@[simp] theorem setVreg_ready (b : Bough) (tr : Bool) (r l : Nat) (v : W32) : (b.setVreg tr r l v).ready = b.ready := by
  unfold Bough.setVreg; split <;> rfl
@[simp] theorem setVreg_seen (b : Bough) (tr : Bool) (r l : Nat) (v : W32) : (b.setVreg tr r l v).seen = b.seen := by
  unfold Bough.setVreg; split <;> rfl
@[simp] theorem setVreg_stack (b : Bough) (tr : Bool) (r l : Nat) (v : W32) : (b.setVreg tr r l v).stack = b.stack := by
  unfold Bough.setVreg; split <;> rfl
@[simp] theorem setVreg_nf (b : Bough) (tr : Bool) (r l : Nat) (v : W32) : (b.setVreg tr r l v).nf = b.nf := by
  unfold Bough.setVreg; split <;> rfl
@[simp] theorem setVreg_fmt (b : Bough) (tr : Bool) (r l : Nat) (v : W32) : (b.setVreg tr r l v).fmt = b.fmt := by
  unfold Bough.setVreg; split <;> rfl
@[simp] theorem setVreg_preds (b : Bough) (tr : Bool) (r l : Nat) (v : W32) : (b.setVreg tr r l v).preds = b.preds := by
  unfold Bough.setVreg; split <;> rfl
@[simp] theorem setVreg_sregs (b : Bough) (tr : Bool) (r l : Nat) (v : W32) : (b.setVreg tr r l v).sregs = b.sregs := by
  unfold Bough.setVreg; split <;> rfl
@[simp] theorem setVreg_flags (b : Bough) (tr : Bool) (r l : Nat) (v : W32) : (b.setVreg tr r l v).flags = b.flags := by
  unfold Bough.setVreg; split <;> rfl
@[simp] theorem setVreg_wh (b : Bough) (tr : Bool) (r l : Nat) (v : W32) : (b.setVreg tr r l v).wh = b.wh := by
  unfold Bough.setVreg; split <;> rfl
@[simp] theorem setVreg_nest (b : Bough) (tr : Bool) (r l : Nat) (v : W32) : (b.setVreg tr r l v).nest = b.nest := by
  unfold Bough.setVreg; split <;> rfl
@[simp] theorem setVreg_coef (b : Bough) (tr : Bool) (r l : Nat) (v : W32) : (b.setVreg tr r l v).coef = b.coef := by
  unfold Bough.setVreg; split <;> rfl
@[simp] theorem setVreg_rep (b : Bough) (tr : Bool) (r l : Nat) (v : W32) : (b.setVreg tr r l v).rep = b.rep := by
  unfold Bough.setVreg; split <;> rfl
@[simp] theorem setVreg_replaying (b : Bough) (tr : Bool) (r l : Nat) (v : W32) : (b.setVreg tr r l v).replaying = b.replaying := by
  unfold Bough.setVreg; split <;> rfl
@[simp] theorem setVreg_rtok (b : Bough) (tr : Bool) (r l : Nat) (v : W32) : (b.setVreg tr r l v).rtok = b.rtok := by
  unfold Bough.setVreg; split <;> rfl
@[simp] theorem setVreg_itok (b : Bough) (tr : Bool) (r l : Nat) (v : W32) : (b.setVreg tr r l v).itok = b.itok := by
  unfold Bough.setVreg; split <;> rfl
@[simp] theorem setVreg_tgroups (b : Bough) (tr : Bool) (r l : Nat) (v : W32) : (b.setVreg tr r l v).tgroups = b.tgroups := by
  unfold Bough.setVreg; split <;> rfl
@[simp] theorem setVreg_setpri (b : Bough) (tr : Bool) (r l : Nat) (v : W32) : (b.setVreg tr r l v).setpri = b.setpri := by
  unfold Bough.setVreg; split <;> rfl
@[simp] theorem setVreg_line (b : Bough) (tr : Bool) (r l : Nat) (v : W32) : (b.setVreg tr r l v).line = b.line := by
  unfold Bough.setVreg; split <;> rfl
@[simp] theorem setVreg_entered (b : Bough) (tr : Bool) (r l : Nat) (v : W32) : (b.setVreg tr r l v).entered = b.entered := by
  unfold Bough.setVreg; split <;> rfl
@[simp] theorem setVreg_checkTM (b : Bough) (tr : Bool) (r l : Nat) (v : W32) : (b.setVreg tr r l v).checkTM = b.checkTM := by
  unfold Bough.setVreg; split <;> rfl
@[simp] theorem setVreg_tmDue (b : Bough) (tr : Bool) (r l : Nat) (v : W32) : (b.setVreg tr r l v).tmDue = b.tmDue := by
  unfold Bough.setVreg; split <;> rfl
@[simp] theorem setVreg_wait (b : Bough) (tr : Bool) (r l : Nat) (v : W32) : (b.setVreg tr r l v).wait = b.wait := by
  unfold Bough.setVreg; split <;> rfl
@[simp] theorem setVreg_waitSince (b : Bough) (tr : Bool) (r l : Nat) (v : W32) : (b.setVreg tr r l v).waitSince = b.waitSince := by
  unfold Bough.setVreg; split <;> rfl
@[simp] theorem setVreg_trapAt (b : Bough) (tr : Bool) (r l : Nat) (v : W32) : (b.setVreg tr r l v).trapAt = b.trapAt := by
  unfold Bough.setVreg; split <;> rfl
@[simp] theorem setVreg_refill (b : Bough) (tr : Bool) (r l : Nat) (v : W32) : (b.setVreg tr r l v).refill = b.refill := by
  unfold Bough.setVreg; split <;> rfl
@[simp] theorem setVreg_rjoined (b : Bough) (tr : Bool) (r l : Nat) (v : W32) : (b.setVreg tr r l v).rjoined = b.rjoined := by
  unfold Bough.setVreg; split <;> rfl
@[simp] theorem setVreg_frames (b : Bough) (tr : Bool) (r l : Nat) (v : W32) : (b.setVreg tr r l v).frames = b.frames := by
  unfold Bough.setVreg; split <;> rfl
@[simp] theorem setVreg_taskOf (b : Bough) (tr : Bool) (r l : Nat) (v : W32) : (b.setVreg tr r l v).taskOf = b.taskOf := by
  unfold Bough.setVreg; split <;> rfl
@[simp] theorem setVreg_tstat (b : Bough) (tr : Bool) (r l : Nat) (v : W32) : (b.setVreg tr r l v).tstat = b.tstat := by
  unfold Bough.setVreg; split <;> rfl
@[simp] theorem setVreg_nestmax (b : Bough) (tr : Bool) (r l : Nat) (v : W32) : (b.setVreg tr r l v).nestmax = b.nestmax := by
  unfold Bough.setVreg; split <;> rfl
@[simp] theorem setVreg_lcb (b : Bough) (tr : Bool) (r l : Nat) (v : W32) : (b.setVreg tr r l v).lcb = b.lcb := by
  unfold Bough.setVreg; split <;> rfl
@[simp] theorem setVreg_lcseed (b : Bough) (tr : Bool) (r l : Nat) (v : W32) : (b.setVreg tr r l v).lcseed = b.lcseed := by
  unfold Bough.setVreg; split <;> rfl
@[simp] theorem setVreg_bankcnt (b : Bough) (tr : Bool) (r l : Nat) (v : W32) : (b.setVreg tr r l v).bankcnt = b.bankcnt := by
  unfold Bough.setVreg; split <;> rfl
@[simp] theorem setVreg_utag (b : Bough) (tr : Bool) (r l : Nat) (v : W32) : (b.setVreg tr r l v).utag = b.utag := by
  unfold Bough.setVreg; split <;> rfl
@[simp] theorem setVreg_epc (b : Bough) (tr : Bool) (r l : Nat) (v : W32) : (b.setVreg tr r l v).epc = b.epc := by
  unfold Bough.setVreg; split <;> rfl
@[simp] theorem setVreg_emask (b : Bough) (tr : Bool) (r l : Nat) (v : W32) : (b.setVreg tr r l v).emask = b.emask := by
  unfold Bough.setVreg; split <;> rfl
@[simp] theorem setVreg_ecause (b : Bough) (tr : Bool) (r l : Nat) (v : W32) : (b.setVreg tr r l v).ecause = b.ecause := by
  unfold Bough.setVreg; split <;> rfl
@[simp] theorem setVreg_eaddr (b : Bough) (tr : Bool) (r l : Nat) (v : W32) : (b.setVreg tr r l v).eaddr = b.eaddr := by
  unfold Bough.setVreg; split <;> rfl
@[simp] theorem setVreg_esavea (b : Bough) (tr : Bool) (r l : Nat) (v : W32) : (b.setVreg tr r l v).esavea = b.esavea := by
  unfold Bough.setVreg; split <;> rfl
@[simp] theorem setVreg_esaveb (b : Bough) (tr : Bool) (r l : Nat) (v : W32) : (b.setVreg tr r l v).esaveb = b.esaveb := by
  unfold Bough.setVreg; split <;> rfl
@[simp] theorem setVreg_sysmode (b : Bough) (tr : Bool) (r l : Nat) (v : W32) : (b.setVreg tr r l v).sysmode = b.sysmode := by
  unfold Bough.setVreg; split <;> rfl
@[simp] theorem setVreg_arrived (b : Bough) (tr : Bool) (r l : Nat) (v : W32) : (b.setVreg tr r l v).arrived = b.arrived := by
  unfold Bough.setVreg; split <;> rfl
@[simp] theorem setVreg_arrGen (b : Bough) (tr : Bool) (r l : Nat) (v : W32) : (b.setVreg tr r l v).arrGen = b.arrGen := by
  unfold Bough.setVreg; split <;> rfl
@[simp] theorem setVreg_lastArr (b : Bough) (tr : Bool) (r l : Nat) (v : W32) : (b.setVreg tr r l v).lastArr = b.lastArr := by
  unfold Bough.setVreg; split <;> rfl
@[simp] theorem setVreg_stepdone (b : Bough) (tr : Bool) (r l : Nat) (v : W32) : (b.setVreg tr r l v).stepdone = b.stepdone := by
  unfold Bough.setVreg; split <;> rfl
@[simp] theorem setVreg_sib (b : Bough) (tr : Bool) (r l : Nat) (v : W32) : (b.setVreg tr r l v).sib = b.sib := by
  unfold Bough.setVreg; split <;> rfl
@[simp] theorem setVreg_walkRes (b : Bough) (tr : Bool) (r l : Nat) (v : W32) : (b.setVreg tr r l v).walkRes = b.walkRes := by
  unfold Bough.setVreg; split <;> rfl
@[simp] theorem setVreg_recorded (b : Bough) (tr : Bool) (r l : Nat) (v : W32) : (b.setVreg tr r l v).recorded = b.recorded := by
  unfold Bough.setVreg; split <;> rfl

/-! setVregs -/

@[simp] theorem setVregs_uid (b : Bough) (tr : Bool) (r l n v : Nat) : (b.setVregs tr r l n v).uid = b.uid := by
  induction n generalizing b r v with
  | zero => rfl
  | succ n ih => rw [Bough.setVregs, ih, setVreg_uid]
@[simp] theorem setVregs_status (b : Bough) (tr : Bool) (r l n v : Nat) : (b.setVregs tr r l n v).status = b.status := by
  induction n generalizing b r v with
  | zero => rfl
  | succ n ih => rw [Bough.setVregs, ih, setVreg_status]
@[simp] theorem setVregs_launch (b : Bough) (tr : Bool) (r l n v : Nat) : (b.setVregs tr r l n v).launch = b.launch := by
  induction n generalizing b r v with
  | zero => rfl
  | succ n ih => rw [Bough.setVregs, ih, setVreg_launch]
@[simp] theorem setVregs_cid (b : Bough) (tr : Bool) (r l n v : Nat) : (b.setVregs tr r l n v).cid = b.cid := by
  induction n generalizing b r v with
  | zero => rfl
  | succ n ih => rw [Bough.setVregs, ih, setVreg_cid]
@[simp] theorem setVregs_idx (b : Bough) (tr : Bool) (r l n v : Nat) : (b.setVregs tr r l n v).idx = b.idx := by
  induction n generalizing b r v with
  | zero => rfl
  | succ n ih => rw [Bough.setVregs, ih, setVreg_idx]
@[simp] theorem setVregs_part (b : Bough) (tr : Bool) (r l n v : Nat) : (b.setVregs tr r l n v).part = b.part := by
  induction n generalizing b r v with
  | zero => rfl
  | succ n ih => rw [Bough.setVregs, ih, setVreg_part]
@[simp] theorem setVregs_core (b : Bough) (tr : Bool) (r l n v : Nat) : (b.setVregs tr r l n v).core = b.core := by
  induction n generalizing b r v with
  | zero => rfl
  | succ n ih => rw [Bough.setVregs, ih, setVreg_core]
@[simp] theorem setVregs_slot (b : Bough) (tr : Bool) (r l n v : Nat) : (b.setVregs tr r l n v).slot = b.slot := by
  induction n generalizing b r v with
  | zero => rfl
  | succ n ih => rw [Bough.setVregs, ih, setVreg_slot]
@[simp] theorem setVregs_nregs (b : Bough) (tr : Bool) (r l n v : Nat) : (b.setVregs tr r l n v).nregs = b.nregs := by
  induction n generalizing b r v with
  | zero => rfl
  | succ n ih => rw [Bough.setVregs, ih, setVreg_nregs]
@[simp] theorem setVregs_regbase (b : Bough) (tr : Bool) (r l n v : Nat) : (b.setVregs tr r l n v).regbase = b.regbase := by
  induction n generalizing b r v with
  | zero => rfl
  | succ n ih => rw [Bough.setVregs, ih, setVreg_regbase]
@[simp] theorem setVregs_pc (b : Bough) (tr : Bool) (r l n v : Nat) : (b.setVregs tr r l n v).pc = b.pc := by
  induction n generalizing b r v with
  | zero => rfl
  | succ n ih => rw [Bough.setVregs, ih, setVreg_pc]
@[simp] theorem setVregs_emr (b : Bough) (tr : Bool) (r l n v : Nat) : (b.setVregs tr r l n v).emr = b.emr := by
  induction n generalizing b r v with
  | zero => rfl
  | succ n ih => rw [Bough.setVregs, ih, setVreg_emr]
@[simp] theorem setVregs_idle (b : Bough) (tr : Bool) (r l n v : Nat) : (b.setVregs tr r l n v).idle = b.idle := by
  induction n generalizing b r v with
  | zero => rfl
  | succ n ih => rw [Bough.setVregs, ih, setVreg_idle]
@[simp] theorem setVregs_live (b : Bough) (tr : Bool) (r l n v : Nat) : (b.setVregs tr r l n v).live = b.live := by
  induction n generalizing b r v with
  | zero => rfl
  | succ n ih => rw [Bough.setVregs, ih, setVreg_live]
@[simp] theorem setVregs_ready (b : Bough) (tr : Bool) (r l n v : Nat) : (b.setVregs tr r l n v).ready = b.ready := by
  induction n generalizing b r v with
  | zero => rfl
  | succ n ih => rw [Bough.setVregs, ih, setVreg_ready]
@[simp] theorem setVregs_seen (b : Bough) (tr : Bool) (r l n v : Nat) : (b.setVregs tr r l n v).seen = b.seen := by
  induction n generalizing b r v with
  | zero => rfl
  | succ n ih => rw [Bough.setVregs, ih, setVreg_seen]
@[simp] theorem setVregs_stack (b : Bough) (tr : Bool) (r l n v : Nat) : (b.setVregs tr r l n v).stack = b.stack := by
  induction n generalizing b r v with
  | zero => rfl
  | succ n ih => rw [Bough.setVregs, ih, setVreg_stack]
@[simp] theorem setVregs_nf (b : Bough) (tr : Bool) (r l n v : Nat) : (b.setVregs tr r l n v).nf = b.nf := by
  induction n generalizing b r v with
  | zero => rfl
  | succ n ih => rw [Bough.setVregs, ih, setVreg_nf]
@[simp] theorem setVregs_fmt (b : Bough) (tr : Bool) (r l n v : Nat) : (b.setVregs tr r l n v).fmt = b.fmt := by
  induction n generalizing b r v with
  | zero => rfl
  | succ n ih => rw [Bough.setVregs, ih, setVreg_fmt]
@[simp] theorem setVregs_preds (b : Bough) (tr : Bool) (r l n v : Nat) : (b.setVregs tr r l n v).preds = b.preds := by
  induction n generalizing b r v with
  | zero => rfl
  | succ n ih => rw [Bough.setVregs, ih, setVreg_preds]
@[simp] theorem setVregs_sregs (b : Bough) (tr : Bool) (r l n v : Nat) : (b.setVregs tr r l n v).sregs = b.sregs := by
  induction n generalizing b r v with
  | zero => rfl
  | succ n ih => rw [Bough.setVregs, ih, setVreg_sregs]
@[simp] theorem setVregs_flags (b : Bough) (tr : Bool) (r l n v : Nat) : (b.setVregs tr r l n v).flags = b.flags := by
  induction n generalizing b r v with
  | zero => rfl
  | succ n ih => rw [Bough.setVregs, ih, setVreg_flags]
@[simp] theorem setVregs_wh (b : Bough) (tr : Bool) (r l n v : Nat) : (b.setVregs tr r l n v).wh = b.wh := by
  induction n generalizing b r v with
  | zero => rfl
  | succ n ih => rw [Bough.setVregs, ih, setVreg_wh]
@[simp] theorem setVregs_nest (b : Bough) (tr : Bool) (r l n v : Nat) : (b.setVregs tr r l n v).nest = b.nest := by
  induction n generalizing b r v with
  | zero => rfl
  | succ n ih => rw [Bough.setVregs, ih, setVreg_nest]
@[simp] theorem setVregs_coef (b : Bough) (tr : Bool) (r l n v : Nat) : (b.setVregs tr r l n v).coef = b.coef := by
  induction n generalizing b r v with
  | zero => rfl
  | succ n ih => rw [Bough.setVregs, ih, setVreg_coef]
@[simp] theorem setVregs_rep (b : Bough) (tr : Bool) (r l n v : Nat) : (b.setVregs tr r l n v).rep = b.rep := by
  induction n generalizing b r v with
  | zero => rfl
  | succ n ih => rw [Bough.setVregs, ih, setVreg_rep]
@[simp] theorem setVregs_replaying (b : Bough) (tr : Bool) (r l n v : Nat) : (b.setVregs tr r l n v).replaying = b.replaying := by
  induction n generalizing b r v with
  | zero => rfl
  | succ n ih => rw [Bough.setVregs, ih, setVreg_replaying]
@[simp] theorem setVregs_rtok (b : Bough) (tr : Bool) (r l n v : Nat) : (b.setVregs tr r l n v).rtok = b.rtok := by
  induction n generalizing b r v with
  | zero => rfl
  | succ n ih => rw [Bough.setVregs, ih, setVreg_rtok]
@[simp] theorem setVregs_itok (b : Bough) (tr : Bool) (r l n v : Nat) : (b.setVregs tr r l n v).itok = b.itok := by
  induction n generalizing b r v with
  | zero => rfl
  | succ n ih => rw [Bough.setVregs, ih, setVreg_itok]
@[simp] theorem setVregs_tgroups (b : Bough) (tr : Bool) (r l n v : Nat) : (b.setVregs tr r l n v).tgroups = b.tgroups := by
  induction n generalizing b r v with
  | zero => rfl
  | succ n ih => rw [Bough.setVregs, ih, setVreg_tgroups]
@[simp] theorem setVregs_setpri (b : Bough) (tr : Bool) (r l n v : Nat) : (b.setVregs tr r l n v).setpri = b.setpri := by
  induction n generalizing b r v with
  | zero => rfl
  | succ n ih => rw [Bough.setVregs, ih, setVreg_setpri]
@[simp] theorem setVregs_line (b : Bough) (tr : Bool) (r l n v : Nat) : (b.setVregs tr r l n v).line = b.line := by
  induction n generalizing b r v with
  | zero => rfl
  | succ n ih => rw [Bough.setVregs, ih, setVreg_line]
@[simp] theorem setVregs_entered (b : Bough) (tr : Bool) (r l n v : Nat) : (b.setVregs tr r l n v).entered = b.entered := by
  induction n generalizing b r v with
  | zero => rfl
  | succ n ih => rw [Bough.setVregs, ih, setVreg_entered]
@[simp] theorem setVregs_checkTM (b : Bough) (tr : Bool) (r l n v : Nat) : (b.setVregs tr r l n v).checkTM = b.checkTM := by
  induction n generalizing b r v with
  | zero => rfl
  | succ n ih => rw [Bough.setVregs, ih, setVreg_checkTM]
@[simp] theorem setVregs_tmDue (b : Bough) (tr : Bool) (r l n v : Nat) : (b.setVregs tr r l n v).tmDue = b.tmDue := by
  induction n generalizing b r v with
  | zero => rfl
  | succ n ih => rw [Bough.setVregs, ih, setVreg_tmDue]
@[simp] theorem setVregs_wait (b : Bough) (tr : Bool) (r l n v : Nat) : (b.setVregs tr r l n v).wait = b.wait := by
  induction n generalizing b r v with
  | zero => rfl
  | succ n ih => rw [Bough.setVregs, ih, setVreg_wait]
@[simp] theorem setVregs_waitSince (b : Bough) (tr : Bool) (r l n v : Nat) : (b.setVregs tr r l n v).waitSince = b.waitSince := by
  induction n generalizing b r v with
  | zero => rfl
  | succ n ih => rw [Bough.setVregs, ih, setVreg_waitSince]
@[simp] theorem setVregs_trapAt (b : Bough) (tr : Bool) (r l n v : Nat) : (b.setVregs tr r l n v).trapAt = b.trapAt := by
  induction n generalizing b r v with
  | zero => rfl
  | succ n ih => rw [Bough.setVregs, ih, setVreg_trapAt]
@[simp] theorem setVregs_refill (b : Bough) (tr : Bool) (r l n v : Nat) : (b.setVregs tr r l n v).refill = b.refill := by
  induction n generalizing b r v with
  | zero => rfl
  | succ n ih => rw [Bough.setVregs, ih, setVreg_refill]
@[simp] theorem setVregs_rjoined (b : Bough) (tr : Bool) (r l n v : Nat) : (b.setVregs tr r l n v).rjoined = b.rjoined := by
  induction n generalizing b r v with
  | zero => rfl
  | succ n ih => rw [Bough.setVregs, ih, setVreg_rjoined]
@[simp] theorem setVregs_frames (b : Bough) (tr : Bool) (r l n v : Nat) : (b.setVregs tr r l n v).frames = b.frames := by
  induction n generalizing b r v with
  | zero => rfl
  | succ n ih => rw [Bough.setVregs, ih, setVreg_frames]
@[simp] theorem setVregs_taskOf (b : Bough) (tr : Bool) (r l n v : Nat) : (b.setVregs tr r l n v).taskOf = b.taskOf := by
  induction n generalizing b r v with
  | zero => rfl
  | succ n ih => rw [Bough.setVregs, ih, setVreg_taskOf]
@[simp] theorem setVregs_tstat (b : Bough) (tr : Bool) (r l n v : Nat) : (b.setVregs tr r l n v).tstat = b.tstat := by
  induction n generalizing b r v with
  | zero => rfl
  | succ n ih => rw [Bough.setVregs, ih, setVreg_tstat]
@[simp] theorem setVregs_nestmax (b : Bough) (tr : Bool) (r l n v : Nat) : (b.setVregs tr r l n v).nestmax = b.nestmax := by
  induction n generalizing b r v with
  | zero => rfl
  | succ n ih => rw [Bough.setVregs, ih, setVreg_nestmax]
@[simp] theorem setVregs_lcb (b : Bough) (tr : Bool) (r l n v : Nat) : (b.setVregs tr r l n v).lcb = b.lcb := by
  induction n generalizing b r v with
  | zero => rfl
  | succ n ih => rw [Bough.setVregs, ih, setVreg_lcb]
@[simp] theorem setVregs_lcseed (b : Bough) (tr : Bool) (r l n v : Nat) : (b.setVregs tr r l n v).lcseed = b.lcseed := by
  induction n generalizing b r v with
  | zero => rfl
  | succ n ih => rw [Bough.setVregs, ih, setVreg_lcseed]
@[simp] theorem setVregs_bankcnt (b : Bough) (tr : Bool) (r l n v : Nat) : (b.setVregs tr r l n v).bankcnt = b.bankcnt := by
  induction n generalizing b r v with
  | zero => rfl
  | succ n ih => rw [Bough.setVregs, ih, setVreg_bankcnt]
@[simp] theorem setVregs_utag (b : Bough) (tr : Bool) (r l n v : Nat) : (b.setVregs tr r l n v).utag = b.utag := by
  induction n generalizing b r v with
  | zero => rfl
  | succ n ih => rw [Bough.setVregs, ih, setVreg_utag]
@[simp] theorem setVregs_epc (b : Bough) (tr : Bool) (r l n v : Nat) : (b.setVregs tr r l n v).epc = b.epc := by
  induction n generalizing b r v with
  | zero => rfl
  | succ n ih => rw [Bough.setVregs, ih, setVreg_epc]
@[simp] theorem setVregs_emask (b : Bough) (tr : Bool) (r l n v : Nat) : (b.setVregs tr r l n v).emask = b.emask := by
  induction n generalizing b r v with
  | zero => rfl
  | succ n ih => rw [Bough.setVregs, ih, setVreg_emask]
@[simp] theorem setVregs_ecause (b : Bough) (tr : Bool) (r l n v : Nat) : (b.setVregs tr r l n v).ecause = b.ecause := by
  induction n generalizing b r v with
  | zero => rfl
  | succ n ih => rw [Bough.setVregs, ih, setVreg_ecause]
@[simp] theorem setVregs_eaddr (b : Bough) (tr : Bool) (r l n v : Nat) : (b.setVregs tr r l n v).eaddr = b.eaddr := by
  induction n generalizing b r v with
  | zero => rfl
  | succ n ih => rw [Bough.setVregs, ih, setVreg_eaddr]
@[simp] theorem setVregs_esavea (b : Bough) (tr : Bool) (r l n v : Nat) : (b.setVregs tr r l n v).esavea = b.esavea := by
  induction n generalizing b r v with
  | zero => rfl
  | succ n ih => rw [Bough.setVregs, ih, setVreg_esavea]
@[simp] theorem setVregs_esaveb (b : Bough) (tr : Bool) (r l n v : Nat) : (b.setVregs tr r l n v).esaveb = b.esaveb := by
  induction n generalizing b r v with
  | zero => rfl
  | succ n ih => rw [Bough.setVregs, ih, setVreg_esaveb]
@[simp] theorem setVregs_sysmode (b : Bough) (tr : Bool) (r l n v : Nat) : (b.setVregs tr r l n v).sysmode = b.sysmode := by
  induction n generalizing b r v with
  | zero => rfl
  | succ n ih => rw [Bough.setVregs, ih, setVreg_sysmode]
@[simp] theorem setVregs_arrived (b : Bough) (tr : Bool) (r l n v : Nat) : (b.setVregs tr r l n v).arrived = b.arrived := by
  induction n generalizing b r v with
  | zero => rfl
  | succ n ih => rw [Bough.setVregs, ih, setVreg_arrived]
@[simp] theorem setVregs_arrGen (b : Bough) (tr : Bool) (r l n v : Nat) : (b.setVregs tr r l n v).arrGen = b.arrGen := by
  induction n generalizing b r v with
  | zero => rfl
  | succ n ih => rw [Bough.setVregs, ih, setVreg_arrGen]
@[simp] theorem setVregs_lastArr (b : Bough) (tr : Bool) (r l n v : Nat) : (b.setVregs tr r l n v).lastArr = b.lastArr := by
  induction n generalizing b r v with
  | zero => rfl
  | succ n ih => rw [Bough.setVregs, ih, setVreg_lastArr]
@[simp] theorem setVregs_stepdone (b : Bough) (tr : Bool) (r l n v : Nat) : (b.setVregs tr r l n v).stepdone = b.stepdone := by
  induction n generalizing b r v with
  | zero => rfl
  | succ n ih => rw [Bough.setVregs, ih, setVreg_stepdone]
@[simp] theorem setVregs_sib (b : Bough) (tr : Bool) (r l n v : Nat) : (b.setVregs tr r l n v).sib = b.sib := by
  induction n generalizing b r v with
  | zero => rfl
  | succ n ih => rw [Bough.setVregs, ih, setVreg_sib]
@[simp] theorem setVregs_walkRes (b : Bough) (tr : Bool) (r l n v : Nat) : (b.setVregs tr r l n v).walkRes = b.walkRes := by
  induction n generalizing b r v with
  | zero => rfl
  | succ n ih => rw [Bough.setVregs, ih, setVreg_walkRes]
@[simp] theorem setVregs_recorded (b : Bough) (tr : Bool) (r l n v : Nat) : (b.setVregs tr r l n v).recorded = b.recorded := by
  induction n generalizing b r v with
  | zero => rfl
  | succ n ih => rw [Bough.setVregs, ih, setVreg_recorded]

/-! setLanes -/

@[simp] theorem setLanes_uid (b : Bough) (tr : Bool) (r n : Nat) (m : Mask) (g : Nat → Nat) : (b.setLanes tr r n m g).uid = b.uid := 
  foldl_keeps (fun b : Bough => b.uid) _ (fun _ _ => setVregs_uid ..) _ _
@[simp] theorem setLanes_status (b : Bough) (tr : Bool) (r n : Nat) (m : Mask) (g : Nat → Nat) : (b.setLanes tr r n m g).status = b.status := 
  foldl_keeps (fun b : Bough => b.status) _ (fun _ _ => setVregs_status ..) _ _
@[simp] theorem setLanes_launch (b : Bough) (tr : Bool) (r n : Nat) (m : Mask) (g : Nat → Nat) : (b.setLanes tr r n m g).launch = b.launch := 
  foldl_keeps (fun b : Bough => b.launch) _ (fun _ _ => setVregs_launch ..) _ _
@[simp] theorem setLanes_cid (b : Bough) (tr : Bool) (r n : Nat) (m : Mask) (g : Nat → Nat) : (b.setLanes tr r n m g).cid = b.cid := 
  foldl_keeps (fun b : Bough => b.cid) _ (fun _ _ => setVregs_cid ..) _ _
@[simp] theorem setLanes_idx (b : Bough) (tr : Bool) (r n : Nat) (m : Mask) (g : Nat → Nat) : (b.setLanes tr r n m g).idx = b.idx := 
  foldl_keeps (fun b : Bough => b.idx) _ (fun _ _ => setVregs_idx ..) _ _
@[simp] theorem setLanes_part (b : Bough) (tr : Bool) (r n : Nat) (m : Mask) (g : Nat → Nat) : (b.setLanes tr r n m g).part = b.part := 
  foldl_keeps (fun b : Bough => b.part) _ (fun _ _ => setVregs_part ..) _ _
@[simp] theorem setLanes_core (b : Bough) (tr : Bool) (r n : Nat) (m : Mask) (g : Nat → Nat) : (b.setLanes tr r n m g).core = b.core := 
  foldl_keeps (fun b : Bough => b.core) _ (fun _ _ => setVregs_core ..) _ _
@[simp] theorem setLanes_slot (b : Bough) (tr : Bool) (r n : Nat) (m : Mask) (g : Nat → Nat) : (b.setLanes tr r n m g).slot = b.slot := 
  foldl_keeps (fun b : Bough => b.slot) _ (fun _ _ => setVregs_slot ..) _ _
@[simp] theorem setLanes_nregs (b : Bough) (tr : Bool) (r n : Nat) (m : Mask) (g : Nat → Nat) : (b.setLanes tr r n m g).nregs = b.nregs := 
  foldl_keeps (fun b : Bough => b.nregs) _ (fun _ _ => setVregs_nregs ..) _ _
@[simp] theorem setLanes_regbase (b : Bough) (tr : Bool) (r n : Nat) (m : Mask) (g : Nat → Nat) : (b.setLanes tr r n m g).regbase = b.regbase := 
  foldl_keeps (fun b : Bough => b.regbase) _ (fun _ _ => setVregs_regbase ..) _ _
@[simp] theorem setLanes_pc (b : Bough) (tr : Bool) (r n : Nat) (m : Mask) (g : Nat → Nat) : (b.setLanes tr r n m g).pc = b.pc := 
  foldl_keeps (fun b : Bough => b.pc) _ (fun _ _ => setVregs_pc ..) _ _
@[simp] theorem setLanes_emr (b : Bough) (tr : Bool) (r n : Nat) (m : Mask) (g : Nat → Nat) : (b.setLanes tr r n m g).emr = b.emr := 
  foldl_keeps (fun b : Bough => b.emr) _ (fun _ _ => setVregs_emr ..) _ _
@[simp] theorem setLanes_idle (b : Bough) (tr : Bool) (r n : Nat) (m : Mask) (g : Nat → Nat) : (b.setLanes tr r n m g).idle = b.idle := 
  foldl_keeps (fun b : Bough => b.idle) _ (fun _ _ => setVregs_idle ..) _ _
@[simp] theorem setLanes_live (b : Bough) (tr : Bool) (r n : Nat) (m : Mask) (g : Nat → Nat) : (b.setLanes tr r n m g).live = b.live := 
  foldl_keeps (fun b : Bough => b.live) _ (fun _ _ => setVregs_live ..) _ _
@[simp] theorem setLanes_ready (b : Bough) (tr : Bool) (r n : Nat) (m : Mask) (g : Nat → Nat) : (b.setLanes tr r n m g).ready = b.ready := 
  foldl_keeps (fun b : Bough => b.ready) _ (fun _ _ => setVregs_ready ..) _ _
@[simp] theorem setLanes_seen (b : Bough) (tr : Bool) (r n : Nat) (m : Mask) (g : Nat → Nat) : (b.setLanes tr r n m g).seen = b.seen := 
  foldl_keeps (fun b : Bough => b.seen) _ (fun _ _ => setVregs_seen ..) _ _
@[simp] theorem setLanes_stack (b : Bough) (tr : Bool) (r n : Nat) (m : Mask) (g : Nat → Nat) : (b.setLanes tr r n m g).stack = b.stack := 
  foldl_keeps (fun b : Bough => b.stack) _ (fun _ _ => setVregs_stack ..) _ _
@[simp] theorem setLanes_nf (b : Bough) (tr : Bool) (r n : Nat) (m : Mask) (g : Nat → Nat) : (b.setLanes tr r n m g).nf = b.nf := 
  foldl_keeps (fun b : Bough => b.nf) _ (fun _ _ => setVregs_nf ..) _ _
@[simp] theorem setLanes_fmt (b : Bough) (tr : Bool) (r n : Nat) (m : Mask) (g : Nat → Nat) : (b.setLanes tr r n m g).fmt = b.fmt := 
  foldl_keeps (fun b : Bough => b.fmt) _ (fun _ _ => setVregs_fmt ..) _ _
@[simp] theorem setLanes_preds (b : Bough) (tr : Bool) (r n : Nat) (m : Mask) (g : Nat → Nat) : (b.setLanes tr r n m g).preds = b.preds := 
  foldl_keeps (fun b : Bough => b.preds) _ (fun _ _ => setVregs_preds ..) _ _
@[simp] theorem setLanes_sregs (b : Bough) (tr : Bool) (r n : Nat) (m : Mask) (g : Nat → Nat) : (b.setLanes tr r n m g).sregs = b.sregs := 
  foldl_keeps (fun b : Bough => b.sregs) _ (fun _ _ => setVregs_sregs ..) _ _
@[simp] theorem setLanes_flags (b : Bough) (tr : Bool) (r n : Nat) (m : Mask) (g : Nat → Nat) : (b.setLanes tr r n m g).flags = b.flags := 
  foldl_keeps (fun b : Bough => b.flags) _ (fun _ _ => setVregs_flags ..) _ _
@[simp] theorem setLanes_wh (b : Bough) (tr : Bool) (r n : Nat) (m : Mask) (g : Nat → Nat) : (b.setLanes tr r n m g).wh = b.wh := 
  foldl_keeps (fun b : Bough => b.wh) _ (fun _ _ => setVregs_wh ..) _ _
@[simp] theorem setLanes_nest (b : Bough) (tr : Bool) (r n : Nat) (m : Mask) (g : Nat → Nat) : (b.setLanes tr r n m g).nest = b.nest := 
  foldl_keeps (fun b : Bough => b.nest) _ (fun _ _ => setVregs_nest ..) _ _
@[simp] theorem setLanes_coef (b : Bough) (tr : Bool) (r n : Nat) (m : Mask) (g : Nat → Nat) : (b.setLanes tr r n m g).coef = b.coef := 
  foldl_keeps (fun b : Bough => b.coef) _ (fun _ _ => setVregs_coef ..) _ _
@[simp] theorem setLanes_rep (b : Bough) (tr : Bool) (r n : Nat) (m : Mask) (g : Nat → Nat) : (b.setLanes tr r n m g).rep = b.rep := 
  foldl_keeps (fun b : Bough => b.rep) _ (fun _ _ => setVregs_rep ..) _ _
@[simp] theorem setLanes_replaying (b : Bough) (tr : Bool) (r n : Nat) (m : Mask) (g : Nat → Nat) : (b.setLanes tr r n m g).replaying = b.replaying := 
  foldl_keeps (fun b : Bough => b.replaying) _ (fun _ _ => setVregs_replaying ..) _ _
@[simp] theorem setLanes_rtok (b : Bough) (tr : Bool) (r n : Nat) (m : Mask) (g : Nat → Nat) : (b.setLanes tr r n m g).rtok = b.rtok := 
  foldl_keeps (fun b : Bough => b.rtok) _ (fun _ _ => setVregs_rtok ..) _ _
@[simp] theorem setLanes_itok (b : Bough) (tr : Bool) (r n : Nat) (m : Mask) (g : Nat → Nat) : (b.setLanes tr r n m g).itok = b.itok := 
  foldl_keeps (fun b : Bough => b.itok) _ (fun _ _ => setVregs_itok ..) _ _
@[simp] theorem setLanes_tgroups (b : Bough) (tr : Bool) (r n : Nat) (m : Mask) (g : Nat → Nat) : (b.setLanes tr r n m g).tgroups = b.tgroups := 
  foldl_keeps (fun b : Bough => b.tgroups) _ (fun _ _ => setVregs_tgroups ..) _ _
@[simp] theorem setLanes_setpri (b : Bough) (tr : Bool) (r n : Nat) (m : Mask) (g : Nat → Nat) : (b.setLanes tr r n m g).setpri = b.setpri := 
  foldl_keeps (fun b : Bough => b.setpri) _ (fun _ _ => setVregs_setpri ..) _ _
@[simp] theorem setLanes_line (b : Bough) (tr : Bool) (r n : Nat) (m : Mask) (g : Nat → Nat) : (b.setLanes tr r n m g).line = b.line := 
  foldl_keeps (fun b : Bough => b.line) _ (fun _ _ => setVregs_line ..) _ _
@[simp] theorem setLanes_entered (b : Bough) (tr : Bool) (r n : Nat) (m : Mask) (g : Nat → Nat) : (b.setLanes tr r n m g).entered = b.entered := 
  foldl_keeps (fun b : Bough => b.entered) _ (fun _ _ => setVregs_entered ..) _ _
@[simp] theorem setLanes_checkTM (b : Bough) (tr : Bool) (r n : Nat) (m : Mask) (g : Nat → Nat) : (b.setLanes tr r n m g).checkTM = b.checkTM := 
  foldl_keeps (fun b : Bough => b.checkTM) _ (fun _ _ => setVregs_checkTM ..) _ _
@[simp] theorem setLanes_tmDue (b : Bough) (tr : Bool) (r n : Nat) (m : Mask) (g : Nat → Nat) : (b.setLanes tr r n m g).tmDue = b.tmDue := 
  foldl_keeps (fun b : Bough => b.tmDue) _ (fun _ _ => setVregs_tmDue ..) _ _
@[simp] theorem setLanes_wait (b : Bough) (tr : Bool) (r n : Nat) (m : Mask) (g : Nat → Nat) : (b.setLanes tr r n m g).wait = b.wait := 
  foldl_keeps (fun b : Bough => b.wait) _ (fun _ _ => setVregs_wait ..) _ _
@[simp] theorem setLanes_waitSince (b : Bough) (tr : Bool) (r n : Nat) (m : Mask) (g : Nat → Nat) : (b.setLanes tr r n m g).waitSince = b.waitSince := 
  foldl_keeps (fun b : Bough => b.waitSince) _ (fun _ _ => setVregs_waitSince ..) _ _
@[simp] theorem setLanes_trapAt (b : Bough) (tr : Bool) (r n : Nat) (m : Mask) (g : Nat → Nat) : (b.setLanes tr r n m g).trapAt = b.trapAt := 
  foldl_keeps (fun b : Bough => b.trapAt) _ (fun _ _ => setVregs_trapAt ..) _ _
@[simp] theorem setLanes_refill (b : Bough) (tr : Bool) (r n : Nat) (m : Mask) (g : Nat → Nat) : (b.setLanes tr r n m g).refill = b.refill := 
  foldl_keeps (fun b : Bough => b.refill) _ (fun _ _ => setVregs_refill ..) _ _
@[simp] theorem setLanes_rjoined (b : Bough) (tr : Bool) (r n : Nat) (m : Mask) (g : Nat → Nat) : (b.setLanes tr r n m g).rjoined = b.rjoined := 
  foldl_keeps (fun b : Bough => b.rjoined) _ (fun _ _ => setVregs_rjoined ..) _ _
@[simp] theorem setLanes_frames (b : Bough) (tr : Bool) (r n : Nat) (m : Mask) (g : Nat → Nat) : (b.setLanes tr r n m g).frames = b.frames := 
  foldl_keeps (fun b : Bough => b.frames) _ (fun _ _ => setVregs_frames ..) _ _
@[simp] theorem setLanes_taskOf (b : Bough) (tr : Bool) (r n : Nat) (m : Mask) (g : Nat → Nat) : (b.setLanes tr r n m g).taskOf = b.taskOf := 
  foldl_keeps (fun b : Bough => b.taskOf) _ (fun _ _ => setVregs_taskOf ..) _ _
@[simp] theorem setLanes_tstat (b : Bough) (tr : Bool) (r n : Nat) (m : Mask) (g : Nat → Nat) : (b.setLanes tr r n m g).tstat = b.tstat := 
  foldl_keeps (fun b : Bough => b.tstat) _ (fun _ _ => setVregs_tstat ..) _ _
@[simp] theorem setLanes_nestmax (b : Bough) (tr : Bool) (r n : Nat) (m : Mask) (g : Nat → Nat) : (b.setLanes tr r n m g).nestmax = b.nestmax := 
  foldl_keeps (fun b : Bough => b.nestmax) _ (fun _ _ => setVregs_nestmax ..) _ _
@[simp] theorem setLanes_lcb (b : Bough) (tr : Bool) (r n : Nat) (m : Mask) (g : Nat → Nat) : (b.setLanes tr r n m g).lcb = b.lcb := 
  foldl_keeps (fun b : Bough => b.lcb) _ (fun _ _ => setVregs_lcb ..) _ _
@[simp] theorem setLanes_lcseed (b : Bough) (tr : Bool) (r n : Nat) (m : Mask) (g : Nat → Nat) : (b.setLanes tr r n m g).lcseed = b.lcseed := 
  foldl_keeps (fun b : Bough => b.lcseed) _ (fun _ _ => setVregs_lcseed ..) _ _
@[simp] theorem setLanes_bankcnt (b : Bough) (tr : Bool) (r n : Nat) (m : Mask) (g : Nat → Nat) : (b.setLanes tr r n m g).bankcnt = b.bankcnt := 
  foldl_keeps (fun b : Bough => b.bankcnt) _ (fun _ _ => setVregs_bankcnt ..) _ _
@[simp] theorem setLanes_utag (b : Bough) (tr : Bool) (r n : Nat) (m : Mask) (g : Nat → Nat) : (b.setLanes tr r n m g).utag = b.utag := 
  foldl_keeps (fun b : Bough => b.utag) _ (fun _ _ => setVregs_utag ..) _ _
@[simp] theorem setLanes_epc (b : Bough) (tr : Bool) (r n : Nat) (m : Mask) (g : Nat → Nat) : (b.setLanes tr r n m g).epc = b.epc := 
  foldl_keeps (fun b : Bough => b.epc) _ (fun _ _ => setVregs_epc ..) _ _
@[simp] theorem setLanes_emask (b : Bough) (tr : Bool) (r n : Nat) (m : Mask) (g : Nat → Nat) : (b.setLanes tr r n m g).emask = b.emask := 
  foldl_keeps (fun b : Bough => b.emask) _ (fun _ _ => setVregs_emask ..) _ _
@[simp] theorem setLanes_ecause (b : Bough) (tr : Bool) (r n : Nat) (m : Mask) (g : Nat → Nat) : (b.setLanes tr r n m g).ecause = b.ecause := 
  foldl_keeps (fun b : Bough => b.ecause) _ (fun _ _ => setVregs_ecause ..) _ _
@[simp] theorem setLanes_eaddr (b : Bough) (tr : Bool) (r n : Nat) (m : Mask) (g : Nat → Nat) : (b.setLanes tr r n m g).eaddr = b.eaddr := 
  foldl_keeps (fun b : Bough => b.eaddr) _ (fun _ _ => setVregs_eaddr ..) _ _
@[simp] theorem setLanes_esavea (b : Bough) (tr : Bool) (r n : Nat) (m : Mask) (g : Nat → Nat) : (b.setLanes tr r n m g).esavea = b.esavea := 
  foldl_keeps (fun b : Bough => b.esavea) _ (fun _ _ => setVregs_esavea ..) _ _
@[simp] theorem setLanes_esaveb (b : Bough) (tr : Bool) (r n : Nat) (m : Mask) (g : Nat → Nat) : (b.setLanes tr r n m g).esaveb = b.esaveb := 
  foldl_keeps (fun b : Bough => b.esaveb) _ (fun _ _ => setVregs_esaveb ..) _ _
@[simp] theorem setLanes_sysmode (b : Bough) (tr : Bool) (r n : Nat) (m : Mask) (g : Nat → Nat) : (b.setLanes tr r n m g).sysmode = b.sysmode := 
  foldl_keeps (fun b : Bough => b.sysmode) _ (fun _ _ => setVregs_sysmode ..) _ _
@[simp] theorem setLanes_arrived (b : Bough) (tr : Bool) (r n : Nat) (m : Mask) (g : Nat → Nat) : (b.setLanes tr r n m g).arrived = b.arrived := 
  foldl_keeps (fun b : Bough => b.arrived) _ (fun _ _ => setVregs_arrived ..) _ _
@[simp] theorem setLanes_arrGen (b : Bough) (tr : Bool) (r n : Nat) (m : Mask) (g : Nat → Nat) : (b.setLanes tr r n m g).arrGen = b.arrGen := 
  foldl_keeps (fun b : Bough => b.arrGen) _ (fun _ _ => setVregs_arrGen ..) _ _
@[simp] theorem setLanes_lastArr (b : Bough) (tr : Bool) (r n : Nat) (m : Mask) (g : Nat → Nat) : (b.setLanes tr r n m g).lastArr = b.lastArr := 
  foldl_keeps (fun b : Bough => b.lastArr) _ (fun _ _ => setVregs_lastArr ..) _ _
@[simp] theorem setLanes_stepdone (b : Bough) (tr : Bool) (r n : Nat) (m : Mask) (g : Nat → Nat) : (b.setLanes tr r n m g).stepdone = b.stepdone := 
  foldl_keeps (fun b : Bough => b.stepdone) _ (fun _ _ => setVregs_stepdone ..) _ _
@[simp] theorem setLanes_sib (b : Bough) (tr : Bool) (r n : Nat) (m : Mask) (g : Nat → Nat) : (b.setLanes tr r n m g).sib = b.sib := 
  foldl_keeps (fun b : Bough => b.sib) _ (fun _ _ => setVregs_sib ..) _ _
@[simp] theorem setLanes_walkRes (b : Bough) (tr : Bool) (r n : Nat) (m : Mask) (g : Nat → Nat) : (b.setLanes tr r n m g).walkRes = b.walkRes := 
  foldl_keeps (fun b : Bough => b.walkRes) _ (fun _ _ => setVregs_walkRes ..) _ _
@[simp] theorem setLanes_recorded (b : Bough) (tr : Bool) (r n : Nat) (m : Mask) (g : Nat → Nat) : (b.setLanes tr r n m g).recorded = b.recorded := 
  foldl_keeps (fun b : Bough => b.recorded) _ (fun _ _ => setVregs_recorded ..) _ _

/-! closeLanes -/

@[simp] theorem closeLanes_uid (b : Bough) (m : Mask) : (b.closeLanes m).uid = b.uid := rfl
@[simp] theorem closeLanes_status (b : Bough) (m : Mask) : (b.closeLanes m).status = b.status := rfl
@[simp] theorem closeLanes_launch (b : Bough) (m : Mask) : (b.closeLanes m).launch = b.launch := rfl
@[simp] theorem closeLanes_cid (b : Bough) (m : Mask) : (b.closeLanes m).cid = b.cid := rfl
@[simp] theorem closeLanes_idx (b : Bough) (m : Mask) : (b.closeLanes m).idx = b.idx := rfl
@[simp] theorem closeLanes_part (b : Bough) (m : Mask) : (b.closeLanes m).part = b.part := rfl
@[simp] theorem closeLanes_core (b : Bough) (m : Mask) : (b.closeLanes m).core = b.core := rfl
@[simp] theorem closeLanes_slot (b : Bough) (m : Mask) : (b.closeLanes m).slot = b.slot := rfl
@[simp] theorem closeLanes_nregs (b : Bough) (m : Mask) : (b.closeLanes m).nregs = b.nregs := rfl
@[simp] theorem closeLanes_regbase (b : Bough) (m : Mask) : (b.closeLanes m).regbase = b.regbase := rfl
@[simp] theorem closeLanes_pc (b : Bough) (m : Mask) : (b.closeLanes m).pc = b.pc := rfl
@[simp] theorem closeLanes_emr (b : Bough) (m : Mask) : (b.closeLanes m).emr = b.emr := rfl
@[simp] theorem closeLanes_idle (b : Bough) (m : Mask) : (b.closeLanes m).idle = b.idle := rfl
@[simp] theorem closeLanes_live (b : Bough) (m : Mask) : (b.closeLanes m).live = b.live := rfl
@[simp] theorem closeLanes_ready (b : Bough) (m : Mask) : (b.closeLanes m).ready = b.ready := rfl
@[simp] theorem closeLanes_seen (b : Bough) (m : Mask) : (b.closeLanes m).seen = b.seen := rfl
@[simp] theorem closeLanes_stack (b : Bough) (m : Mask) : (b.closeLanes m).stack = b.stack := rfl
@[simp] theorem closeLanes_nf (b : Bough) (m : Mask) : (b.closeLanes m).nf = b.nf := rfl
@[simp] theorem closeLanes_fmt (b : Bough) (m : Mask) : (b.closeLanes m).fmt = b.fmt := rfl
@[simp] theorem closeLanes_vregs (b : Bough) (m : Mask) : (b.closeLanes m).vregs = b.vregs := rfl
@[simp] theorem closeLanes_preds (b : Bough) (m : Mask) : (b.closeLanes m).preds = b.preds := rfl
@[simp] theorem closeLanes_sregs (b : Bough) (m : Mask) : (b.closeLanes m).sregs = b.sregs := rfl
@[simp] theorem closeLanes_flags (b : Bough) (m : Mask) : (b.closeLanes m).flags = b.flags := rfl
@[simp] theorem closeLanes_wh (b : Bough) (m : Mask) : (b.closeLanes m).wh = b.wh := rfl
@[simp] theorem closeLanes_nest (b : Bough) (m : Mask) : (b.closeLanes m).nest = b.nest := rfl
@[simp] theorem closeLanes_coef (b : Bough) (m : Mask) : (b.closeLanes m).coef = b.coef := rfl
@[simp] theorem closeLanes_rep (b : Bough) (m : Mask) : (b.closeLanes m).rep = b.rep := rfl
@[simp] theorem closeLanes_replaying (b : Bough) (m : Mask) : (b.closeLanes m).replaying = b.replaying := rfl
@[simp] theorem closeLanes_rtok (b : Bough) (m : Mask) : (b.closeLanes m).rtok = b.rtok := rfl
@[simp] theorem closeLanes_itok (b : Bough) (m : Mask) : (b.closeLanes m).itok = b.itok := rfl
@[simp] theorem closeLanes_tgroups (b : Bough) (m : Mask) : (b.closeLanes m).tgroups = b.tgroups := rfl
@[simp] theorem closeLanes_setpri (b : Bough) (m : Mask) : (b.closeLanes m).setpri = b.setpri := rfl
@[simp] theorem closeLanes_line (b : Bough) (m : Mask) : (b.closeLanes m).line = b.line := rfl
@[simp] theorem closeLanes_entered (b : Bough) (m : Mask) : (b.closeLanes m).entered = b.entered := rfl
@[simp] theorem closeLanes_checkTM (b : Bough) (m : Mask) : (b.closeLanes m).checkTM = b.checkTM := rfl
@[simp] theorem closeLanes_tmDue (b : Bough) (m : Mask) : (b.closeLanes m).tmDue = b.tmDue := rfl
@[simp] theorem closeLanes_wait (b : Bough) (m : Mask) : (b.closeLanes m).wait = b.wait := rfl
@[simp] theorem closeLanes_waitSince (b : Bough) (m : Mask) : (b.closeLanes m).waitSince = b.waitSince := rfl
@[simp] theorem closeLanes_trapAt (b : Bough) (m : Mask) : (b.closeLanes m).trapAt = b.trapAt := rfl
@[simp] theorem closeLanes_refill (b : Bough) (m : Mask) : (b.closeLanes m).refill = b.refill := rfl
@[simp] theorem closeLanes_rjoined (b : Bough) (m : Mask) : (b.closeLanes m).rjoined = b.rjoined := rfl
@[simp] theorem closeLanes_frames (b : Bough) (m : Mask) : (b.closeLanes m).frames = b.frames := rfl
@[simp] theorem closeLanes_taskOf (b : Bough) (m : Mask) : (b.closeLanes m).taskOf = b.taskOf := rfl
@[simp] theorem closeLanes_tstat (b : Bough) (m : Mask) : (b.closeLanes m).tstat = b.tstat := rfl
@[simp] theorem closeLanes_nestmax (b : Bough) (m : Mask) : (b.closeLanes m).nestmax = b.nestmax := rfl
@[simp] theorem closeLanes_lcb (b : Bough) (m : Mask) : (b.closeLanes m).lcb = b.lcb := rfl
@[simp] theorem closeLanes_lcseed (b : Bough) (m : Mask) : (b.closeLanes m).lcseed = b.lcseed := rfl
@[simp] theorem closeLanes_bankcnt (b : Bough) (m : Mask) : (b.closeLanes m).bankcnt = b.bankcnt := rfl
@[simp] theorem closeLanes_utag (b : Bough) (m : Mask) : (b.closeLanes m).utag = b.utag := rfl
@[simp] theorem closeLanes_epc (b : Bough) (m : Mask) : (b.closeLanes m).epc = b.epc := rfl
@[simp] theorem closeLanes_emask (b : Bough) (m : Mask) : (b.closeLanes m).emask = b.emask := rfl
@[simp] theorem closeLanes_ecause (b : Bough) (m : Mask) : (b.closeLanes m).ecause = b.ecause := rfl
@[simp] theorem closeLanes_eaddr (b : Bough) (m : Mask) : (b.closeLanes m).eaddr = b.eaddr := rfl
@[simp] theorem closeLanes_esavea (b : Bough) (m : Mask) : (b.closeLanes m).esavea = b.esavea := rfl
@[simp] theorem closeLanes_esaveb (b : Bough) (m : Mask) : (b.closeLanes m).esaveb = b.esaveb := rfl
@[simp] theorem closeLanes_sysmode (b : Bough) (m : Mask) : (b.closeLanes m).sysmode = b.sysmode := rfl
@[simp] theorem closeLanes_arrived (b : Bough) (m : Mask) : (b.closeLanes m).arrived = b.arrived := rfl
@[simp] theorem closeLanes_arrGen (b : Bough) (m : Mask) : (b.closeLanes m).arrGen = b.arrGen := rfl
@[simp] theorem closeLanes_lastArr (b : Bough) (m : Mask) : (b.closeLanes m).lastArr = b.lastArr := rfl
@[simp] theorem closeLanes_stepdone (b : Bough) (m : Mask) : (b.closeLanes m).stepdone = b.stepdone := rfl
@[simp] theorem closeLanes_sib (b : Bough) (m : Mask) : (b.closeLanes m).sib = b.sib := rfl
@[simp] theorem closeLanes_walkRes (b : Bough) (m : Mask) : (b.closeLanes m).walkRes = b.walkRes := rfl
@[simp] theorem closeLanes_recorded (b : Bough) (m : Mask) : (b.closeLanes m).recorded = b.recorded := rfl

/-! closeWindow -/

@[simp] theorem closeWindow_uid (b : Bough) : (b.closeWindow).uid = b.uid := rfl
@[simp] theorem closeWindow_status (b : Bough) : (b.closeWindow).status = b.status := rfl
@[simp] theorem closeWindow_launch (b : Bough) : (b.closeWindow).launch = b.launch := rfl
@[simp] theorem closeWindow_cid (b : Bough) : (b.closeWindow).cid = b.cid := rfl
@[simp] theorem closeWindow_idx (b : Bough) : (b.closeWindow).idx = b.idx := rfl
@[simp] theorem closeWindow_part (b : Bough) : (b.closeWindow).part = b.part := rfl
@[simp] theorem closeWindow_core (b : Bough) : (b.closeWindow).core = b.core := rfl
@[simp] theorem closeWindow_slot (b : Bough) : (b.closeWindow).slot = b.slot := rfl
@[simp] theorem closeWindow_nregs (b : Bough) : (b.closeWindow).nregs = b.nregs := rfl
@[simp] theorem closeWindow_regbase (b : Bough) : (b.closeWindow).regbase = b.regbase := rfl
@[simp] theorem closeWindow_pc (b : Bough) : (b.closeWindow).pc = b.pc := rfl
@[simp] theorem closeWindow_emr (b : Bough) : (b.closeWindow).emr = b.emr := rfl
@[simp] theorem closeWindow_idle (b : Bough) : (b.closeWindow).idle = b.idle := rfl
@[simp] theorem closeWindow_live (b : Bough) : (b.closeWindow).live = b.live := rfl
@[simp] theorem closeWindow_ready (b : Bough) : (b.closeWindow).ready = b.ready := rfl
@[simp] theorem closeWindow_seen (b : Bough) : (b.closeWindow).seen = b.seen := rfl
@[simp] theorem closeWindow_stack (b : Bough) : (b.closeWindow).stack = b.stack := rfl
@[simp] theorem closeWindow_nf (b : Bough) : (b.closeWindow).nf = b.nf := rfl
@[simp] theorem closeWindow_fmt (b : Bough) : (b.closeWindow).fmt = b.fmt := rfl
@[simp] theorem closeWindow_vregs (b : Bough) : (b.closeWindow).vregs = b.vregs := rfl
@[simp] theorem closeWindow_preds (b : Bough) : (b.closeWindow).preds = b.preds := rfl
@[simp] theorem closeWindow_sregs (b : Bough) : (b.closeWindow).sregs = b.sregs := rfl
@[simp] theorem closeWindow_flags (b : Bough) : (b.closeWindow).flags = b.flags := rfl
@[simp] theorem closeWindow_wh (b : Bough) : (b.closeWindow).wh = b.wh := rfl
@[simp] theorem closeWindow_nest (b : Bough) : (b.closeWindow).nest = b.nest := rfl
@[simp] theorem closeWindow_coef (b : Bough) : (b.closeWindow).coef = b.coef := rfl
@[simp] theorem closeWindow_rep (b : Bough) : (b.closeWindow).rep = b.rep := rfl
@[simp] theorem closeWindow_replaying (b : Bough) : (b.closeWindow).replaying = b.replaying := rfl
@[simp] theorem closeWindow_rtok (b : Bough) : (b.closeWindow).rtok = b.rtok := rfl
@[simp] theorem closeWindow_itok (b : Bough) : (b.closeWindow).itok = b.itok := rfl
@[simp] theorem closeWindow_tgroups (b : Bough) : (b.closeWindow).tgroups = b.tgroups := rfl
@[simp] theorem closeWindow_setpri (b : Bough) : (b.closeWindow).setpri = b.setpri := rfl
@[simp] theorem closeWindow_line (b : Bough) : (b.closeWindow).line = b.line := rfl
@[simp] theorem closeWindow_entered (b : Bough) : (b.closeWindow).entered = b.entered := rfl
@[simp] theorem closeWindow_checkTM (b : Bough) : (b.closeWindow).checkTM = b.checkTM := rfl
@[simp] theorem closeWindow_tmDue (b : Bough) : (b.closeWindow).tmDue = b.tmDue := rfl
@[simp] theorem closeWindow_wait (b : Bough) : (b.closeWindow).wait = b.wait := rfl
@[simp] theorem closeWindow_waitSince (b : Bough) : (b.closeWindow).waitSince = b.waitSince := rfl
@[simp] theorem closeWindow_trapAt (b : Bough) : (b.closeWindow).trapAt = b.trapAt := rfl
@[simp] theorem closeWindow_refill (b : Bough) : (b.closeWindow).refill = b.refill := rfl
@[simp] theorem closeWindow_rjoined (b : Bough) : (b.closeWindow).rjoined = b.rjoined := rfl
@[simp] theorem closeWindow_frames (b : Bough) : (b.closeWindow).frames = b.frames := rfl
@[simp] theorem closeWindow_taskOf (b : Bough) : (b.closeWindow).taskOf = b.taskOf := rfl
@[simp] theorem closeWindow_tstat (b : Bough) : (b.closeWindow).tstat = b.tstat := rfl
@[simp] theorem closeWindow_nestmax (b : Bough) : (b.closeWindow).nestmax = b.nestmax := rfl
@[simp] theorem closeWindow_lcb (b : Bough) : (b.closeWindow).lcb = b.lcb := rfl
@[simp] theorem closeWindow_lcseed (b : Bough) : (b.closeWindow).lcseed = b.lcseed := rfl
@[simp] theorem closeWindow_bankcnt (b : Bough) : (b.closeWindow).bankcnt = b.bankcnt := rfl
@[simp] theorem closeWindow_utag (b : Bough) : (b.closeWindow).utag = b.utag := rfl
@[simp] theorem closeWindow_epc (b : Bough) : (b.closeWindow).epc = b.epc := rfl
@[simp] theorem closeWindow_emask (b : Bough) : (b.closeWindow).emask = b.emask := rfl
@[simp] theorem closeWindow_ecause (b : Bough) : (b.closeWindow).ecause = b.ecause := rfl
@[simp] theorem closeWindow_eaddr (b : Bough) : (b.closeWindow).eaddr = b.eaddr := rfl
@[simp] theorem closeWindow_esavea (b : Bough) : (b.closeWindow).esavea = b.esavea := rfl
@[simp] theorem closeWindow_esaveb (b : Bough) : (b.closeWindow).esaveb = b.esaveb := rfl
@[simp] theorem closeWindow_sysmode (b : Bough) : (b.closeWindow).sysmode = b.sysmode := rfl
@[simp] theorem closeWindow_arrived (b : Bough) : (b.closeWindow).arrived = b.arrived := rfl
@[simp] theorem closeWindow_arrGen (b : Bough) : (b.closeWindow).arrGen = b.arrGen := rfl
@[simp] theorem closeWindow_lastArr (b : Bough) : (b.closeWindow).lastArr = b.lastArr := rfl
@[simp] theorem closeWindow_stepdone (b : Bough) : (b.closeWindow).stepdone = b.stepdone := rfl
@[simp] theorem closeWindow_sib (b : Bough) : (b.closeWindow).sib = b.sib := rfl
@[simp] theorem closeWindow_walkRes (b : Bough) : (b.closeWindow).walkRes = b.walkRes := rfl
@[simp] theorem closeWindow_recorded (b : Bough) : (b.closeWindow).recorded = b.recorded := rfl

/-! advancePath -/

@[simp] theorem advancePath_uid (b : Bough) (m : Mask) : (b.advancePath m).uid = b.uid := rfl
@[simp] theorem advancePath_status (b : Bough) (m : Mask) : (b.advancePath m).status = b.status := rfl
@[simp] theorem advancePath_launch (b : Bough) (m : Mask) : (b.advancePath m).launch = b.launch := rfl
@[simp] theorem advancePath_cid (b : Bough) (m : Mask) : (b.advancePath m).cid = b.cid := rfl
@[simp] theorem advancePath_idx (b : Bough) (m : Mask) : (b.advancePath m).idx = b.idx := rfl
@[simp] theorem advancePath_part (b : Bough) (m : Mask) : (b.advancePath m).part = b.part := rfl
@[simp] theorem advancePath_core (b : Bough) (m : Mask) : (b.advancePath m).core = b.core := rfl
@[simp] theorem advancePath_slot (b : Bough) (m : Mask) : (b.advancePath m).slot = b.slot := rfl
@[simp] theorem advancePath_nregs (b : Bough) (m : Mask) : (b.advancePath m).nregs = b.nregs := rfl
@[simp] theorem advancePath_regbase (b : Bough) (m : Mask) : (b.advancePath m).regbase = b.regbase := rfl
@[simp] theorem advancePath_pc (b : Bough) (m : Mask) : (b.advancePath m).pc = b.pc := rfl
@[simp] theorem advancePath_emr (b : Bough) (m : Mask) : (b.advancePath m).emr = b.emr := rfl
@[simp] theorem advancePath_idle (b : Bough) (m : Mask) : (b.advancePath m).idle = b.idle := rfl
@[simp] theorem advancePath_live (b : Bough) (m : Mask) : (b.advancePath m).live = b.live := rfl
@[simp] theorem advancePath_ready (b : Bough) (m : Mask) : (b.advancePath m).ready = b.ready := rfl
@[simp] theorem advancePath_seen (b : Bough) (m : Mask) : (b.advancePath m).seen = b.seen := rfl
@[simp] theorem advancePath_stack (b : Bough) (m : Mask) : (b.advancePath m).stack = b.stack := rfl
@[simp] theorem advancePath_nf (b : Bough) (m : Mask) : (b.advancePath m).nf = b.nf := rfl
@[simp] theorem advancePath_fmt (b : Bough) (m : Mask) : (b.advancePath m).fmt = b.fmt := rfl
@[simp] theorem advancePath_vregs (b : Bough) (m : Mask) : (b.advancePath m).vregs = b.vregs := rfl
@[simp] theorem advancePath_preds (b : Bough) (m : Mask) : (b.advancePath m).preds = b.preds := rfl
@[simp] theorem advancePath_sregs (b : Bough) (m : Mask) : (b.advancePath m).sregs = b.sregs := rfl
@[simp] theorem advancePath_flags (b : Bough) (m : Mask) : (b.advancePath m).flags = b.flags := rfl
@[simp] theorem advancePath_wh (b : Bough) (m : Mask) : (b.advancePath m).wh = b.wh := rfl
@[simp] theorem advancePath_nest (b : Bough) (m : Mask) : (b.advancePath m).nest = b.nest := rfl
@[simp] theorem advancePath_coef (b : Bough) (m : Mask) : (b.advancePath m).coef = b.coef := rfl
@[simp] theorem advancePath_rep (b : Bough) (m : Mask) : (b.advancePath m).rep = b.rep := rfl
@[simp] theorem advancePath_replaying (b : Bough) (m : Mask) : (b.advancePath m).replaying = b.replaying := rfl
@[simp] theorem advancePath_rtok (b : Bough) (m : Mask) : (b.advancePath m).rtok = b.rtok := rfl
@[simp] theorem advancePath_itok (b : Bough) (m : Mask) : (b.advancePath m).itok = b.itok := rfl
@[simp] theorem advancePath_tgroups (b : Bough) (m : Mask) : (b.advancePath m).tgroups = b.tgroups := rfl
@[simp] theorem advancePath_setpri (b : Bough) (m : Mask) : (b.advancePath m).setpri = b.setpri := rfl
@[simp] theorem advancePath_line (b : Bough) (m : Mask) : (b.advancePath m).line = b.line := rfl
@[simp] theorem advancePath_entered (b : Bough) (m : Mask) : (b.advancePath m).entered = b.entered := rfl
@[simp] theorem advancePath_checkTM (b : Bough) (m : Mask) : (b.advancePath m).checkTM = b.checkTM := rfl
@[simp] theorem advancePath_tmDue (b : Bough) (m : Mask) : (b.advancePath m).tmDue = b.tmDue := rfl
@[simp] theorem advancePath_wait (b : Bough) (m : Mask) : (b.advancePath m).wait = b.wait := rfl
@[simp] theorem advancePath_waitSince (b : Bough) (m : Mask) : (b.advancePath m).waitSince = b.waitSince := rfl
@[simp] theorem advancePath_trapAt (b : Bough) (m : Mask) : (b.advancePath m).trapAt = b.trapAt := rfl
@[simp] theorem advancePath_refill (b : Bough) (m : Mask) : (b.advancePath m).refill = b.refill := rfl
@[simp] theorem advancePath_rjoined (b : Bough) (m : Mask) : (b.advancePath m).rjoined = b.rjoined := rfl
@[simp] theorem advancePath_frames (b : Bough) (m : Mask) : (b.advancePath m).frames = b.frames := rfl
@[simp] theorem advancePath_taskOf (b : Bough) (m : Mask) : (b.advancePath m).taskOf = b.taskOf := rfl
@[simp] theorem advancePath_tstat (b : Bough) (m : Mask) : (b.advancePath m).tstat = b.tstat := rfl
@[simp] theorem advancePath_nestmax (b : Bough) (m : Mask) : (b.advancePath m).nestmax = b.nestmax := rfl
@[simp] theorem advancePath_lcb (b : Bough) (m : Mask) : (b.advancePath m).lcb = b.lcb := rfl
@[simp] theorem advancePath_lcseed (b : Bough) (m : Mask) : (b.advancePath m).lcseed = b.lcseed := rfl
@[simp] theorem advancePath_bankcnt (b : Bough) (m : Mask) : (b.advancePath m).bankcnt = b.bankcnt := rfl
@[simp] theorem advancePath_utag (b : Bough) (m : Mask) : (b.advancePath m).utag = b.utag := rfl
@[simp] theorem advancePath_epc (b : Bough) (m : Mask) : (b.advancePath m).epc = b.epc := rfl
@[simp] theorem advancePath_emask (b : Bough) (m : Mask) : (b.advancePath m).emask = b.emask := rfl
@[simp] theorem advancePath_ecause (b : Bough) (m : Mask) : (b.advancePath m).ecause = b.ecause := rfl
@[simp] theorem advancePath_eaddr (b : Bough) (m : Mask) : (b.advancePath m).eaddr = b.eaddr := rfl
@[simp] theorem advancePath_esavea (b : Bough) (m : Mask) : (b.advancePath m).esavea = b.esavea := rfl
@[simp] theorem advancePath_esaveb (b : Bough) (m : Mask) : (b.advancePath m).esaveb = b.esaveb := rfl
@[simp] theorem advancePath_sysmode (b : Bough) (m : Mask) : (b.advancePath m).sysmode = b.sysmode := rfl
@[simp] theorem advancePath_arrived (b : Bough) (m : Mask) : (b.advancePath m).arrived = b.arrived := rfl
@[simp] theorem advancePath_arrGen (b : Bough) (m : Mask) : (b.advancePath m).arrGen = b.arrGen := rfl
@[simp] theorem advancePath_lastArr (b : Bough) (m : Mask) : (b.advancePath m).lastArr = b.lastArr := rfl
@[simp] theorem advancePath_stepdone (b : Bough) (m : Mask) : (b.advancePath m).stepdone = b.stepdone := rfl
@[simp] theorem advancePath_sib (b : Bough) (m : Mask) : (b.advancePath m).sib = b.sib := rfl
@[simp] theorem advancePath_walkRes (b : Bough) (m : Mask) : (b.advancePath m).walkRes = b.walkRes := rfl
@[simp] theorem advancePath_recorded (b : Bough) (m : Mask) : (b.advancePath m).recorded = b.recorded := rfl

/-! setNest -/

@[simp] theorem setNest_uid (b : Bough) (i : Nat) (v : W32) : (b.setNest i v).uid = b.uid := rfl
@[simp] theorem setNest_status (b : Bough) (i : Nat) (v : W32) : (b.setNest i v).status = b.status := rfl
@[simp] theorem setNest_launch (b : Bough) (i : Nat) (v : W32) : (b.setNest i v).launch = b.launch := rfl
@[simp] theorem setNest_cid (b : Bough) (i : Nat) (v : W32) : (b.setNest i v).cid = b.cid := rfl
@[simp] theorem setNest_idx (b : Bough) (i : Nat) (v : W32) : (b.setNest i v).idx = b.idx := rfl
@[simp] theorem setNest_part (b : Bough) (i : Nat) (v : W32) : (b.setNest i v).part = b.part := rfl
@[simp] theorem setNest_core (b : Bough) (i : Nat) (v : W32) : (b.setNest i v).core = b.core := rfl
@[simp] theorem setNest_slot (b : Bough) (i : Nat) (v : W32) : (b.setNest i v).slot = b.slot := rfl
@[simp] theorem setNest_nregs (b : Bough) (i : Nat) (v : W32) : (b.setNest i v).nregs = b.nregs := rfl
@[simp] theorem setNest_regbase (b : Bough) (i : Nat) (v : W32) : (b.setNest i v).regbase = b.regbase := rfl
@[simp] theorem setNest_pc (b : Bough) (i : Nat) (v : W32) : (b.setNest i v).pc = b.pc := rfl
@[simp] theorem setNest_emr (b : Bough) (i : Nat) (v : W32) : (b.setNest i v).emr = b.emr := rfl
@[simp] theorem setNest_idle (b : Bough) (i : Nat) (v : W32) : (b.setNest i v).idle = b.idle := rfl
@[simp] theorem setNest_live (b : Bough) (i : Nat) (v : W32) : (b.setNest i v).live = b.live := rfl
@[simp] theorem setNest_ready (b : Bough) (i : Nat) (v : W32) : (b.setNest i v).ready = b.ready := rfl
@[simp] theorem setNest_seen (b : Bough) (i : Nat) (v : W32) : (b.setNest i v).seen = b.seen := rfl
@[simp] theorem setNest_stack (b : Bough) (i : Nat) (v : W32) : (b.setNest i v).stack = b.stack := rfl
@[simp] theorem setNest_nf (b : Bough) (i : Nat) (v : W32) : (b.setNest i v).nf = b.nf := rfl
@[simp] theorem setNest_fmt (b : Bough) (i : Nat) (v : W32) : (b.setNest i v).fmt = b.fmt := rfl
@[simp] theorem setNest_vregs (b : Bough) (i : Nat) (v : W32) : (b.setNest i v).vregs = b.vregs := rfl
@[simp] theorem setNest_preds (b : Bough) (i : Nat) (v : W32) : (b.setNest i v).preds = b.preds := rfl
@[simp] theorem setNest_sregs (b : Bough) (i : Nat) (v : W32) : (b.setNest i v).sregs = b.sregs := rfl
@[simp] theorem setNest_flags (b : Bough) (i : Nat) (v : W32) : (b.setNest i v).flags = b.flags := rfl
@[simp] theorem setNest_wh (b : Bough) (i : Nat) (v : W32) : (b.setNest i v).wh = b.wh := rfl
@[simp] theorem setNest_fw (b : Bough) (i : Nat) (v : W32) : (b.setNest i v).fw = b.fw := rfl
@[simp] theorem setNest_coef (b : Bough) (i : Nat) (v : W32) : (b.setNest i v).coef = b.coef := rfl
@[simp] theorem setNest_rep (b : Bough) (i : Nat) (v : W32) : (b.setNest i v).rep = b.rep := rfl
@[simp] theorem setNest_replaying (b : Bough) (i : Nat) (v : W32) : (b.setNest i v).replaying = b.replaying := rfl
@[simp] theorem setNest_rtok (b : Bough) (i : Nat) (v : W32) : (b.setNest i v).rtok = b.rtok := rfl
@[simp] theorem setNest_itok (b : Bough) (i : Nat) (v : W32) : (b.setNest i v).itok = b.itok := rfl
@[simp] theorem setNest_tgroups (b : Bough) (i : Nat) (v : W32) : (b.setNest i v).tgroups = b.tgroups := rfl
@[simp] theorem setNest_setpri (b : Bough) (i : Nat) (v : W32) : (b.setNest i v).setpri = b.setpri := rfl
@[simp] theorem setNest_line (b : Bough) (i : Nat) (v : W32) : (b.setNest i v).line = b.line := rfl
@[simp] theorem setNest_entered (b : Bough) (i : Nat) (v : W32) : (b.setNest i v).entered = b.entered := rfl
@[simp] theorem setNest_checkTM (b : Bough) (i : Nat) (v : W32) : (b.setNest i v).checkTM = b.checkTM := rfl
@[simp] theorem setNest_tmDue (b : Bough) (i : Nat) (v : W32) : (b.setNest i v).tmDue = b.tmDue := rfl
@[simp] theorem setNest_wait (b : Bough) (i : Nat) (v : W32) : (b.setNest i v).wait = b.wait := rfl
@[simp] theorem setNest_waitSince (b : Bough) (i : Nat) (v : W32) : (b.setNest i v).waitSince = b.waitSince := rfl
@[simp] theorem setNest_trapAt (b : Bough) (i : Nat) (v : W32) : (b.setNest i v).trapAt = b.trapAt := rfl
@[simp] theorem setNest_refill (b : Bough) (i : Nat) (v : W32) : (b.setNest i v).refill = b.refill := rfl
@[simp] theorem setNest_rjoined (b : Bough) (i : Nat) (v : W32) : (b.setNest i v).rjoined = b.rjoined := rfl
@[simp] theorem setNest_frames (b : Bough) (i : Nat) (v : W32) : (b.setNest i v).frames = b.frames := rfl
@[simp] theorem setNest_taskOf (b : Bough) (i : Nat) (v : W32) : (b.setNest i v).taskOf = b.taskOf := rfl
@[simp] theorem setNest_tstat (b : Bough) (i : Nat) (v : W32) : (b.setNest i v).tstat = b.tstat := rfl
@[simp] theorem setNest_nestmax (b : Bough) (i : Nat) (v : W32) : (b.setNest i v).nestmax = b.nestmax := rfl
@[simp] theorem setNest_lcb (b : Bough) (i : Nat) (v : W32) : (b.setNest i v).lcb = b.lcb := rfl
@[simp] theorem setNest_lcseed (b : Bough) (i : Nat) (v : W32) : (b.setNest i v).lcseed = b.lcseed := rfl
@[simp] theorem setNest_bankcnt (b : Bough) (i : Nat) (v : W32) : (b.setNest i v).bankcnt = b.bankcnt := rfl
@[simp] theorem setNest_utag (b : Bough) (i : Nat) (v : W32) : (b.setNest i v).utag = b.utag := rfl
@[simp] theorem setNest_epc (b : Bough) (i : Nat) (v : W32) : (b.setNest i v).epc = b.epc := rfl
@[simp] theorem setNest_emask (b : Bough) (i : Nat) (v : W32) : (b.setNest i v).emask = b.emask := rfl
@[simp] theorem setNest_ecause (b : Bough) (i : Nat) (v : W32) : (b.setNest i v).ecause = b.ecause := rfl
@[simp] theorem setNest_eaddr (b : Bough) (i : Nat) (v : W32) : (b.setNest i v).eaddr = b.eaddr := rfl
@[simp] theorem setNest_esavea (b : Bough) (i : Nat) (v : W32) : (b.setNest i v).esavea = b.esavea := rfl
@[simp] theorem setNest_esaveb (b : Bough) (i : Nat) (v : W32) : (b.setNest i v).esaveb = b.esaveb := rfl
@[simp] theorem setNest_sysmode (b : Bough) (i : Nat) (v : W32) : (b.setNest i v).sysmode = b.sysmode := rfl
@[simp] theorem setNest_arrived (b : Bough) (i : Nat) (v : W32) : (b.setNest i v).arrived = b.arrived := rfl
@[simp] theorem setNest_arrGen (b : Bough) (i : Nat) (v : W32) : (b.setNest i v).arrGen = b.arrGen := rfl
@[simp] theorem setNest_lastArr (b : Bough) (i : Nat) (v : W32) : (b.setNest i v).lastArr = b.lastArr := rfl
@[simp] theorem setNest_stepdone (b : Bough) (i : Nat) (v : W32) : (b.setNest i v).stepdone = b.stepdone := rfl
@[simp] theorem setNest_sib (b : Bough) (i : Nat) (v : W32) : (b.setNest i v).sib = b.sib := rfl
@[simp] theorem setNest_walkRes (b : Bough) (i : Nat) (v : W32) : (b.setNest i v).walkRes = b.walkRes := rfl
@[simp] theorem setNest_recorded (b : Bough) (i : Nat) (v : W32) : (b.setNest i v).recorded = b.recorded := rfl

/-! setInd -/

@[simp] theorem setInd_uid (b : Bough) (k l : Nat) (v : W32) : (b.setInd k l v).uid = b.uid := rfl
@[simp] theorem setInd_status (b : Bough) (k l : Nat) (v : W32) : (b.setInd k l v).status = b.status := rfl
@[simp] theorem setInd_launch (b : Bough) (k l : Nat) (v : W32) : (b.setInd k l v).launch = b.launch := rfl
@[simp] theorem setInd_cid (b : Bough) (k l : Nat) (v : W32) : (b.setInd k l v).cid = b.cid := rfl
@[simp] theorem setInd_idx (b : Bough) (k l : Nat) (v : W32) : (b.setInd k l v).idx = b.idx := rfl
@[simp] theorem setInd_part (b : Bough) (k l : Nat) (v : W32) : (b.setInd k l v).part = b.part := rfl
@[simp] theorem setInd_core (b : Bough) (k l : Nat) (v : W32) : (b.setInd k l v).core = b.core := rfl
@[simp] theorem setInd_slot (b : Bough) (k l : Nat) (v : W32) : (b.setInd k l v).slot = b.slot := rfl
@[simp] theorem setInd_nregs (b : Bough) (k l : Nat) (v : W32) : (b.setInd k l v).nregs = b.nregs := rfl
@[simp] theorem setInd_regbase (b : Bough) (k l : Nat) (v : W32) : (b.setInd k l v).regbase = b.regbase := rfl
@[simp] theorem setInd_pc (b : Bough) (k l : Nat) (v : W32) : (b.setInd k l v).pc = b.pc := rfl
@[simp] theorem setInd_emr (b : Bough) (k l : Nat) (v : W32) : (b.setInd k l v).emr = b.emr := rfl
@[simp] theorem setInd_idle (b : Bough) (k l : Nat) (v : W32) : (b.setInd k l v).idle = b.idle := rfl
@[simp] theorem setInd_live (b : Bough) (k l : Nat) (v : W32) : (b.setInd k l v).live = b.live := rfl
@[simp] theorem setInd_ready (b : Bough) (k l : Nat) (v : W32) : (b.setInd k l v).ready = b.ready := rfl
@[simp] theorem setInd_seen (b : Bough) (k l : Nat) (v : W32) : (b.setInd k l v).seen = b.seen := rfl
@[simp] theorem setInd_stack (b : Bough) (k l : Nat) (v : W32) : (b.setInd k l v).stack = b.stack := rfl
@[simp] theorem setInd_nf (b : Bough) (k l : Nat) (v : W32) : (b.setInd k l v).nf = b.nf := rfl
@[simp] theorem setInd_fmt (b : Bough) (k l : Nat) (v : W32) : (b.setInd k l v).fmt = b.fmt := rfl
@[simp] theorem setInd_vregs (b : Bough) (k l : Nat) (v : W32) : (b.setInd k l v).vregs = b.vregs := rfl
@[simp] theorem setInd_preds (b : Bough) (k l : Nat) (v : W32) : (b.setInd k l v).preds = b.preds := rfl
@[simp] theorem setInd_sregs (b : Bough) (k l : Nat) (v : W32) : (b.setInd k l v).sregs = b.sregs := rfl
@[simp] theorem setInd_flags (b : Bough) (k l : Nat) (v : W32) : (b.setInd k l v).flags = b.flags := rfl
@[simp] theorem setInd_wh (b : Bough) (k l : Nat) (v : W32) : (b.setInd k l v).wh = b.wh := rfl
@[simp] theorem setInd_fw (b : Bough) (k l : Nat) (v : W32) : (b.setInd k l v).fw = b.fw := rfl
@[simp] theorem setInd_coef (b : Bough) (k l : Nat) (v : W32) : (b.setInd k l v).coef = b.coef := rfl
@[simp] theorem setInd_rep (b : Bough) (k l : Nat) (v : W32) : (b.setInd k l v).rep = b.rep := rfl
@[simp] theorem setInd_replaying (b : Bough) (k l : Nat) (v : W32) : (b.setInd k l v).replaying = b.replaying := rfl
@[simp] theorem setInd_rtok (b : Bough) (k l : Nat) (v : W32) : (b.setInd k l v).rtok = b.rtok := rfl
@[simp] theorem setInd_itok (b : Bough) (k l : Nat) (v : W32) : (b.setInd k l v).itok = b.itok := rfl
@[simp] theorem setInd_tgroups (b : Bough) (k l : Nat) (v : W32) : (b.setInd k l v).tgroups = b.tgroups := rfl
@[simp] theorem setInd_setpri (b : Bough) (k l : Nat) (v : W32) : (b.setInd k l v).setpri = b.setpri := rfl
@[simp] theorem setInd_line (b : Bough) (k l : Nat) (v : W32) : (b.setInd k l v).line = b.line := rfl
@[simp] theorem setInd_entered (b : Bough) (k l : Nat) (v : W32) : (b.setInd k l v).entered = b.entered := rfl
@[simp] theorem setInd_checkTM (b : Bough) (k l : Nat) (v : W32) : (b.setInd k l v).checkTM = b.checkTM := rfl
@[simp] theorem setInd_tmDue (b : Bough) (k l : Nat) (v : W32) : (b.setInd k l v).tmDue = b.tmDue := rfl
@[simp] theorem setInd_wait (b : Bough) (k l : Nat) (v : W32) : (b.setInd k l v).wait = b.wait := rfl
@[simp] theorem setInd_waitSince (b : Bough) (k l : Nat) (v : W32) : (b.setInd k l v).waitSince = b.waitSince := rfl
@[simp] theorem setInd_trapAt (b : Bough) (k l : Nat) (v : W32) : (b.setInd k l v).trapAt = b.trapAt := rfl
@[simp] theorem setInd_refill (b : Bough) (k l : Nat) (v : W32) : (b.setInd k l v).refill = b.refill := rfl
@[simp] theorem setInd_rjoined (b : Bough) (k l : Nat) (v : W32) : (b.setInd k l v).rjoined = b.rjoined := rfl
@[simp] theorem setInd_frames (b : Bough) (k l : Nat) (v : W32) : (b.setInd k l v).frames = b.frames := rfl
@[simp] theorem setInd_taskOf (b : Bough) (k l : Nat) (v : W32) : (b.setInd k l v).taskOf = b.taskOf := rfl
@[simp] theorem setInd_tstat (b : Bough) (k l : Nat) (v : W32) : (b.setInd k l v).tstat = b.tstat := rfl
@[simp] theorem setInd_nestmax (b : Bough) (k l : Nat) (v : W32) : (b.setInd k l v).nestmax = b.nestmax := rfl
@[simp] theorem setInd_lcb (b : Bough) (k l : Nat) (v : W32) : (b.setInd k l v).lcb = b.lcb := rfl
@[simp] theorem setInd_lcseed (b : Bough) (k l : Nat) (v : W32) : (b.setInd k l v).lcseed = b.lcseed := rfl
@[simp] theorem setInd_bankcnt (b : Bough) (k l : Nat) (v : W32) : (b.setInd k l v).bankcnt = b.bankcnt := rfl
@[simp] theorem setInd_utag (b : Bough) (k l : Nat) (v : W32) : (b.setInd k l v).utag = b.utag := rfl
@[simp] theorem setInd_epc (b : Bough) (k l : Nat) (v : W32) : (b.setInd k l v).epc = b.epc := rfl
@[simp] theorem setInd_emask (b : Bough) (k l : Nat) (v : W32) : (b.setInd k l v).emask = b.emask := rfl
@[simp] theorem setInd_ecause (b : Bough) (k l : Nat) (v : W32) : (b.setInd k l v).ecause = b.ecause := rfl
@[simp] theorem setInd_eaddr (b : Bough) (k l : Nat) (v : W32) : (b.setInd k l v).eaddr = b.eaddr := rfl
@[simp] theorem setInd_esavea (b : Bough) (k l : Nat) (v : W32) : (b.setInd k l v).esavea = b.esavea := rfl
@[simp] theorem setInd_esaveb (b : Bough) (k l : Nat) (v : W32) : (b.setInd k l v).esaveb = b.esaveb := rfl
@[simp] theorem setInd_sysmode (b : Bough) (k l : Nat) (v : W32) : (b.setInd k l v).sysmode = b.sysmode := rfl
@[simp] theorem setInd_arrived (b : Bough) (k l : Nat) (v : W32) : (b.setInd k l v).arrived = b.arrived := rfl
@[simp] theorem setInd_arrGen (b : Bough) (k l : Nat) (v : W32) : (b.setInd k l v).arrGen = b.arrGen := rfl
@[simp] theorem setInd_lastArr (b : Bough) (k l : Nat) (v : W32) : (b.setInd k l v).lastArr = b.lastArr := rfl
@[simp] theorem setInd_stepdone (b : Bough) (k l : Nat) (v : W32) : (b.setInd k l v).stepdone = b.stepdone := rfl
@[simp] theorem setInd_sib (b : Bough) (k l : Nat) (v : W32) : (b.setInd k l v).sib = b.sib := rfl
@[simp] theorem setInd_walkRes (b : Bough) (k l : Nat) (v : W32) : (b.setInd k l v).walkRes = b.walkRes := rfl
@[simp] theorem setInd_recorded (b : Bough) (k l : Nat) (v : W32) : (b.setInd k l v).recorded = b.recorded := rfl

/-! setCoef -/

@[simp] theorem setCoef_uid (b : Bough) (c j : Nat) (v : W64) : (b.setCoef c j v).uid = b.uid := rfl
@[simp] theorem setCoef_status (b : Bough) (c j : Nat) (v : W64) : (b.setCoef c j v).status = b.status := rfl
@[simp] theorem setCoef_launch (b : Bough) (c j : Nat) (v : W64) : (b.setCoef c j v).launch = b.launch := rfl
@[simp] theorem setCoef_cid (b : Bough) (c j : Nat) (v : W64) : (b.setCoef c j v).cid = b.cid := rfl
@[simp] theorem setCoef_idx (b : Bough) (c j : Nat) (v : W64) : (b.setCoef c j v).idx = b.idx := rfl
@[simp] theorem setCoef_part (b : Bough) (c j : Nat) (v : W64) : (b.setCoef c j v).part = b.part := rfl
@[simp] theorem setCoef_core (b : Bough) (c j : Nat) (v : W64) : (b.setCoef c j v).core = b.core := rfl
@[simp] theorem setCoef_slot (b : Bough) (c j : Nat) (v : W64) : (b.setCoef c j v).slot = b.slot := rfl
@[simp] theorem setCoef_nregs (b : Bough) (c j : Nat) (v : W64) : (b.setCoef c j v).nregs = b.nregs := rfl
@[simp] theorem setCoef_regbase (b : Bough) (c j : Nat) (v : W64) : (b.setCoef c j v).regbase = b.regbase := rfl
@[simp] theorem setCoef_pc (b : Bough) (c j : Nat) (v : W64) : (b.setCoef c j v).pc = b.pc := rfl
@[simp] theorem setCoef_emr (b : Bough) (c j : Nat) (v : W64) : (b.setCoef c j v).emr = b.emr := rfl
@[simp] theorem setCoef_idle (b : Bough) (c j : Nat) (v : W64) : (b.setCoef c j v).idle = b.idle := rfl
@[simp] theorem setCoef_live (b : Bough) (c j : Nat) (v : W64) : (b.setCoef c j v).live = b.live := rfl
@[simp] theorem setCoef_ready (b : Bough) (c j : Nat) (v : W64) : (b.setCoef c j v).ready = b.ready := rfl
@[simp] theorem setCoef_seen (b : Bough) (c j : Nat) (v : W64) : (b.setCoef c j v).seen = b.seen := rfl
@[simp] theorem setCoef_stack (b : Bough) (c j : Nat) (v : W64) : (b.setCoef c j v).stack = b.stack := rfl
@[simp] theorem setCoef_nf (b : Bough) (c j : Nat) (v : W64) : (b.setCoef c j v).nf = b.nf := rfl
@[simp] theorem setCoef_fmt (b : Bough) (c j : Nat) (v : W64) : (b.setCoef c j v).fmt = b.fmt := rfl
@[simp] theorem setCoef_vregs (b : Bough) (c j : Nat) (v : W64) : (b.setCoef c j v).vregs = b.vregs := rfl
@[simp] theorem setCoef_preds (b : Bough) (c j : Nat) (v : W64) : (b.setCoef c j v).preds = b.preds := rfl
@[simp] theorem setCoef_sregs (b : Bough) (c j : Nat) (v : W64) : (b.setCoef c j v).sregs = b.sregs := rfl
@[simp] theorem setCoef_flags (b : Bough) (c j : Nat) (v : W64) : (b.setCoef c j v).flags = b.flags := rfl
@[simp] theorem setCoef_wh (b : Bough) (c j : Nat) (v : W64) : (b.setCoef c j v).wh = b.wh := rfl
@[simp] theorem setCoef_fw (b : Bough) (c j : Nat) (v : W64) : (b.setCoef c j v).fw = b.fw := rfl
@[simp] theorem setCoef_nest (b : Bough) (c j : Nat) (v : W64) : (b.setCoef c j v).nest = b.nest := rfl
@[simp] theorem setCoef_rep (b : Bough) (c j : Nat) (v : W64) : (b.setCoef c j v).rep = b.rep := rfl
@[simp] theorem setCoef_replaying (b : Bough) (c j : Nat) (v : W64) : (b.setCoef c j v).replaying = b.replaying := rfl
@[simp] theorem setCoef_rtok (b : Bough) (c j : Nat) (v : W64) : (b.setCoef c j v).rtok = b.rtok := rfl
@[simp] theorem setCoef_itok (b : Bough) (c j : Nat) (v : W64) : (b.setCoef c j v).itok = b.itok := rfl
@[simp] theorem setCoef_tgroups (b : Bough) (c j : Nat) (v : W64) : (b.setCoef c j v).tgroups = b.tgroups := rfl
@[simp] theorem setCoef_setpri (b : Bough) (c j : Nat) (v : W64) : (b.setCoef c j v).setpri = b.setpri := rfl
@[simp] theorem setCoef_line (b : Bough) (c j : Nat) (v : W64) : (b.setCoef c j v).line = b.line := rfl
@[simp] theorem setCoef_entered (b : Bough) (c j : Nat) (v : W64) : (b.setCoef c j v).entered = b.entered := rfl
@[simp] theorem setCoef_checkTM (b : Bough) (c j : Nat) (v : W64) : (b.setCoef c j v).checkTM = b.checkTM := rfl
@[simp] theorem setCoef_tmDue (b : Bough) (c j : Nat) (v : W64) : (b.setCoef c j v).tmDue = b.tmDue := rfl
@[simp] theorem setCoef_wait (b : Bough) (c j : Nat) (v : W64) : (b.setCoef c j v).wait = b.wait := rfl
@[simp] theorem setCoef_waitSince (b : Bough) (c j : Nat) (v : W64) : (b.setCoef c j v).waitSince = b.waitSince := rfl
@[simp] theorem setCoef_trapAt (b : Bough) (c j : Nat) (v : W64) : (b.setCoef c j v).trapAt = b.trapAt := rfl
@[simp] theorem setCoef_refill (b : Bough) (c j : Nat) (v : W64) : (b.setCoef c j v).refill = b.refill := rfl
@[simp] theorem setCoef_rjoined (b : Bough) (c j : Nat) (v : W64) : (b.setCoef c j v).rjoined = b.rjoined := rfl
@[simp] theorem setCoef_frames (b : Bough) (c j : Nat) (v : W64) : (b.setCoef c j v).frames = b.frames := rfl
@[simp] theorem setCoef_taskOf (b : Bough) (c j : Nat) (v : W64) : (b.setCoef c j v).taskOf = b.taskOf := rfl
@[simp] theorem setCoef_tstat (b : Bough) (c j : Nat) (v : W64) : (b.setCoef c j v).tstat = b.tstat := rfl
@[simp] theorem setCoef_nestmax (b : Bough) (c j : Nat) (v : W64) : (b.setCoef c j v).nestmax = b.nestmax := rfl
@[simp] theorem setCoef_lcb (b : Bough) (c j : Nat) (v : W64) : (b.setCoef c j v).lcb = b.lcb := rfl
@[simp] theorem setCoef_lcseed (b : Bough) (c j : Nat) (v : W64) : (b.setCoef c j v).lcseed = b.lcseed := rfl
@[simp] theorem setCoef_bankcnt (b : Bough) (c j : Nat) (v : W64) : (b.setCoef c j v).bankcnt = b.bankcnt := rfl
@[simp] theorem setCoef_utag (b : Bough) (c j : Nat) (v : W64) : (b.setCoef c j v).utag = b.utag := rfl
@[simp] theorem setCoef_epc (b : Bough) (c j : Nat) (v : W64) : (b.setCoef c j v).epc = b.epc := rfl
@[simp] theorem setCoef_emask (b : Bough) (c j : Nat) (v : W64) : (b.setCoef c j v).emask = b.emask := rfl
@[simp] theorem setCoef_ecause (b : Bough) (c j : Nat) (v : W64) : (b.setCoef c j v).ecause = b.ecause := rfl
@[simp] theorem setCoef_eaddr (b : Bough) (c j : Nat) (v : W64) : (b.setCoef c j v).eaddr = b.eaddr := rfl
@[simp] theorem setCoef_esavea (b : Bough) (c j : Nat) (v : W64) : (b.setCoef c j v).esavea = b.esavea := rfl
@[simp] theorem setCoef_esaveb (b : Bough) (c j : Nat) (v : W64) : (b.setCoef c j v).esaveb = b.esaveb := rfl
@[simp] theorem setCoef_sysmode (b : Bough) (c j : Nat) (v : W64) : (b.setCoef c j v).sysmode = b.sysmode := rfl
@[simp] theorem setCoef_arrived (b : Bough) (c j : Nat) (v : W64) : (b.setCoef c j v).arrived = b.arrived := rfl
@[simp] theorem setCoef_arrGen (b : Bough) (c j : Nat) (v : W64) : (b.setCoef c j v).arrGen = b.arrGen := rfl
@[simp] theorem setCoef_lastArr (b : Bough) (c j : Nat) (v : W64) : (b.setCoef c j v).lastArr = b.lastArr := rfl
@[simp] theorem setCoef_stepdone (b : Bough) (c j : Nat) (v : W64) : (b.setCoef c j v).stepdone = b.stepdone := rfl
@[simp] theorem setCoef_sib (b : Bough) (c j : Nat) (v : W64) : (b.setCoef c j v).sib = b.sib := rfl
@[simp] theorem setCoef_walkRes (b : Bough) (c j : Nat) (v : W64) : (b.setCoef c j v).walkRes = b.walkRes := rfl
@[simp] theorem setCoef_recorded (b : Bough) (c j : Nat) (v : W64) : (b.setCoef c j v).recorded = b.recorded := rfl

/-! markBody -/

@[simp] theorem markBody_uid (b : Bough) (r : Option Region) : (b.markBody r).uid = b.uid := by
  unfold Bough.markBody; split
  · dsimp only; split <;> rfl
  · rfl
@[simp] theorem markBody_status (b : Bough) (r : Option Region) : (b.markBody r).status = b.status := by
  unfold Bough.markBody; split
  · dsimp only; split <;> rfl
  · rfl
@[simp] theorem markBody_launch (b : Bough) (r : Option Region) : (b.markBody r).launch = b.launch := by
  unfold Bough.markBody; split
  · dsimp only; split <;> rfl
  · rfl
@[simp] theorem markBody_cid (b : Bough) (r : Option Region) : (b.markBody r).cid = b.cid := by
  unfold Bough.markBody; split
  · dsimp only; split <;> rfl
  · rfl
@[simp] theorem markBody_idx (b : Bough) (r : Option Region) : (b.markBody r).idx = b.idx := by
  unfold Bough.markBody; split
  · dsimp only; split <;> rfl
  · rfl
@[simp] theorem markBody_part (b : Bough) (r : Option Region) : (b.markBody r).part = b.part := by
  unfold Bough.markBody; split
  · dsimp only; split <;> rfl
  · rfl
@[simp] theorem markBody_core (b : Bough) (r : Option Region) : (b.markBody r).core = b.core := by
  unfold Bough.markBody; split
  · dsimp only; split <;> rfl
  · rfl
@[simp] theorem markBody_slot (b : Bough) (r : Option Region) : (b.markBody r).slot = b.slot := by
  unfold Bough.markBody; split
  · dsimp only; split <;> rfl
  · rfl
@[simp] theorem markBody_nregs (b : Bough) (r : Option Region) : (b.markBody r).nregs = b.nregs := by
  unfold Bough.markBody; split
  · dsimp only; split <;> rfl
  · rfl
@[simp] theorem markBody_regbase (b : Bough) (r : Option Region) : (b.markBody r).regbase = b.regbase := by
  unfold Bough.markBody; split
  · dsimp only; split <;> rfl
  · rfl
@[simp] theorem markBody_pc (b : Bough) (r : Option Region) : (b.markBody r).pc = b.pc := by
  unfold Bough.markBody; split
  · dsimp only; split <;> rfl
  · rfl
@[simp] theorem markBody_emr (b : Bough) (r : Option Region) : (b.markBody r).emr = b.emr := by
  unfold Bough.markBody; split
  · dsimp only; split <;> rfl
  · rfl
@[simp] theorem markBody_idle (b : Bough) (r : Option Region) : (b.markBody r).idle = b.idle := by
  unfold Bough.markBody; split
  · dsimp only; split <;> rfl
  · rfl
@[simp] theorem markBody_live (b : Bough) (r : Option Region) : (b.markBody r).live = b.live := by
  unfold Bough.markBody; split
  · dsimp only; split <;> rfl
  · rfl
@[simp] theorem markBody_ready (b : Bough) (r : Option Region) : (b.markBody r).ready = b.ready := by
  unfold Bough.markBody; split
  · dsimp only; split <;> rfl
  · rfl
@[simp] theorem markBody_seen (b : Bough) (r : Option Region) : (b.markBody r).seen = b.seen := by
  unfold Bough.markBody; split
  · dsimp only; split <;> rfl
  · rfl
@[simp] theorem markBody_stack (b : Bough) (r : Option Region) : (b.markBody r).stack = b.stack := by
  unfold Bough.markBody; split
  · dsimp only; split <;> rfl
  · rfl
@[simp] theorem markBody_nf (b : Bough) (r : Option Region) : (b.markBody r).nf = b.nf := by
  unfold Bough.markBody; split
  · dsimp only; split <;> rfl
  · rfl
@[simp] theorem markBody_fmt (b : Bough) (r : Option Region) : (b.markBody r).fmt = b.fmt := by
  unfold Bough.markBody; split
  · dsimp only; split <;> rfl
  · rfl
@[simp] theorem markBody_vregs (b : Bough) (r : Option Region) : (b.markBody r).vregs = b.vregs := by
  unfold Bough.markBody; split
  · dsimp only; split <;> rfl
  · rfl
@[simp] theorem markBody_preds (b : Bough) (r : Option Region) : (b.markBody r).preds = b.preds := by
  unfold Bough.markBody; split
  · dsimp only; split <;> rfl
  · rfl
@[simp] theorem markBody_sregs (b : Bough) (r : Option Region) : (b.markBody r).sregs = b.sregs := by
  unfold Bough.markBody; split
  · dsimp only; split <;> rfl
  · rfl
@[simp] theorem markBody_flags (b : Bough) (r : Option Region) : (b.markBody r).flags = b.flags := by
  unfold Bough.markBody; split
  · dsimp only; split <;> rfl
  · rfl
@[simp] theorem markBody_wh (b : Bough) (r : Option Region) : (b.markBody r).wh = b.wh := by
  unfold Bough.markBody; split
  · dsimp only; split <;> rfl
  · rfl
@[simp] theorem markBody_fw (b : Bough) (r : Option Region) : (b.markBody r).fw = b.fw := by
  unfold Bough.markBody; split
  · dsimp only; split <;> rfl
  · rfl
@[simp] theorem markBody_nest (b : Bough) (r : Option Region) : (b.markBody r).nest = b.nest := by
  unfold Bough.markBody; split
  · dsimp only; split <;> rfl
  · rfl
@[simp] theorem markBody_coef (b : Bough) (r : Option Region) : (b.markBody r).coef = b.coef := by
  unfold Bough.markBody; split
  · dsimp only; split <;> rfl
  · rfl
@[simp] theorem markBody_rep (b : Bough) (r : Option Region) : (b.markBody r).rep = b.rep := by
  unfold Bough.markBody; split
  · dsimp only; split <;> rfl
  · rfl
@[simp] theorem markBody_replaying (b : Bough) (r : Option Region) : (b.markBody r).replaying = b.replaying := by
  unfold Bough.markBody; split
  · dsimp only; split <;> rfl
  · rfl
@[simp] theorem markBody_rtok (b : Bough) (r : Option Region) : (b.markBody r).rtok = b.rtok := by
  unfold Bough.markBody; split
  · dsimp only; split <;> rfl
  · rfl
@[simp] theorem markBody_itok (b : Bough) (r : Option Region) : (b.markBody r).itok = b.itok := by
  unfold Bough.markBody; split
  · dsimp only; split <;> rfl
  · rfl
@[simp] theorem markBody_tgroups (b : Bough) (r : Option Region) : (b.markBody r).tgroups = b.tgroups := by
  unfold Bough.markBody; split
  · dsimp only; split <;> rfl
  · rfl
@[simp] theorem markBody_setpri (b : Bough) (r : Option Region) : (b.markBody r).setpri = b.setpri := by
  unfold Bough.markBody; split
  · dsimp only; split <;> rfl
  · rfl
@[simp] theorem markBody_line (b : Bough) (r : Option Region) : (b.markBody r).line = b.line := by
  unfold Bough.markBody; split
  · dsimp only; split <;> rfl
  · rfl
@[simp] theorem markBody_entered (b : Bough) (r : Option Region) : (b.markBody r).entered = b.entered := by
  unfold Bough.markBody; split
  · dsimp only; split <;> rfl
  · rfl
@[simp] theorem markBody_checkTM (b : Bough) (r : Option Region) : (b.markBody r).checkTM = b.checkTM := by
  unfold Bough.markBody; split
  · dsimp only; split <;> rfl
  · rfl
@[simp] theorem markBody_tmDue (b : Bough) (r : Option Region) : (b.markBody r).tmDue = b.tmDue := by
  unfold Bough.markBody; split
  · dsimp only; split <;> rfl
  · rfl
@[simp] theorem markBody_wait (b : Bough) (r : Option Region) : (b.markBody r).wait = b.wait := by
  unfold Bough.markBody; split
  · dsimp only; split <;> rfl
  · rfl
@[simp] theorem markBody_waitSince (b : Bough) (r : Option Region) : (b.markBody r).waitSince = b.waitSince := by
  unfold Bough.markBody; split
  · dsimp only; split <;> rfl
  · rfl
@[simp] theorem markBody_trapAt (b : Bough) (r : Option Region) : (b.markBody r).trapAt = b.trapAt := by
  unfold Bough.markBody; split
  · dsimp only; split <;> rfl
  · rfl
@[simp] theorem markBody_rjoined (b : Bough) (r : Option Region) : (b.markBody r).rjoined = b.rjoined := by
  unfold Bough.markBody; split
  · dsimp only; split <;> rfl
  · rfl
@[simp] theorem markBody_frames (b : Bough) (r : Option Region) : (b.markBody r).frames = b.frames := by
  unfold Bough.markBody; split
  · dsimp only; split <;> rfl
  · rfl
@[simp] theorem markBody_taskOf (b : Bough) (r : Option Region) : (b.markBody r).taskOf = b.taskOf := by
  unfold Bough.markBody; split
  · dsimp only; split <;> rfl
  · rfl
@[simp] theorem markBody_tstat (b : Bough) (r : Option Region) : (b.markBody r).tstat = b.tstat := by
  unfold Bough.markBody; split
  · dsimp only; split <;> rfl
  · rfl
@[simp] theorem markBody_nestmax (b : Bough) (r : Option Region) : (b.markBody r).nestmax = b.nestmax := by
  unfold Bough.markBody; split
  · dsimp only; split <;> rfl
  · rfl
@[simp] theorem markBody_lcb (b : Bough) (r : Option Region) : (b.markBody r).lcb = b.lcb := by
  unfold Bough.markBody; split
  · dsimp only; split <;> rfl
  · rfl
@[simp] theorem markBody_lcseed (b : Bough) (r : Option Region) : (b.markBody r).lcseed = b.lcseed := by
  unfold Bough.markBody; split
  · dsimp only; split <;> rfl
  · rfl
@[simp] theorem markBody_bankcnt (b : Bough) (r : Option Region) : (b.markBody r).bankcnt = b.bankcnt := by
  unfold Bough.markBody; split
  · dsimp only; split <;> rfl
  · rfl
@[simp] theorem markBody_utag (b : Bough) (r : Option Region) : (b.markBody r).utag = b.utag := by
  unfold Bough.markBody; split
  · dsimp only; split <;> rfl
  · rfl
@[simp] theorem markBody_epc (b : Bough) (r : Option Region) : (b.markBody r).epc = b.epc := by
  unfold Bough.markBody; split
  · dsimp only; split <;> rfl
  · rfl
@[simp] theorem markBody_emask (b : Bough) (r : Option Region) : (b.markBody r).emask = b.emask := by
  unfold Bough.markBody; split
  · dsimp only; split <;> rfl
  · rfl
@[simp] theorem markBody_ecause (b : Bough) (r : Option Region) : (b.markBody r).ecause = b.ecause := by
  unfold Bough.markBody; split
  · dsimp only; split <;> rfl
  · rfl
@[simp] theorem markBody_eaddr (b : Bough) (r : Option Region) : (b.markBody r).eaddr = b.eaddr := by
  unfold Bough.markBody; split
  · dsimp only; split <;> rfl
  · rfl
@[simp] theorem markBody_esavea (b : Bough) (r : Option Region) : (b.markBody r).esavea = b.esavea := by
  unfold Bough.markBody; split
  · dsimp only; split <;> rfl
  · rfl
@[simp] theorem markBody_esaveb (b : Bough) (r : Option Region) : (b.markBody r).esaveb = b.esaveb := by
  unfold Bough.markBody; split
  · dsimp only; split <;> rfl
  · rfl
@[simp] theorem markBody_sysmode (b : Bough) (r : Option Region) : (b.markBody r).sysmode = b.sysmode := by
  unfold Bough.markBody; split
  · dsimp only; split <;> rfl
  · rfl
@[simp] theorem markBody_arrived (b : Bough) (r : Option Region) : (b.markBody r).arrived = b.arrived := by
  unfold Bough.markBody; split
  · dsimp only; split <;> rfl
  · rfl
@[simp] theorem markBody_arrGen (b : Bough) (r : Option Region) : (b.markBody r).arrGen = b.arrGen := by
  unfold Bough.markBody; split
  · dsimp only; split <;> rfl
  · rfl
@[simp] theorem markBody_lastArr (b : Bough) (r : Option Region) : (b.markBody r).lastArr = b.lastArr := by
  unfold Bough.markBody; split
  · dsimp only; split <;> rfl
  · rfl
@[simp] theorem markBody_stepdone (b : Bough) (r : Option Region) : (b.markBody r).stepdone = b.stepdone := by
  unfold Bough.markBody; split
  · dsimp only; split <;> rfl
  · rfl
@[simp] theorem markBody_sib (b : Bough) (r : Option Region) : (b.markBody r).sib = b.sib := by
  unfold Bough.markBody; split
  · dsimp only; split <;> rfl
  · rfl
@[simp] theorem markBody_walkRes (b : Bough) (r : Option Region) : (b.markBody r).walkRes = b.walkRes := by
  unfold Bough.markBody; split
  · dsimp only; split <;> rfl
  · rfl
@[simp] theorem markBody_recorded (b : Bough) (r : Option Region) : (b.markBody r).recorded = b.recorded := by
  unfold Bough.markBody; split
  · dsimp only; split <;> rfl
  · rfl

/-! advancePc -/

@[simp] theorem advancePc_uid (b : Bough) (p : Bool) : (b.advancePc p).uid = b.uid := by
  unfold Bough.advancePc; split
  · split <;> rfl
  · rfl
@[simp] theorem advancePc_status (b : Bough) (p : Bool) : (b.advancePc p).status = b.status := by
  unfold Bough.advancePc; split
  · split <;> rfl
  · rfl
@[simp] theorem advancePc_launch (b : Bough) (p : Bool) : (b.advancePc p).launch = b.launch := by
  unfold Bough.advancePc; split
  · split <;> rfl
  · rfl
@[simp] theorem advancePc_cid (b : Bough) (p : Bool) : (b.advancePc p).cid = b.cid := by
  unfold Bough.advancePc; split
  · split <;> rfl
  · rfl
@[simp] theorem advancePc_idx (b : Bough) (p : Bool) : (b.advancePc p).idx = b.idx := by
  unfold Bough.advancePc; split
  · split <;> rfl
  · rfl
@[simp] theorem advancePc_part (b : Bough) (p : Bool) : (b.advancePc p).part = b.part := by
  unfold Bough.advancePc; split
  · split <;> rfl
  · rfl
@[simp] theorem advancePc_core (b : Bough) (p : Bool) : (b.advancePc p).core = b.core := by
  unfold Bough.advancePc; split
  · split <;> rfl
  · rfl
@[simp] theorem advancePc_slot (b : Bough) (p : Bool) : (b.advancePc p).slot = b.slot := by
  unfold Bough.advancePc; split
  · split <;> rfl
  · rfl
@[simp] theorem advancePc_nregs (b : Bough) (p : Bool) : (b.advancePc p).nregs = b.nregs := by
  unfold Bough.advancePc; split
  · split <;> rfl
  · rfl
@[simp] theorem advancePc_regbase (b : Bough) (p : Bool) : (b.advancePc p).regbase = b.regbase := by
  unfold Bough.advancePc; split
  · split <;> rfl
  · rfl
@[simp] theorem advancePc_emr (b : Bough) (p : Bool) : (b.advancePc p).emr = b.emr := by
  unfold Bough.advancePc; split
  · split <;> rfl
  · rfl
@[simp] theorem advancePc_idle (b : Bough) (p : Bool) : (b.advancePc p).idle = b.idle := by
  unfold Bough.advancePc; split
  · split <;> rfl
  · rfl
@[simp] theorem advancePc_live (b : Bough) (p : Bool) : (b.advancePc p).live = b.live := by
  unfold Bough.advancePc; split
  · split <;> rfl
  · rfl
@[simp] theorem advancePc_ready (b : Bough) (p : Bool) : (b.advancePc p).ready = b.ready := by
  unfold Bough.advancePc; split
  · split <;> rfl
  · rfl
@[simp] theorem advancePc_seen (b : Bough) (p : Bool) : (b.advancePc p).seen = b.seen := by
  unfold Bough.advancePc; split
  · split <;> rfl
  · rfl
@[simp] theorem advancePc_stack (b : Bough) (p : Bool) : (b.advancePc p).stack = b.stack := by
  unfold Bough.advancePc; split
  · split <;> rfl
  · rfl
@[simp] theorem advancePc_nf (b : Bough) (p : Bool) : (b.advancePc p).nf = b.nf := by
  unfold Bough.advancePc; split
  · split <;> rfl
  · rfl
@[simp] theorem advancePc_fmt (b : Bough) (p : Bool) : (b.advancePc p).fmt = b.fmt := by
  unfold Bough.advancePc; split
  · split <;> rfl
  · rfl
@[simp] theorem advancePc_vregs (b : Bough) (p : Bool) : (b.advancePc p).vregs = b.vregs := by
  unfold Bough.advancePc; split
  · split <;> rfl
  · rfl
@[simp] theorem advancePc_preds (b : Bough) (p : Bool) : (b.advancePc p).preds = b.preds := by
  unfold Bough.advancePc; split
  · split <;> rfl
  · rfl
@[simp] theorem advancePc_sregs (b : Bough) (p : Bool) : (b.advancePc p).sregs = b.sregs := by
  unfold Bough.advancePc; split
  · split <;> rfl
  · rfl
@[simp] theorem advancePc_flags (b : Bough) (p : Bool) : (b.advancePc p).flags = b.flags := by
  unfold Bough.advancePc; split
  · split <;> rfl
  · rfl
@[simp] theorem advancePc_wh (b : Bough) (p : Bool) : (b.advancePc p).wh = b.wh := by
  unfold Bough.advancePc; split
  · split <;> rfl
  · rfl
@[simp] theorem advancePc_fw (b : Bough) (p : Bool) : (b.advancePc p).fw = b.fw := by
  unfold Bough.advancePc; split
  · split <;> rfl
  · rfl
@[simp] theorem advancePc_nest (b : Bough) (p : Bool) : (b.advancePc p).nest = b.nest := by
  unfold Bough.advancePc; split
  · split <;> rfl
  · rfl
@[simp] theorem advancePc_coef (b : Bough) (p : Bool) : (b.advancePc p).coef = b.coef := by
  unfold Bough.advancePc; split
  · split <;> rfl
  · rfl
@[simp] theorem advancePc_replaying (b : Bough) (p : Bool) : (b.advancePc p).replaying = b.replaying := by
  unfold Bough.advancePc; split
  · split <;> rfl
  · rfl
@[simp] theorem advancePc_rtok (b : Bough) (p : Bool) : (b.advancePc p).rtok = b.rtok := by
  unfold Bough.advancePc; split
  · split <;> rfl
  · rfl
@[simp] theorem advancePc_itok (b : Bough) (p : Bool) : (b.advancePc p).itok = b.itok := by
  unfold Bough.advancePc; split
  · split <;> rfl
  · rfl
@[simp] theorem advancePc_tgroups (b : Bough) (p : Bool) : (b.advancePc p).tgroups = b.tgroups := by
  unfold Bough.advancePc; split
  · split <;> rfl
  · rfl
@[simp] theorem advancePc_setpri (b : Bough) (p : Bool) : (b.advancePc p).setpri = b.setpri := by
  unfold Bough.advancePc; split
  · split <;> rfl
  · rfl
@[simp] theorem advancePc_line (b : Bough) (p : Bool) : (b.advancePc p).line = b.line := by
  unfold Bough.advancePc; split
  · split <;> rfl
  · rfl
@[simp] theorem advancePc_entered (b : Bough) (p : Bool) : (b.advancePc p).entered = b.entered := by
  unfold Bough.advancePc; split
  · split <;> rfl
  · rfl
@[simp] theorem advancePc_checkTM (b : Bough) (p : Bool) : (b.advancePc p).checkTM = b.checkTM := by
  unfold Bough.advancePc; split
  · split <;> rfl
  · rfl
@[simp] theorem advancePc_tmDue (b : Bough) (p : Bool) : (b.advancePc p).tmDue = b.tmDue := by
  unfold Bough.advancePc; split
  · split <;> rfl
  · rfl
@[simp] theorem advancePc_wait (b : Bough) (p : Bool) : (b.advancePc p).wait = b.wait := by
  unfold Bough.advancePc; split
  · split <;> rfl
  · rfl
@[simp] theorem advancePc_waitSince (b : Bough) (p : Bool) : (b.advancePc p).waitSince = b.waitSince := by
  unfold Bough.advancePc; split
  · split <;> rfl
  · rfl
@[simp] theorem advancePc_trapAt (b : Bough) (p : Bool) : (b.advancePc p).trapAt = b.trapAt := by
  unfold Bough.advancePc; split
  · split <;> rfl
  · rfl
@[simp] theorem advancePc_refill (b : Bough) (p : Bool) : (b.advancePc p).refill = b.refill := by
  unfold Bough.advancePc; split
  · split <;> rfl
  · rfl
@[simp] theorem advancePc_rjoined (b : Bough) (p : Bool) : (b.advancePc p).rjoined = b.rjoined := by
  unfold Bough.advancePc; split
  · split <;> rfl
  · rfl
@[simp] theorem advancePc_frames (b : Bough) (p : Bool) : (b.advancePc p).frames = b.frames := by
  unfold Bough.advancePc; split
  · split <;> rfl
  · rfl
@[simp] theorem advancePc_taskOf (b : Bough) (p : Bool) : (b.advancePc p).taskOf = b.taskOf := by
  unfold Bough.advancePc; split
  · split <;> rfl
  · rfl
@[simp] theorem advancePc_tstat (b : Bough) (p : Bool) : (b.advancePc p).tstat = b.tstat := by
  unfold Bough.advancePc; split
  · split <;> rfl
  · rfl
@[simp] theorem advancePc_nestmax (b : Bough) (p : Bool) : (b.advancePc p).nestmax = b.nestmax := by
  unfold Bough.advancePc; split
  · split <;> rfl
  · rfl
@[simp] theorem advancePc_lcb (b : Bough) (p : Bool) : (b.advancePc p).lcb = b.lcb := by
  unfold Bough.advancePc; split
  · split <;> rfl
  · rfl
@[simp] theorem advancePc_lcseed (b : Bough) (p : Bool) : (b.advancePc p).lcseed = b.lcseed := by
  unfold Bough.advancePc; split
  · split <;> rfl
  · rfl
@[simp] theorem advancePc_bankcnt (b : Bough) (p : Bool) : (b.advancePc p).bankcnt = b.bankcnt := by
  unfold Bough.advancePc; split
  · split <;> rfl
  · rfl
@[simp] theorem advancePc_utag (b : Bough) (p : Bool) : (b.advancePc p).utag = b.utag := by
  unfold Bough.advancePc; split
  · split <;> rfl
  · rfl
@[simp] theorem advancePc_epc (b : Bough) (p : Bool) : (b.advancePc p).epc = b.epc := by
  unfold Bough.advancePc; split
  · split <;> rfl
  · rfl
@[simp] theorem advancePc_emask (b : Bough) (p : Bool) : (b.advancePc p).emask = b.emask := by
  unfold Bough.advancePc; split
  · split <;> rfl
  · rfl
@[simp] theorem advancePc_ecause (b : Bough) (p : Bool) : (b.advancePc p).ecause = b.ecause := by
  unfold Bough.advancePc; split
  · split <;> rfl
  · rfl
@[simp] theorem advancePc_eaddr (b : Bough) (p : Bool) : (b.advancePc p).eaddr = b.eaddr := by
  unfold Bough.advancePc; split
  · split <;> rfl
  · rfl
@[simp] theorem advancePc_esavea (b : Bough) (p : Bool) : (b.advancePc p).esavea = b.esavea := by
  unfold Bough.advancePc; split
  · split <;> rfl
  · rfl
@[simp] theorem advancePc_esaveb (b : Bough) (p : Bool) : (b.advancePc p).esaveb = b.esaveb := by
  unfold Bough.advancePc; split
  · split <;> rfl
  · rfl
@[simp] theorem advancePc_sysmode (b : Bough) (p : Bool) : (b.advancePc p).sysmode = b.sysmode := by
  unfold Bough.advancePc; split
  · split <;> rfl
  · rfl
@[simp] theorem advancePc_arrived (b : Bough) (p : Bool) : (b.advancePc p).arrived = b.arrived := by
  unfold Bough.advancePc; split
  · split <;> rfl
  · rfl
@[simp] theorem advancePc_arrGen (b : Bough) (p : Bool) : (b.advancePc p).arrGen = b.arrGen := by
  unfold Bough.advancePc; split
  · split <;> rfl
  · rfl
@[simp] theorem advancePc_lastArr (b : Bough) (p : Bool) : (b.advancePc p).lastArr = b.lastArr := by
  unfold Bough.advancePc; split
  · split <;> rfl
  · rfl
@[simp] theorem advancePc_stepdone (b : Bough) (p : Bool) : (b.advancePc p).stepdone = b.stepdone := by
  unfold Bough.advancePc; split
  · split <;> rfl
  · rfl
@[simp] theorem advancePc_sib (b : Bough) (p : Bool) : (b.advancePc p).sib = b.sib := by
  unfold Bough.advancePc; split
  · split <;> rfl
  · rfl
@[simp] theorem advancePc_walkRes (b : Bough) (p : Bool) : (b.advancePc p).walkRes = b.walkRes := by
  unfold Bough.advancePc; split
  · split <;> rfl
  · rfl
@[simp] theorem advancePc_recorded (b : Bough) (p : Bool) : (b.advancePc p).recorded = b.recorded := by
  unfold Bough.advancePc; split
  · split <;> rfl
  · rfl

end Sys2Proof.Machine
end

