-- ==== Sys2Proof/Laws/Issue.lean ====
section
/-! SUPPORT. What issue does: when the gate lets an instruction through, what the state is that its effect
sees, and what leaving issue adds. -/

namespace Sys2Proof.Machine

/-! ## The gate -/

/-- The gate lets an instruction through exactly where it issues. -/
theorem gate_go_iff (i : Instr) (s : State) : gate i s = .go ↔ Issues i s := by
  constructor
  · intro h
    rw [gate] at h
    have h1 : ¬ (s.b.nf > 0 && isRejoin i) = true := fun c => by rw [if_pos c] at h; cases h
    rw [if_neg h1] at h
    have h2 : ¬ ((s.b.sib.any fun x => x.cancelled) && isCancelPoint i) = true := fun c => by rw [if_pos c] at h; cases h
    rw [if_neg h2] at h
    have h3 : ¬ (!i.legal || !fmtAccepts s.b.fmt i) = true := fun c => by rw [if_pos c] at h; cases h
    rw [if_neg h3] at h
    have h4 : ¬ ((hdrOf i).fs ≠ .none && (s.b.fsFlag (hdrOf i).fs).isNone) = true := fun c => by rw [if_pos c] at h; cases h
    rw [if_neg h4] at h
    have h5 : ¬ ((isSystem i && !s.b.sysmode) || s.illegalHere i) = true := fun c => by rw [if_pos c] at h; cases h
    rw [if_neg h5] at h
    have h6 : ¬ (s.b.badReg i).isSome = true := fun c => by rw [if_pos c] at h; cases h
    rw [if_neg h6] at h
    have h7 : ¬ s.b.guard (hdrOf i) = 0 := fun c => by rw [if_pos c] at h; cases h
    rw [if_neg h7] at h
    have h8 : ¬ (needsFull i && !s.b.fullMask) = true := fun c => by rw [if_pos c] at h; cases h
    rw [if_neg h8] at h
    have h9 : ¬ (s.b.refill.isSome && badInRefill i) = true := fun c => by rw [if_pos c] at h; cases h
    rw [if_neg h9] at h
    have h10 : ¬ (s.scoreboard i || s.predPending s.b.uid) = true := fun c => by rw [if_pos c] at h; cases h
    rw [if_neg h10] at h
    have h11 : ¬ ((isMem i && s.acquiring s.b.uid) || (isLocal i && s.matLocal s.b.uid)) = true := fun c => by rw [if_pos c] at h; cases h
    rw [if_neg h11] at h
    have h12 : ¬ (!s.b.replaying && ((s.b.fsFlag (hdrOf i).fs).any fun n => s.b.flag n == 15)) = true := fun c => by rw [if_pos c] at h; cases h
    rw [if_neg h12] at h
    simp only [Bool.or_eq_true, Bool.not_eq_true', not_or, Bool.not_eq_false] at h3
    simp only [Bool.or_eq_true, not_or, Bool.and_eq_true, not_and, Bool.not_eq_true, Bool.not_eq_true',
      Bool.not_eq_false] at h5
    simp only [Bool.or_eq_true, not_or, Bool.not_eq_true] at h10
    simp only [Bool.or_eq_true, not_or, Bool.and_eq_true, not_and, Bool.not_eq_true] at h11
    refine ⟨?_, ?_, h3.1, h3.2, ?_, h5.1, h5.2, ?_, h7, ?_, ?_, h10.1, h10.2, h11.1, h11.2, ?_⟩
    · by_cases h : s.b.nf = 0
      · exact .inl h
      · exact .inr (by simpa [Nat.pos_iff_ne_zero, h] using h1)
    · cases h : s.b.sib.any fun x => x.cancelled
      · exact .inl rfl
      · exact .inr (by simpa [h] using h2)
    · by_cases h : (hdrOf i).fs = .none
      · exact .inl h
      · exact .inr (by simpa [h, Option.isSome_iff_ne_none] using h4)
    · simpa using h6
    · intro h; simpa [h] using h8
    · cases h : s.b.refill with
      | none => exact .inl rfl
      | some r => exact .inr (by simpa [h] using h9)
    · cases h : s.b.replaying
      · exact .inr (by simpa [h] using h12)
      · exact .inl rfl
  · intro h
    obtain ⟨h1, h2, h3, h3', h4, h5, h5', h6, h7, h8, h9, h10, h10', h11, h11', h12⟩ := h
    unfold gate
    rw [if_neg, if_neg, if_neg, if_neg, if_neg, if_neg, if_neg, if_neg, if_neg, if_neg, if_neg, if_neg]
    · simp only [Bool.and_eq_true, not_and, Bool.not_eq_true, Bool.not_eq_true']
      rcases h12 with h | h
      · intro h'; rw [h] at h'; cases h'
      · exact fun _ => h
    · simp only [Bool.or_eq_true, Bool.and_eq_true, not_or, not_and, Bool.not_eq_true]
      exact ⟨h11, h11'⟩
    · simp [h10, h10']
    · rcases h9 with h | h <;> simp [h]
    · simp only [Bool.and_eq_true, not_and, Bool.not_eq_true, Bool.not_eq_false']; exact h8
    · exact h7
    · simp [h6]
    · simp only [Bool.or_eq_true, Bool.and_eq_true, not_or, not_and, Bool.not_eq_true, Bool.not_eq_true',
        Bool.not_eq_false]
      exact ⟨h5, h5'⟩
    · rcases h4 with h | h
      · simp [h]
      · revert h; cases s.b.fsFlag (hdrOf i).fs <;> simp
    · simp [h3, h3']
    · rcases h2 with h | h <;> simp [h]
    · rcases h1 with h | h <;> simp [h]

/-- An instruction that issues and whose effect ends in a state answers that state, left by `finish_`. -/
theorem issue_next {i : Instr} {s t : State} {eff : State → Res} (g : Issues i s)
    (h : eff (s.issued i) = .done t) : issue i s eff = Host.Outcome.next (finish_ i s.b.path t) := by
  unfold issue
  rw [(gate_go_iff i s).2 g]
  show (match eff (begin_ i true s) with
    | .done t => Host.Outcome.next (finish_ i s.b.path t)
    | .go t => Host.Outcome.next t
    | .trap cause detail addr => Host.Outcome.next (s.takeTrap cause detail addr)
    | .hold w t => Host.Outcome.next (t.hold w)) = _
  rw [show eff (begin_ i true s) = .done t from h]

/-- An instruction that issues and whose own effect is the state after issue. -/
theorem issue_go {i : Instr} {s t : State} {eff : State → Res} (g : Issues i s)
    (h : eff (s.issued i) = .go t) : issue i s eff = Host.Outcome.next t := by
  unfold issue
  rw [(gate_go_iff i s).2 g]
  show (match eff (begin_ i true s) with
    | .done t => Host.Outcome.next (finish_ i s.b.path t)
    | .go t => Host.Outcome.next t
    | .trap cause detail addr => Host.Outcome.next (s.takeTrap cause detail addr)
    | .hold w t => Host.Outcome.next (t.hold w)) = _
  rw [show eff (begin_ i true s) = .go t from h]

/-- An instruction that issues and whose own checks raise a trap takes it. -/
theorem issue_trap {i : Instr} {s : State} {eff : State → Res} {c d : Nat} {a : W64} (g : Issues i s)
    (h : eff (s.issued i) = .trap c d a) : issue i s eff = Host.Outcome.next (s.takeTrap c d a) := by
  unfold issue
  rw [(gate_go_iff i s).2 g]
  show (match eff (begin_ i true s) with
    | .done t => Host.Outcome.next (finish_ i s.b.path t)
    | .go t => Host.Outcome.next t
    | .trap cause detail addr => Host.Outcome.next (s.takeTrap cause detail addr)
    | .hold w t => Host.Outcome.next (t.hold w)) = _
  rw [show eff (begin_ i true s) = .trap c d a from h]

/-- An instruction that issues and whose effect must wait holds the bough. -/
theorem issue_hold {i : Instr} {s t : State} {eff : State → Res} {w : Wait} (g : Issues i s)
    (h : eff (s.issued i) = .hold w t) : issue i s eff = Host.Outcome.next (t.hold w) := by
  unfold issue
  rw [(gate_go_iff i s).2 g]
  show (match eff (begin_ i true s) with
    | .done t => Host.Outcome.next (finish_ i s.b.path t)
    | .go t => Host.Outcome.next t
    | .trap cause detail addr => Host.Outcome.next (s.takeTrap cause detail addr)
    | .hold w t => Host.Outcome.next (t.hold w)) = _
  rw [show eff (begin_ i true s) = .hold w t from h]

/-! ## The state that the effect sees -/

@[simp] theorem issued_time (s : State) (i : Instr) : (s.issued i).time = s.time := rfl
@[simp] theorem issued_boughs (s : State) (i : Instr) : (s.issued i).boughs = s.boughs := rfl
@[simp] theorem issued_copses (s : State) (i : Instr) : (s.issued i).copses = s.copses := rfl
@[simp] theorem issued_launches (s : State) (i : Instr) : (s.issued i).launches = s.launches := rfl
@[simp] theorem issued_cores (s : State) (i : Instr) : (s.issued i).cores = s.cores := rfl
@[simp] theorem issued_parts (s : State) (i : Instr) : (s.issued i).parts = s.parts := rfl
@[simp] theorem issued_mem (s : State) (i : Instr) : (s.issued i).mem = s.mem := rfl
@[simp] theorem issued_zflag (s : State) (i : Instr) : (s.issued i).zflag = s.zflag := rfl
@[simp] theorem issued_ecc (s : State) (i : Instr) : (s.issued i).ecc = s.ecc := rfl
@[simp] theorem issued_dcache (s : State) (i : Instr) : (s.issued i).dcache = s.dcache := rfl
@[simp] theorem issued_leases (s : State) (i : Instr) : (s.issued i).leases = s.leases := rfl
@[simp] theorem issued_dcopies (s : State) (i : Instr) : (s.issued i).dcopies = s.dcopies := rfl
@[simp] theorem issued_draws (s : State) (i : Instr) : (s.issued i).draws = s.draws := rfl
@[simp] theorem issued_gens (s : State) (i : Instr) : (s.issued i).gens = s.gens := rfl
@[simp] theorem issued_heart (s : State) (i : Instr) : (s.issued i).heart = s.heart := rfl
@[simp] theorem issued_dtlb (s : State) (i : Instr) : (s.issued i).dtlb = s.dtlb := rfl
@[simp] theorem issued_loads (s : State) (i : Instr) : (s.issued i).loads = s.loads := rfl
@[simp] theorem issued_stores (s : State) (i : Instr) : (s.issued i).stores = s.stores := rfl
@[simp] theorem issued_acks (s : State) (i : Instr) : (s.issued i).acks = s.acks := rfl
@[simp] theorem issued_atoms (s : State) (i : Instr) : (s.issued i).atoms = s.atoms := rfl
@[simp] theorem issued_walks (s : State) (i : Instr) : (s.issued i).walks = s.walks := rfl
@[simp] theorem issued_infl (s : State) (i : Instr) : (s.issued i).infl = s.infl := rfl
@[simp] theorem issued_watches (s : State) (i : Instr) : (s.issued i).watches = s.watches := rfl
@[simp] theorem issued_susp (s : State) (i : Instr) : (s.issued i).susp = s.susp := rfl
@[simp] theorem issued_groups (s : State) (i : Instr) : (s.issued i).groups = s.groups := rfl
@[simp] theorem issued_cancels (s : State) (i : Instr) : (s.issued i).cancels = s.cancels := rfl
@[simp] theorem issued_wins (s : State) (i : Instr) : (s.issued i).wins = s.wins := rfl
@[simp] theorem issued_comms (s : State) (i : Instr) : (s.issued i).comms = s.comms := rfl
@[simp] theorem issued_colls (s : State) (i : Instr) : (s.issued i).colls = s.colls := rfl
@[simp] theorem issued_collK (s : State) (i : Instr) : (s.issued i).collK = s.collK := rfl
@[simp] theorem issued_links (s : State) (i : Instr) : (s.issued i).links = s.links := rfl
@[simp] theorem issued_sirxo (s : State) (i : Instr) : (s.issued i).sirxo = s.sirxo := rfl
@[simp] theorem issued_calnet (s : State) (i : Instr) : (s.issued i).calnet = s.calnet := rfl
@[simp] theorem issued_calmem (s : State) (i : Instr) : (s.issued i).calmem = s.calmem := rfl
@[simp] theorem issued_agenda (s : State) (i : Instr) : (s.issued i).agenda = s.agenda := rfl
@[simp] theorem issued_free (s : State) (i : Instr) : (s.issued i).free = s.free := rfl

/-- What issue does to the running bough. -/
def issueBough (region : Option Region) (flag : Option Nat) (id : Nat) (pair : Bool) (b : Bough) : Bough :=
  let b := (b.markBody region).advancePc pair
  let b := { b with wait := .none, ready := 0, trapAt := 0, stepdone := 0, walkRes := [] }
  if b.replaying then { b with replaying := false, itok := b.rtok, rtok := 0 }
  else
    let b := b.advancePath b.path
    match flag with
    | some n => { b with itok := 12 * id + n + 1, flags := Sparse.set b.flags n (b.flag n + 1) }
    | none => { b with itok := 0 }

theorem issued_b (s : State) (i : Instr) :
    (s.issued i).b = issueBough (s.regionOf s.b) (s.b.fsFlag (hdrOf i).fs) s.nuid (isPair i) s.b := rfl

@[simp] theorem issueBough_uid (r : Option Region) (n : Option Nat) (k : Nat) (p : Bool) (b : Bough) :
    (issueBough r n k p b).uid = b.uid := by
  unfold issueBough; dsimp only; split
  · simp
  · split <;> simp
@[simp] theorem issueBough_status (r : Option Region) (n : Option Nat) (k : Nat) (p : Bool) (b : Bough) :
    (issueBough r n k p b).status = b.status := by
  unfold issueBough; dsimp only; split
  · simp
  · split <;> simp
@[simp] theorem issueBough_launch (r : Option Region) (n : Option Nat) (k : Nat) (p : Bool) (b : Bough) :
    (issueBough r n k p b).launch = b.launch := by
  unfold issueBough; dsimp only; split
  · simp
  · split <;> simp
@[simp] theorem issueBough_cid (r : Option Region) (n : Option Nat) (k : Nat) (p : Bool) (b : Bough) :
    (issueBough r n k p b).cid = b.cid := by
  unfold issueBough; dsimp only; split
  · simp
  · split <;> simp
@[simp] theorem issueBough_idx (r : Option Region) (n : Option Nat) (k : Nat) (p : Bool) (b : Bough) :
    (issueBough r n k p b).idx = b.idx := by
  unfold issueBough; dsimp only; split
  · simp
  · split <;> simp
@[simp] theorem issueBough_part (r : Option Region) (n : Option Nat) (k : Nat) (p : Bool) (b : Bough) :
    (issueBough r n k p b).part = b.part := by
  unfold issueBough; dsimp only; split
  · simp
  · split <;> simp
@[simp] theorem issueBough_core (r : Option Region) (n : Option Nat) (k : Nat) (p : Bool) (b : Bough) :
    (issueBough r n k p b).core = b.core := by
  unfold issueBough; dsimp only; split
  · simp
  · split <;> simp
@[simp] theorem issueBough_slot (r : Option Region) (n : Option Nat) (k : Nat) (p : Bool) (b : Bough) :
    (issueBough r n k p b).slot = b.slot := by
  unfold issueBough; dsimp only; split
  · simp
  · split <;> simp
@[simp] theorem issueBough_nregs (r : Option Region) (n : Option Nat) (k : Nat) (p : Bool) (b : Bough) :
    (issueBough r n k p b).nregs = b.nregs := by
  unfold issueBough; dsimp only; split
  · simp
  · split <;> simp
@[simp] theorem issueBough_regbase (r : Option Region) (n : Option Nat) (k : Nat) (p : Bool) (b : Bough) :
    (issueBough r n k p b).regbase = b.regbase := by
  unfold issueBough; dsimp only; split
  · simp
  · split <;> simp
@[simp] theorem issueBough_emr (r : Option Region) (n : Option Nat) (k : Nat) (p : Bool) (b : Bough) :
    (issueBough r n k p b).emr = b.emr := by
  unfold issueBough; dsimp only; split
  · simp
  · split <;> simp
@[simp] theorem issueBough_idle (r : Option Region) (n : Option Nat) (k : Nat) (p : Bool) (b : Bough) :
    (issueBough r n k p b).idle = b.idle := by
  unfold issueBough; dsimp only; split
  · simp
  · split <;> simp
@[simp] theorem issueBough_live (r : Option Region) (n : Option Nat) (k : Nat) (p : Bool) (b : Bough) :
    (issueBough r n k p b).live = b.live := by
  unfold issueBough; dsimp only; split
  · simp
  · split <;> simp
@[simp] theorem issueBough_seen (r : Option Region) (n : Option Nat) (k : Nat) (p : Bool) (b : Bough) :
    (issueBough r n k p b).seen = b.seen := by
  unfold issueBough; dsimp only; split
  · simp
  · split <;> simp
@[simp] theorem issueBough_stack (r : Option Region) (n : Option Nat) (k : Nat) (p : Bool) (b : Bough) :
    (issueBough r n k p b).stack = b.stack := by
  unfold issueBough; dsimp only; split
  · simp
  · split <;> simp
@[simp] theorem issueBough_nf (r : Option Region) (n : Option Nat) (k : Nat) (p : Bool) (b : Bough) :
    (issueBough r n k p b).nf = b.nf := by
  unfold issueBough; dsimp only; split
  · simp
  · split <;> simp
@[simp] theorem issueBough_fmt (r : Option Region) (n : Option Nat) (k : Nat) (p : Bool) (b : Bough) :
    (issueBough r n k p b).fmt = b.fmt := by
  unfold issueBough; dsimp only; split
  · simp
  · split <;> simp
@[simp] theorem issueBough_vregs (r : Option Region) (n : Option Nat) (k : Nat) (p : Bool) (b : Bough) :
    (issueBough r n k p b).vregs = b.vregs := by
  unfold issueBough; dsimp only; split
  · simp
  · split <;> simp
@[simp] theorem issueBough_preds (r : Option Region) (n : Option Nat) (k : Nat) (p : Bool) (b : Bough) :
    (issueBough r n k p b).preds = b.preds := by
  unfold issueBough; dsimp only; split
  · simp
  · split <;> simp
@[simp] theorem issueBough_sregs (r : Option Region) (n : Option Nat) (k : Nat) (p : Bool) (b : Bough) :
    (issueBough r n k p b).sregs = b.sregs := by
  unfold issueBough; dsimp only; split
  · simp
  · split <;> simp
@[simp] theorem issueBough_wh (r : Option Region) (n : Option Nat) (k : Nat) (p : Bool) (b : Bough) :
    (issueBough r n k p b).wh = b.wh := by
  unfold issueBough; dsimp only; split
  · simp
  · split <;> simp
@[simp] theorem issueBough_nest (r : Option Region) (n : Option Nat) (k : Nat) (p : Bool) (b : Bough) :
    (issueBough r n k p b).nest = b.nest := by
  unfold issueBough; dsimp only; split
  · simp
  · split <;> simp
@[simp] theorem issueBough_coef (r : Option Region) (n : Option Nat) (k : Nat) (p : Bool) (b : Bough) :
    (issueBough r n k p b).coef = b.coef := by
  unfold issueBough; dsimp only; split
  · simp
  · split <;> simp
@[simp] theorem issueBough_tgroups (r : Option Region) (n : Option Nat) (k : Nat) (p : Bool) (b : Bough) :
    (issueBough r n k p b).tgroups = b.tgroups := by
  unfold issueBough; dsimp only; split
  · simp
  · split <;> simp
@[simp] theorem issueBough_setpri (r : Option Region) (n : Option Nat) (k : Nat) (p : Bool) (b : Bough) :
    (issueBough r n k p b).setpri = b.setpri := by
  unfold issueBough; dsimp only; split
  · simp
  · split <;> simp
@[simp] theorem issueBough_line (r : Option Region) (n : Option Nat) (k : Nat) (p : Bool) (b : Bough) :
    (issueBough r n k p b).line = b.line := by
  unfold issueBough; dsimp only; split
  · simp
  · split <;> simp
@[simp] theorem issueBough_entered (r : Option Region) (n : Option Nat) (k : Nat) (p : Bool) (b : Bough) :
    (issueBough r n k p b).entered = b.entered := by
  unfold issueBough; dsimp only; split
  · simp
  · split <;> simp
@[simp] theorem issueBough_checkTM (r : Option Region) (n : Option Nat) (k : Nat) (p : Bool) (b : Bough) :
    (issueBough r n k p b).checkTM = b.checkTM := by
  unfold issueBough; dsimp only; split
  · simp
  · split <;> simp
@[simp] theorem issueBough_waitSince (r : Option Region) (n : Option Nat) (k : Nat) (p : Bool) (b : Bough) :
    (issueBough r n k p b).waitSince = b.waitSince := by
  unfold issueBough; dsimp only; split
  · simp
  · split <;> simp
@[simp] theorem issueBough_rjoined (r : Option Region) (n : Option Nat) (k : Nat) (p : Bool) (b : Bough) :
    (issueBough r n k p b).rjoined = b.rjoined := by
  unfold issueBough; dsimp only; split
  · simp
  · split <;> simp
@[simp] theorem issueBough_frames (r : Option Region) (n : Option Nat) (k : Nat) (p : Bool) (b : Bough) :
    (issueBough r n k p b).frames = b.frames := by
  unfold issueBough; dsimp only; split
  · simp
  · split <;> simp
@[simp] theorem issueBough_taskOf (r : Option Region) (n : Option Nat) (k : Nat) (p : Bool) (b : Bough) :
    (issueBough r n k p b).taskOf = b.taskOf := by
  unfold issueBough; dsimp only; split
  · simp
  · split <;> simp
@[simp] theorem issueBough_tstat (r : Option Region) (n : Option Nat) (k : Nat) (p : Bool) (b : Bough) :
    (issueBough r n k p b).tstat = b.tstat := by
  unfold issueBough; dsimp only; split
  · simp
  · split <;> simp
@[simp] theorem issueBough_nestmax (r : Option Region) (n : Option Nat) (k : Nat) (p : Bool) (b : Bough) :
    (issueBough r n k p b).nestmax = b.nestmax := by
  unfold issueBough; dsimp only; split
  · simp
  · split <;> simp
@[simp] theorem issueBough_lcb (r : Option Region) (n : Option Nat) (k : Nat) (p : Bool) (b : Bough) :
    (issueBough r n k p b).lcb = b.lcb := by
  unfold issueBough; dsimp only; split
  · simp
  · split <;> simp
@[simp] theorem issueBough_lcseed (r : Option Region) (n : Option Nat) (k : Nat) (p : Bool) (b : Bough) :
    (issueBough r n k p b).lcseed = b.lcseed := by
  unfold issueBough; dsimp only; split
  · simp
  · split <;> simp
@[simp] theorem issueBough_bankcnt (r : Option Region) (n : Option Nat) (k : Nat) (p : Bool) (b : Bough) :
    (issueBough r n k p b).bankcnt = b.bankcnt := by
  unfold issueBough; dsimp only; split
  · simp
  · split <;> simp
@[simp] theorem issueBough_utag (r : Option Region) (n : Option Nat) (k : Nat) (p : Bool) (b : Bough) :
    (issueBough r n k p b).utag = b.utag := by
  unfold issueBough; dsimp only; split
  · simp
  · split <;> simp
@[simp] theorem issueBough_epc (r : Option Region) (n : Option Nat) (k : Nat) (p : Bool) (b : Bough) :
    (issueBough r n k p b).epc = b.epc := by
  unfold issueBough; dsimp only; split
  · simp
  · split <;> simp
@[simp] theorem issueBough_emask (r : Option Region) (n : Option Nat) (k : Nat) (p : Bool) (b : Bough) :
    (issueBough r n k p b).emask = b.emask := by
  unfold issueBough; dsimp only; split
  · simp
  · split <;> simp
@[simp] theorem issueBough_ecause (r : Option Region) (n : Option Nat) (k : Nat) (p : Bool) (b : Bough) :
    (issueBough r n k p b).ecause = b.ecause := by
  unfold issueBough; dsimp only; split
  · simp
  · split <;> simp
@[simp] theorem issueBough_eaddr (r : Option Region) (n : Option Nat) (k : Nat) (p : Bool) (b : Bough) :
    (issueBough r n k p b).eaddr = b.eaddr := by
  unfold issueBough; dsimp only; split
  · simp
  · split <;> simp
@[simp] theorem issueBough_esavea (r : Option Region) (n : Option Nat) (k : Nat) (p : Bool) (b : Bough) :
    (issueBough r n k p b).esavea = b.esavea := by
  unfold issueBough; dsimp only; split
  · simp
  · split <;> simp
@[simp] theorem issueBough_esaveb (r : Option Region) (n : Option Nat) (k : Nat) (p : Bool) (b : Bough) :
    (issueBough r n k p b).esaveb = b.esaveb := by
  unfold issueBough; dsimp only; split
  · simp
  · split <;> simp
@[simp] theorem issueBough_sysmode (r : Option Region) (n : Option Nat) (k : Nat) (p : Bool) (b : Bough) :
    (issueBough r n k p b).sysmode = b.sysmode := by
  unfold issueBough; dsimp only; split
  · simp
  · split <;> simp
@[simp] theorem issueBough_arrived (r : Option Region) (n : Option Nat) (k : Nat) (p : Bool) (b : Bough) :
    (issueBough r n k p b).arrived = b.arrived := by
  unfold issueBough; dsimp only; split
  · simp
  · split <;> simp
@[simp] theorem issueBough_arrGen (r : Option Region) (n : Option Nat) (k : Nat) (p : Bool) (b : Bough) :
    (issueBough r n k p b).arrGen = b.arrGen := by
  unfold issueBough; dsimp only; split
  · simp
  · split <;> simp
@[simp] theorem issueBough_lastArr (r : Option Region) (n : Option Nat) (k : Nat) (p : Bool) (b : Bough) :
    (issueBough r n k p b).lastArr = b.lastArr := by
  unfold issueBough; dsimp only; split
  · simp
  · split <;> simp
@[simp] theorem issueBough_sib (r : Option Region) (n : Option Nat) (k : Nat) (p : Bool) (b : Bough) :
    (issueBough r n k p b).sib = b.sib := by
  unfold issueBough; dsimp only; split
  · simp
  · split <;> simp
@[simp] theorem issueBough_recorded (r : Option Region) (n : Option Nat) (k : Nat) (p : Bool) (b : Bough) :
    (issueBough r n k p b).recorded = b.recorded := by
  unfold issueBough; dsimp only; split
  · simp
  · split <;> simp
@[simp] theorem issued_b_uid (s : State) (i : Instr) : (s.issued i).b.uid = s.b.uid := issueBough_uid ..
@[simp] theorem issued_b_status (s : State) (i : Instr) : (s.issued i).b.status = s.b.status := issueBough_status ..
@[simp] theorem issued_b_launch (s : State) (i : Instr) : (s.issued i).b.launch = s.b.launch := issueBough_launch ..
@[simp] theorem issued_b_cid (s : State) (i : Instr) : (s.issued i).b.cid = s.b.cid := issueBough_cid ..
@[simp] theorem issued_b_idx (s : State) (i : Instr) : (s.issued i).b.idx = s.b.idx := issueBough_idx ..
@[simp] theorem issued_b_part (s : State) (i : Instr) : (s.issued i).b.part = s.b.part := issueBough_part ..
@[simp] theorem issued_b_core (s : State) (i : Instr) : (s.issued i).b.core = s.b.core := issueBough_core ..
@[simp] theorem issued_b_slot (s : State) (i : Instr) : (s.issued i).b.slot = s.b.slot := issueBough_slot ..
@[simp] theorem issued_b_nregs (s : State) (i : Instr) : (s.issued i).b.nregs = s.b.nregs := issueBough_nregs ..
@[simp] theorem issued_b_regbase (s : State) (i : Instr) : (s.issued i).b.regbase = s.b.regbase := issueBough_regbase ..
@[simp] theorem issued_b_emr (s : State) (i : Instr) : (s.issued i).b.emr = s.b.emr := issueBough_emr ..
@[simp] theorem issued_b_idle (s : State) (i : Instr) : (s.issued i).b.idle = s.b.idle := issueBough_idle ..
@[simp] theorem issued_b_live (s : State) (i : Instr) : (s.issued i).b.live = s.b.live := issueBough_live ..
@[simp] theorem issued_b_seen (s : State) (i : Instr) : (s.issued i).b.seen = s.b.seen := issueBough_seen ..
@[simp] theorem issued_b_stack (s : State) (i : Instr) : (s.issued i).b.stack = s.b.stack := issueBough_stack ..
@[simp] theorem issued_b_nf (s : State) (i : Instr) : (s.issued i).b.nf = s.b.nf := issueBough_nf ..
@[simp] theorem issued_b_fmt (s : State) (i : Instr) : (s.issued i).b.fmt = s.b.fmt := issueBough_fmt ..
@[simp] theorem issued_b_vregs (s : State) (i : Instr) : (s.issued i).b.vregs = s.b.vregs := issueBough_vregs ..
@[simp] theorem issued_b_preds (s : State) (i : Instr) : (s.issued i).b.preds = s.b.preds := issueBough_preds ..
@[simp] theorem issued_b_sregs (s : State) (i : Instr) : (s.issued i).b.sregs = s.b.sregs := issueBough_sregs ..
@[simp] theorem issued_b_wh (s : State) (i : Instr) : (s.issued i).b.wh = s.b.wh := issueBough_wh ..
@[simp] theorem issued_b_nest (s : State) (i : Instr) : (s.issued i).b.nest = s.b.nest := issueBough_nest ..
@[simp] theorem issued_b_coef (s : State) (i : Instr) : (s.issued i).b.coef = s.b.coef := issueBough_coef ..
@[simp] theorem issued_b_tgroups (s : State) (i : Instr) : (s.issued i).b.tgroups = s.b.tgroups := issueBough_tgroups ..
@[simp] theorem issued_b_setpri (s : State) (i : Instr) : (s.issued i).b.setpri = s.b.setpri := issueBough_setpri ..
@[simp] theorem issued_b_line (s : State) (i : Instr) : (s.issued i).b.line = s.b.line := issueBough_line ..
@[simp] theorem issued_b_entered (s : State) (i : Instr) : (s.issued i).b.entered = s.b.entered := issueBough_entered ..
@[simp] theorem issued_b_checkTM (s : State) (i : Instr) : (s.issued i).b.checkTM = s.b.checkTM := issueBough_checkTM ..
@[simp] theorem issued_b_waitSince (s : State) (i : Instr) : (s.issued i).b.waitSince = s.b.waitSince := issueBough_waitSince ..
@[simp] theorem issued_b_rjoined (s : State) (i : Instr) : (s.issued i).b.rjoined = s.b.rjoined := issueBough_rjoined ..
@[simp] theorem issued_b_frames (s : State) (i : Instr) : (s.issued i).b.frames = s.b.frames := issueBough_frames ..
@[simp] theorem issued_b_taskOf (s : State) (i : Instr) : (s.issued i).b.taskOf = s.b.taskOf := issueBough_taskOf ..
@[simp] theorem issued_b_tstat (s : State) (i : Instr) : (s.issued i).b.tstat = s.b.tstat := issueBough_tstat ..
@[simp] theorem issued_b_nestmax (s : State) (i : Instr) : (s.issued i).b.nestmax = s.b.nestmax := issueBough_nestmax ..
@[simp] theorem issued_b_lcb (s : State) (i : Instr) : (s.issued i).b.lcb = s.b.lcb := issueBough_lcb ..
@[simp] theorem issued_b_lcseed (s : State) (i : Instr) : (s.issued i).b.lcseed = s.b.lcseed := issueBough_lcseed ..
@[simp] theorem issued_b_bankcnt (s : State) (i : Instr) : (s.issued i).b.bankcnt = s.b.bankcnt := issueBough_bankcnt ..
@[simp] theorem issued_b_utag (s : State) (i : Instr) : (s.issued i).b.utag = s.b.utag := issueBough_utag ..
@[simp] theorem issued_b_epc (s : State) (i : Instr) : (s.issued i).b.epc = s.b.epc := issueBough_epc ..
@[simp] theorem issued_b_emask (s : State) (i : Instr) : (s.issued i).b.emask = s.b.emask := issueBough_emask ..
@[simp] theorem issued_b_ecause (s : State) (i : Instr) : (s.issued i).b.ecause = s.b.ecause := issueBough_ecause ..
@[simp] theorem issued_b_eaddr (s : State) (i : Instr) : (s.issued i).b.eaddr = s.b.eaddr := issueBough_eaddr ..
@[simp] theorem issued_b_esavea (s : State) (i : Instr) : (s.issued i).b.esavea = s.b.esavea := issueBough_esavea ..
@[simp] theorem issued_b_esaveb (s : State) (i : Instr) : (s.issued i).b.esaveb = s.b.esaveb := issueBough_esaveb ..
@[simp] theorem issued_b_sysmode (s : State) (i : Instr) : (s.issued i).b.sysmode = s.b.sysmode := issueBough_sysmode ..
@[simp] theorem issued_b_arrived (s : State) (i : Instr) : (s.issued i).b.arrived = s.b.arrived := issueBough_arrived ..
@[simp] theorem issued_b_arrGen (s : State) (i : Instr) : (s.issued i).b.arrGen = s.b.arrGen := issueBough_arrGen ..
@[simp] theorem issued_b_lastArr (s : State) (i : Instr) : (s.issued i).b.lastArr = s.b.lastArr := issueBough_lastArr ..
@[simp] theorem issued_b_sib (s : State) (i : Instr) : (s.issued i).b.sib = s.b.sib := issueBough_sib ..
@[simp] theorem issued_b_recorded (s : State) (i : Instr) : (s.issued i).b.recorded = s.b.recorded := issueBough_recorded ..

/-! ## What leaving issue adds -/

@[simp] theorem flagOut_time (t : State) : t.flagOut.time = t.time := by
  unfold State.flagOut; dsimp only; (split <;> [skip; split]) <;> rfl
@[simp] theorem finish_time (i : Instr) (m : Mask) (t : State) : (finish_ i m t).time = t.time := by
  unfold finish_; rw [flagOut_time]; split <;> rfl
@[simp] theorem flagOut_boughs (t : State) : t.flagOut.boughs = t.boughs := by
  unfold State.flagOut; dsimp only; (split <;> [skip; split]) <;> rfl
@[simp] theorem finish_boughs (i : Instr) (m : Mask) (t : State) : (finish_ i m t).boughs = t.boughs := by
  unfold finish_; rw [flagOut_boughs]; split <;> rfl
@[simp] theorem flagOut_copses (t : State) : t.flagOut.copses = t.copses := by
  unfold State.flagOut; dsimp only; (split <;> [skip; split]) <;> rfl
@[simp] theorem finish_copses (i : Instr) (m : Mask) (t : State) : (finish_ i m t).copses = t.copses := by
  unfold finish_; rw [flagOut_copses]; split <;> rfl
@[simp] theorem flagOut_launches (t : State) : t.flagOut.launches = t.launches := by
  unfold State.flagOut; dsimp only; (split <;> [skip; split]) <;> rfl
@[simp] theorem finish_launches (i : Instr) (m : Mask) (t : State) : (finish_ i m t).launches = t.launches := by
  unfold finish_; rw [flagOut_launches]; split <;> rfl
@[simp] theorem flagOut_cores (t : State) : t.flagOut.cores = t.cores := by
  unfold State.flagOut; dsimp only; (split <;> [skip; split]) <;> rfl
@[simp] theorem finish_cores (i : Instr) (m : Mask) (t : State) : (finish_ i m t).cores = t.cores := by
  unfold finish_; rw [flagOut_cores]; split <;> rfl
@[simp] theorem flagOut_parts (t : State) : t.flagOut.parts = t.parts := by
  unfold State.flagOut; dsimp only; (split <;> [skip; split]) <;> rfl
@[simp] theorem finish_parts (i : Instr) (m : Mask) (t : State) : (finish_ i m t).parts = t.parts := by
  unfold finish_; rw [flagOut_parts]; split <;> rfl
@[simp] theorem flagOut_mem (t : State) : t.flagOut.mem = t.mem := by
  unfold State.flagOut; dsimp only; (split <;> [skip; split]) <;> rfl
@[simp] theorem finish_mem (i : Instr) (m : Mask) (t : State) : (finish_ i m t).mem = t.mem := by
  unfold finish_; rw [flagOut_mem]; split <;> rfl
@[simp] theorem flagOut_zflag (t : State) : t.flagOut.zflag = t.zflag := by
  unfold State.flagOut; dsimp only; (split <;> [skip; split]) <;> rfl
@[simp] theorem finish_zflag (i : Instr) (m : Mask) (t : State) : (finish_ i m t).zflag = t.zflag := by
  unfold finish_; rw [flagOut_zflag]; split <;> rfl
@[simp] theorem flagOut_ecc (t : State) : t.flagOut.ecc = t.ecc := by
  unfold State.flagOut; dsimp only; (split <;> [skip; split]) <;> rfl
@[simp] theorem finish_ecc (i : Instr) (m : Mask) (t : State) : (finish_ i m t).ecc = t.ecc := by
  unfold finish_; rw [flagOut_ecc]; split <;> rfl
@[simp] theorem flagOut_dcache (t : State) : t.flagOut.dcache = t.dcache := by
  unfold State.flagOut; dsimp only; (split <;> [skip; split]) <;> rfl
@[simp] theorem finish_dcache (i : Instr) (m : Mask) (t : State) : (finish_ i m t).dcache = t.dcache := by
  unfold finish_; rw [flagOut_dcache]; split <;> rfl
@[simp] theorem flagOut_leases (t : State) : t.flagOut.leases = t.leases := by
  unfold State.flagOut; dsimp only; (split <;> [skip; split]) <;> rfl
@[simp] theorem finish_leases (i : Instr) (m : Mask) (t : State) : (finish_ i m t).leases = t.leases := by
  unfold finish_; rw [flagOut_leases]; split <;> rfl
@[simp] theorem flagOut_dcopies (t : State) : t.flagOut.dcopies = t.dcopies := by
  unfold State.flagOut; dsimp only; (split <;> [skip; split]) <;> rfl
@[simp] theorem finish_dcopies (i : Instr) (m : Mask) (t : State) : (finish_ i m t).dcopies = t.dcopies := by
  unfold finish_; rw [flagOut_dcopies]; split <;> rfl
@[simp] theorem flagOut_draws (t : State) : t.flagOut.draws = t.draws := by
  unfold State.flagOut; dsimp only; (split <;> [skip; split]) <;> rfl
@[simp] theorem finish_draws (i : Instr) (m : Mask) (t : State) : (finish_ i m t).draws = t.draws := by
  unfold finish_; rw [flagOut_draws]; split <;> rfl
@[simp] theorem flagOut_gens (t : State) : t.flagOut.gens = t.gens := by
  unfold State.flagOut; dsimp only; (split <;> [skip; split]) <;> rfl
@[simp] theorem finish_gens (i : Instr) (m : Mask) (t : State) : (finish_ i m t).gens = t.gens := by
  unfold finish_; rw [flagOut_gens]; split <;> rfl
@[simp] theorem flagOut_heart (t : State) : t.flagOut.heart = t.heart := by
  unfold State.flagOut; dsimp only; (split <;> [skip; split]) <;> rfl
@[simp] theorem finish_heart (i : Instr) (m : Mask) (t : State) : (finish_ i m t).heart = t.heart := by
  unfold finish_; rw [flagOut_heart]; split <;> rfl
@[simp] theorem flagOut_dtlb (t : State) : t.flagOut.dtlb = t.dtlb := by
  unfold State.flagOut; dsimp only; (split <;> [skip; split]) <;> rfl
@[simp] theorem finish_dtlb (i : Instr) (m : Mask) (t : State) : (finish_ i m t).dtlb = t.dtlb := by
  unfold finish_; rw [flagOut_dtlb]; split <;> rfl
@[simp] theorem flagOut_loads (t : State) : t.flagOut.loads = t.loads := by
  unfold State.flagOut; dsimp only; (split <;> [skip; split]) <;> rfl
@[simp] theorem finish_loads (i : Instr) (m : Mask) (t : State) : (finish_ i m t).loads = t.loads := by
  unfold finish_; rw [flagOut_loads]; split <;> rfl
@[simp] theorem flagOut_stores (t : State) : t.flagOut.stores = t.stores := by
  unfold State.flagOut; dsimp only; (split <;> [skip; split]) <;> rfl
@[simp] theorem finish_stores (i : Instr) (m : Mask) (t : State) : (finish_ i m t).stores = t.stores := by
  unfold finish_; rw [flagOut_stores]; split <;> rfl
@[simp] theorem flagOut_acks (t : State) : t.flagOut.acks = t.acks := by
  unfold State.flagOut; dsimp only; (split <;> [skip; split]) <;> rfl
@[simp] theorem finish_acks (i : Instr) (m : Mask) (t : State) : (finish_ i m t).acks = t.acks := by
  unfold finish_; rw [flagOut_acks]; split <;> rfl
@[simp] theorem flagOut_atoms (t : State) : t.flagOut.atoms = t.atoms := by
  unfold State.flagOut; dsimp only; (split <;> [skip; split]) <;> rfl
@[simp] theorem finish_atoms (i : Instr) (m : Mask) (t : State) : (finish_ i m t).atoms = t.atoms := by
  unfold finish_; rw [flagOut_atoms]; split <;> rfl
@[simp] theorem flagOut_walks (t : State) : t.flagOut.walks = t.walks := by
  unfold State.flagOut; dsimp only; (split <;> [skip; split]) <;> rfl
@[simp] theorem finish_walks (i : Instr) (m : Mask) (t : State) : (finish_ i m t).walks = t.walks := by
  unfold finish_; rw [flagOut_walks]; split <;> rfl
@[simp] theorem flagOut_watches (t : State) : t.flagOut.watches = t.watches := by
  unfold State.flagOut; dsimp only; (split <;> [skip; split]) <;> rfl
@[simp] theorem finish_watches (i : Instr) (m : Mask) (t : State) : (finish_ i m t).watches = t.watches := by
  unfold finish_; rw [flagOut_watches]; split <;> rfl
@[simp] theorem flagOut_susp (t : State) : t.flagOut.susp = t.susp := by
  unfold State.flagOut; dsimp only; (split <;> [skip; split]) <;> rfl
@[simp] theorem finish_susp (i : Instr) (m : Mask) (t : State) : (finish_ i m t).susp = t.susp := by
  unfold finish_; rw [flagOut_susp]; split <;> rfl
@[simp] theorem flagOut_groups (t : State) : t.flagOut.groups = t.groups := by
  unfold State.flagOut; dsimp only; (split <;> [skip; split]) <;> rfl
@[simp] theorem finish_groups (i : Instr) (m : Mask) (t : State) : (finish_ i m t).groups = t.groups := by
  unfold finish_; rw [flagOut_groups]; split <;> rfl
@[simp] theorem flagOut_cancels (t : State) : t.flagOut.cancels = t.cancels := by
  unfold State.flagOut; dsimp only; (split <;> [skip; split]) <;> rfl
@[simp] theorem finish_cancels (i : Instr) (m : Mask) (t : State) : (finish_ i m t).cancels = t.cancels := by
  unfold finish_; rw [flagOut_cancels]; split <;> rfl
@[simp] theorem flagOut_wins (t : State) : t.flagOut.wins = t.wins := by
  unfold State.flagOut; dsimp only; (split <;> [skip; split]) <;> rfl
@[simp] theorem finish_wins (i : Instr) (m : Mask) (t : State) : (finish_ i m t).wins = t.wins := by
  unfold finish_; rw [flagOut_wins]; split <;> rfl
@[simp] theorem flagOut_comms (t : State) : t.flagOut.comms = t.comms := by
  unfold State.flagOut; dsimp only; (split <;> [skip; split]) <;> rfl
@[simp] theorem finish_comms (i : Instr) (m : Mask) (t : State) : (finish_ i m t).comms = t.comms := by
  unfold finish_; rw [flagOut_comms]; split <;> rfl
@[simp] theorem flagOut_colls (t : State) : t.flagOut.colls = t.colls := by
  unfold State.flagOut; dsimp only; (split <;> [skip; split]) <;> rfl
@[simp] theorem finish_colls (i : Instr) (m : Mask) (t : State) : (finish_ i m t).colls = t.colls := by
  unfold finish_; rw [flagOut_colls]; split <;> rfl
@[simp] theorem flagOut_collK (t : State) : t.flagOut.collK = t.collK := by
  unfold State.flagOut; dsimp only; (split <;> [skip; split]) <;> rfl
@[simp] theorem finish_collK (i : Instr) (m : Mask) (t : State) : (finish_ i m t).collK = t.collK := by
  unfold finish_; rw [flagOut_collK]; split <;> rfl
@[simp] theorem flagOut_links (t : State) : t.flagOut.links = t.links := by
  unfold State.flagOut; dsimp only; (split <;> [skip; split]) <;> rfl
@[simp] theorem finish_links (i : Instr) (m : Mask) (t : State) : (finish_ i m t).links = t.links := by
  unfold finish_; rw [flagOut_links]; split <;> rfl
@[simp] theorem flagOut_sirxo (t : State) : t.flagOut.sirxo = t.sirxo := by
  unfold State.flagOut; dsimp only; (split <;> [skip; split]) <;> rfl
@[simp] theorem finish_sirxo (i : Instr) (m : Mask) (t : State) : (finish_ i m t).sirxo = t.sirxo := by
  unfold finish_; rw [flagOut_sirxo]; split <;> rfl
@[simp] theorem flagOut_calnet (t : State) : t.flagOut.calnet = t.calnet := by
  unfold State.flagOut; dsimp only; (split <;> [skip; split]) <;> rfl
@[simp] theorem finish_calnet (i : Instr) (m : Mask) (t : State) : (finish_ i m t).calnet = t.calnet := by
  unfold finish_; rw [flagOut_calnet]; split <;> rfl
@[simp] theorem flagOut_calmem (t : State) : t.flagOut.calmem = t.calmem := by
  unfold State.flagOut; dsimp only; (split <;> [skip; split]) <;> rfl
@[simp] theorem finish_calmem (i : Instr) (m : Mask) (t : State) : (finish_ i m t).calmem = t.calmem := by
  unfold finish_; rw [flagOut_calmem]; split <;> rfl
@[simp] theorem flagOut_agenda (t : State) : t.flagOut.agenda = t.agenda := by
  unfold State.flagOut; dsimp only; (split <;> [skip; split]) <;> rfl
@[simp] theorem finish_agenda (i : Instr) (m : Mask) (t : State) : (finish_ i m t).agenda = t.agenda := by
  unfold finish_; rw [flagOut_agenda]; split <;> rfl
@[simp] theorem flagOut_free (t : State) : t.flagOut.free = t.free := by
  unfold State.flagOut; dsimp only; (split <;> [skip; split]) <;> rfl
@[simp] theorem finish_free (i : Instr) (m : Mask) (t : State) : (finish_ i m t).free = t.free := by
  unfold finish_; rw [flagOut_free]; split <;> rfl
@[simp] theorem flagOut_b_uid (t : State) : t.flagOut.b.uid = t.b.uid := by
  unfold State.flagOut; dsimp only; (split <;> [skip; split]) <;> rfl
@[simp] theorem finish_b_uid (i : Instr) (m : Mask) (t : State) : (finish_ i m t).b.uid = t.b.uid := by
  unfold finish_; rw [flagOut_b_uid]; split <;> rfl
@[simp] theorem flagOut_b_status (t : State) : t.flagOut.b.status = t.b.status := by
  unfold State.flagOut; dsimp only; (split <;> [skip; split]) <;> rfl
@[simp] theorem finish_b_status (i : Instr) (m : Mask) (t : State) : (finish_ i m t).b.status = t.b.status := by
  unfold finish_; rw [flagOut_b_status]; split <;> rfl
@[simp] theorem flagOut_b_launch (t : State) : t.flagOut.b.launch = t.b.launch := by
  unfold State.flagOut; dsimp only; (split <;> [skip; split]) <;> rfl
@[simp] theorem finish_b_launch (i : Instr) (m : Mask) (t : State) : (finish_ i m t).b.launch = t.b.launch := by
  unfold finish_; rw [flagOut_b_launch]; split <;> rfl
@[simp] theorem flagOut_b_cid (t : State) : t.flagOut.b.cid = t.b.cid := by
  unfold State.flagOut; dsimp only; (split <;> [skip; split]) <;> rfl
@[simp] theorem finish_b_cid (i : Instr) (m : Mask) (t : State) : (finish_ i m t).b.cid = t.b.cid := by
  unfold finish_; rw [flagOut_b_cid]; split <;> rfl
@[simp] theorem flagOut_b_idx (t : State) : t.flagOut.b.idx = t.b.idx := by
  unfold State.flagOut; dsimp only; (split <;> [skip; split]) <;> rfl
@[simp] theorem finish_b_idx (i : Instr) (m : Mask) (t : State) : (finish_ i m t).b.idx = t.b.idx := by
  unfold finish_; rw [flagOut_b_idx]; split <;> rfl
@[simp] theorem flagOut_b_part (t : State) : t.flagOut.b.part = t.b.part := by
  unfold State.flagOut; dsimp only; (split <;> [skip; split]) <;> rfl
@[simp] theorem finish_b_part (i : Instr) (m : Mask) (t : State) : (finish_ i m t).b.part = t.b.part := by
  unfold finish_; rw [flagOut_b_part]; split <;> rfl
@[simp] theorem flagOut_b_core (t : State) : t.flagOut.b.core = t.b.core := by
  unfold State.flagOut; dsimp only; (split <;> [skip; split]) <;> rfl
@[simp] theorem finish_b_core (i : Instr) (m : Mask) (t : State) : (finish_ i m t).b.core = t.b.core := by
  unfold finish_; rw [flagOut_b_core]; split <;> rfl
@[simp] theorem flagOut_b_slot (t : State) : t.flagOut.b.slot = t.b.slot := by
  unfold State.flagOut; dsimp only; (split <;> [skip; split]) <;> rfl
@[simp] theorem finish_b_slot (i : Instr) (m : Mask) (t : State) : (finish_ i m t).b.slot = t.b.slot := by
  unfold finish_; rw [flagOut_b_slot]; split <;> rfl
@[simp] theorem flagOut_b_nregs (t : State) : t.flagOut.b.nregs = t.b.nregs := by
  unfold State.flagOut; dsimp only; (split <;> [skip; split]) <;> rfl
@[simp] theorem finish_b_nregs (i : Instr) (m : Mask) (t : State) : (finish_ i m t).b.nregs = t.b.nregs := by
  unfold finish_; rw [flagOut_b_nregs]; split <;> rfl
@[simp] theorem flagOut_b_regbase (t : State) : t.flagOut.b.regbase = t.b.regbase := by
  unfold State.flagOut; dsimp only; (split <;> [skip; split]) <;> rfl
@[simp] theorem finish_b_regbase (i : Instr) (m : Mask) (t : State) : (finish_ i m t).b.regbase = t.b.regbase := by
  unfold finish_; rw [flagOut_b_regbase]; split <;> rfl
@[simp] theorem flagOut_b_pc (t : State) : t.flagOut.b.pc = t.b.pc := by
  unfold State.flagOut; dsimp only; (split <;> [skip; split]) <;> rfl
@[simp] theorem finish_b_pc (i : Instr) (m : Mask) (t : State) : (finish_ i m t).b.pc = t.b.pc := by
  unfold finish_; rw [flagOut_b_pc]; split <;> rfl
@[simp] theorem flagOut_b_emr (t : State) : t.flagOut.b.emr = t.b.emr := by
  unfold State.flagOut; dsimp only; (split <;> [skip; split]) <;> rfl
@[simp] theorem finish_b_emr (i : Instr) (m : Mask) (t : State) : (finish_ i m t).b.emr = t.b.emr := by
  unfold finish_; rw [flagOut_b_emr]; split <;> rfl
@[simp] theorem flagOut_b_idle (t : State) : t.flagOut.b.idle = t.b.idle := by
  unfold State.flagOut; dsimp only; (split <;> [skip; split]) <;> rfl
@[simp] theorem finish_b_idle (i : Instr) (m : Mask) (t : State) : (finish_ i m t).b.idle = t.b.idle := by
  unfold finish_; rw [flagOut_b_idle]; split <;> rfl
@[simp] theorem flagOut_b_live (t : State) : t.flagOut.b.live = t.b.live := by
  unfold State.flagOut; dsimp only; (split <;> [skip; split]) <;> rfl
@[simp] theorem finish_b_live (i : Instr) (m : Mask) (t : State) : (finish_ i m t).b.live = t.b.live := by
  unfold finish_; rw [flagOut_b_live]; split <;> rfl
@[simp] theorem flagOut_b_ready (t : State) : t.flagOut.b.ready = t.b.ready := by
  unfold State.flagOut; dsimp only; (split <;> [skip; split]) <;> rfl
@[simp] theorem finish_b_ready (i : Instr) (m : Mask) (t : State) : (finish_ i m t).b.ready = t.b.ready := by
  unfold finish_; rw [flagOut_b_ready]; split <;> rfl
@[simp] theorem flagOut_b_seen (t : State) : t.flagOut.b.seen = t.b.seen := by
  unfold State.flagOut; dsimp only; (split <;> [skip; split]) <;> rfl
@[simp] theorem finish_b_seen (i : Instr) (m : Mask) (t : State) : (finish_ i m t).b.seen = t.b.seen := by
  unfold finish_; rw [flagOut_b_seen]; split <;> rfl
@[simp] theorem flagOut_b_stack (t : State) : t.flagOut.b.stack = t.b.stack := by
  unfold State.flagOut; dsimp only; (split <;> [skip; split]) <;> rfl
@[simp] theorem finish_b_stack (i : Instr) (m : Mask) (t : State) : (finish_ i m t).b.stack = t.b.stack := by
  unfold finish_; rw [flagOut_b_stack]; split <;> rfl
@[simp] theorem flagOut_b_nf (t : State) : t.flagOut.b.nf = t.b.nf := by
  unfold State.flagOut; dsimp only; (split <;> [skip; split]) <;> rfl
@[simp] theorem finish_b_nf (i : Instr) (m : Mask) (t : State) : (finish_ i m t).b.nf = t.b.nf := by
  unfold finish_; rw [flagOut_b_nf]; split <;> rfl
@[simp] theorem flagOut_b_fmt (t : State) : t.flagOut.b.fmt = t.b.fmt := by
  unfold State.flagOut; dsimp only; (split <;> [skip; split]) <;> rfl
@[simp] theorem finish_b_fmt (i : Instr) (m : Mask) (t : State) : (finish_ i m t).b.fmt = t.b.fmt := by
  unfold finish_; rw [flagOut_b_fmt]; split <;> rfl
@[simp] theorem flagOut_b_vregs (t : State) : t.flagOut.b.vregs = t.b.vregs := by
  unfold State.flagOut; dsimp only; (split <;> [skip; split]) <;> rfl
@[simp] theorem finish_b_vregs (i : Instr) (m : Mask) (t : State) : (finish_ i m t).b.vregs = t.b.vregs := by
  unfold finish_; rw [flagOut_b_vregs]; split <;> rfl
@[simp] theorem flagOut_b_preds (t : State) : t.flagOut.b.preds = t.b.preds := by
  unfold State.flagOut; dsimp only; (split <;> [skip; split]) <;> rfl
@[simp] theorem finish_b_preds (i : Instr) (m : Mask) (t : State) : (finish_ i m t).b.preds = t.b.preds := by
  unfold finish_; rw [flagOut_b_preds]; split <;> rfl
@[simp] theorem flagOut_b_sregs (t : State) : t.flagOut.b.sregs = t.b.sregs := by
  unfold State.flagOut; dsimp only; (split <;> [skip; split]) <;> rfl
@[simp] theorem finish_b_sregs (i : Instr) (m : Mask) (t : State) : (finish_ i m t).b.sregs = t.b.sregs := by
  unfold finish_; rw [flagOut_b_sregs]; split <;> rfl
@[simp] theorem flagOut_b_flags (t : State) : t.flagOut.b.flags = t.b.flags := by
  unfold State.flagOut; dsimp only; (split <;> [skip; split]) <;> rfl
@[simp] theorem finish_b_flags (i : Instr) (m : Mask) (t : State) : (finish_ i m t).b.flags = t.b.flags := by
  unfold finish_; rw [flagOut_b_flags]; split <;> rfl
@[simp] theorem flagOut_b_wh (t : State) : t.flagOut.b.wh = t.b.wh := by
  unfold State.flagOut; dsimp only; (split <;> [skip; split]) <;> rfl
@[simp] theorem finish_b_wh (i : Instr) (m : Mask) (t : State) : (finish_ i m t).b.wh = t.b.wh := by
  unfold finish_; rw [flagOut_b_wh]; split <;> rfl
@[simp] theorem flagOut_b_fw (t : State) : t.flagOut.b.fw = t.b.fw := by
  unfold State.flagOut; dsimp only; (split <;> [skip; split]) <;> rfl
@[simp] theorem flagOut_b_nest (t : State) : t.flagOut.b.nest = t.b.nest := by
  unfold State.flagOut; dsimp only; (split <;> [skip; split]) <;> rfl
@[simp] theorem finish_b_nest (i : Instr) (m : Mask) (t : State) : (finish_ i m t).b.nest = t.b.nest := by
  unfold finish_; rw [flagOut_b_nest]; split <;> rfl
@[simp] theorem flagOut_b_coef (t : State) : t.flagOut.b.coef = t.b.coef := by
  unfold State.flagOut; dsimp only; (split <;> [skip; split]) <;> rfl
@[simp] theorem finish_b_coef (i : Instr) (m : Mask) (t : State) : (finish_ i m t).b.coef = t.b.coef := by
  unfold finish_; rw [flagOut_b_coef]; split <;> rfl
@[simp] theorem flagOut_b_rep (t : State) : t.flagOut.b.rep = t.b.rep := by
  unfold State.flagOut; dsimp only; (split <;> [skip; split]) <;> rfl
@[simp] theorem finish_b_rep (i : Instr) (m : Mask) (t : State) : (finish_ i m t).b.rep = t.b.rep := by
  unfold finish_; rw [flagOut_b_rep]; split <;> rfl
@[simp] theorem flagOut_b_replaying (t : State) : t.flagOut.b.replaying = t.b.replaying := by
  unfold State.flagOut; dsimp only; (split <;> [skip; split]) <;> rfl
@[simp] theorem finish_b_replaying (i : Instr) (m : Mask) (t : State) : (finish_ i m t).b.replaying = t.b.replaying := by
  unfold finish_; rw [flagOut_b_replaying]; split <;> rfl
@[simp] theorem flagOut_b_rtok (t : State) : t.flagOut.b.rtok = t.b.rtok := by
  unfold State.flagOut; dsimp only; (split <;> [skip; split]) <;> rfl
@[simp] theorem finish_b_rtok (i : Instr) (m : Mask) (t : State) : (finish_ i m t).b.rtok = t.b.rtok := by
  unfold finish_; rw [flagOut_b_rtok]; split <;> rfl
@[simp] theorem flagOut_b_tgroups (t : State) : t.flagOut.b.tgroups = t.b.tgroups := by
  unfold State.flagOut; dsimp only; (split <;> [skip; split]) <;> rfl
@[simp] theorem finish_b_tgroups (i : Instr) (m : Mask) (t : State) : (finish_ i m t).b.tgroups = t.b.tgroups := by
  unfold finish_; rw [flagOut_b_tgroups]; split <;> rfl
@[simp] theorem flagOut_b_setpri (t : State) : t.flagOut.b.setpri = t.b.setpri := by
  unfold State.flagOut; dsimp only; (split <;> [skip; split]) <;> rfl
@[simp] theorem finish_b_setpri (i : Instr) (m : Mask) (t : State) : (finish_ i m t).b.setpri = t.b.setpri := by
  unfold finish_; rw [flagOut_b_setpri]; split <;> rfl
@[simp] theorem flagOut_b_line (t : State) : t.flagOut.b.line = t.b.line := by
  unfold State.flagOut; dsimp only; (split <;> [skip; split]) <;> rfl
@[simp] theorem finish_b_line (i : Instr) (m : Mask) (t : State) : (finish_ i m t).b.line = t.b.line := by
  unfold finish_; rw [flagOut_b_line]; split <;> rfl
@[simp] theorem flagOut_b_entered (t : State) : t.flagOut.b.entered = t.b.entered := by
  unfold State.flagOut; dsimp only; (split <;> [skip; split]) <;> rfl
@[simp] theorem finish_b_entered (i : Instr) (m : Mask) (t : State) : (finish_ i m t).b.entered = t.b.entered := by
  unfold finish_; rw [flagOut_b_entered]; split <;> rfl
@[simp] theorem flagOut_b_checkTM (t : State) : t.flagOut.b.checkTM = t.b.checkTM := by
  unfold State.flagOut; dsimp only; (split <;> [skip; split]) <;> rfl
@[simp] theorem finish_b_checkTM (i : Instr) (m : Mask) (t : State) : (finish_ i m t).b.checkTM = t.b.checkTM := by
  unfold finish_; rw [flagOut_b_checkTM]; split <;> rfl
@[simp] theorem flagOut_b_wait (t : State) : t.flagOut.b.wait = t.b.wait := by
  unfold State.flagOut; dsimp only; (split <;> [skip; split]) <;> rfl
@[simp] theorem finish_b_wait (i : Instr) (m : Mask) (t : State) : (finish_ i m t).b.wait = t.b.wait := by
  unfold finish_; rw [flagOut_b_wait]; split <;> rfl
@[simp] theorem flagOut_b_waitSince (t : State) : t.flagOut.b.waitSince = t.b.waitSince := by
  unfold State.flagOut; dsimp only; (split <;> [skip; split]) <;> rfl
@[simp] theorem finish_b_waitSince (i : Instr) (m : Mask) (t : State) : (finish_ i m t).b.waitSince = t.b.waitSince := by
  unfold finish_; rw [flagOut_b_waitSince]; split <;> rfl
@[simp] theorem flagOut_b_trapAt (t : State) : t.flagOut.b.trapAt = t.b.trapAt := by
  unfold State.flagOut; dsimp only; (split <;> [skip; split]) <;> rfl
@[simp] theorem finish_b_trapAt (i : Instr) (m : Mask) (t : State) : (finish_ i m t).b.trapAt = t.b.trapAt := by
  unfold finish_; rw [flagOut_b_trapAt]; split <;> rfl
@[simp] theorem flagOut_b_refill (t : State) : t.flagOut.b.refill = t.b.refill := by
  unfold State.flagOut; dsimp only; (split <;> [skip; split]) <;> rfl
@[simp] theorem finish_b_refill (i : Instr) (m : Mask) (t : State) : (finish_ i m t).b.refill = t.b.refill := by
  unfold finish_; rw [flagOut_b_refill]; split <;> rfl
@[simp] theorem flagOut_b_rjoined (t : State) : t.flagOut.b.rjoined = t.b.rjoined := by
  unfold State.flagOut; dsimp only; (split <;> [skip; split]) <;> rfl
@[simp] theorem finish_b_rjoined (i : Instr) (m : Mask) (t : State) : (finish_ i m t).b.rjoined = t.b.rjoined := by
  unfold finish_; rw [flagOut_b_rjoined]; split <;> rfl
@[simp] theorem flagOut_b_frames (t : State) : t.flagOut.b.frames = t.b.frames := by
  unfold State.flagOut; dsimp only; (split <;> [skip; split]) <;> rfl
@[simp] theorem finish_b_frames (i : Instr) (m : Mask) (t : State) : (finish_ i m t).b.frames = t.b.frames := by
  unfold finish_; rw [flagOut_b_frames]; split <;> rfl
@[simp] theorem flagOut_b_taskOf (t : State) : t.flagOut.b.taskOf = t.b.taskOf := by
  unfold State.flagOut; dsimp only; (split <;> [skip; split]) <;> rfl
@[simp] theorem finish_b_taskOf (i : Instr) (m : Mask) (t : State) : (finish_ i m t).b.taskOf = t.b.taskOf := by
  unfold finish_; rw [flagOut_b_taskOf]; split <;> rfl
@[simp] theorem flagOut_b_tstat (t : State) : t.flagOut.b.tstat = t.b.tstat := by
  unfold State.flagOut; dsimp only; (split <;> [skip; split]) <;> rfl
@[simp] theorem finish_b_tstat (i : Instr) (m : Mask) (t : State) : (finish_ i m t).b.tstat = t.b.tstat := by
  unfold finish_; rw [flagOut_b_tstat]; split <;> rfl
@[simp] theorem flagOut_b_nestmax (t : State) : t.flagOut.b.nestmax = t.b.nestmax := by
  unfold State.flagOut; dsimp only; (split <;> [skip; split]) <;> rfl
@[simp] theorem finish_b_nestmax (i : Instr) (m : Mask) (t : State) : (finish_ i m t).b.nestmax = t.b.nestmax := by
  unfold finish_; rw [flagOut_b_nestmax]; split <;> rfl
@[simp] theorem flagOut_b_lcb (t : State) : t.flagOut.b.lcb = t.b.lcb := by
  unfold State.flagOut; dsimp only; (split <;> [skip; split]) <;> rfl
@[simp] theorem finish_b_lcb (i : Instr) (m : Mask) (t : State) : (finish_ i m t).b.lcb = t.b.lcb := by
  unfold finish_; rw [flagOut_b_lcb]; split <;> rfl
@[simp] theorem flagOut_b_lcseed (t : State) : t.flagOut.b.lcseed = t.b.lcseed := by
  unfold State.flagOut; dsimp only; (split <;> [skip; split]) <;> rfl
@[simp] theorem finish_b_lcseed (i : Instr) (m : Mask) (t : State) : (finish_ i m t).b.lcseed = t.b.lcseed := by
  unfold finish_; rw [flagOut_b_lcseed]; split <;> rfl
@[simp] theorem flagOut_b_bankcnt (t : State) : t.flagOut.b.bankcnt = t.b.bankcnt := by
  unfold State.flagOut; dsimp only; (split <;> [skip; split]) <;> rfl
@[simp] theorem finish_b_bankcnt (i : Instr) (m : Mask) (t : State) : (finish_ i m t).b.bankcnt = t.b.bankcnt := by
  unfold finish_; rw [flagOut_b_bankcnt]; split <;> rfl
@[simp] theorem flagOut_b_utag (t : State) : t.flagOut.b.utag = t.b.utag := by
  unfold State.flagOut; dsimp only; (split <;> [skip; split]) <;> rfl
@[simp] theorem finish_b_utag (i : Instr) (m : Mask) (t : State) : (finish_ i m t).b.utag = t.b.utag := by
  unfold finish_; rw [flagOut_b_utag]; split <;> rfl
@[simp] theorem flagOut_b_epc (t : State) : t.flagOut.b.epc = t.b.epc := by
  unfold State.flagOut; dsimp only; (split <;> [skip; split]) <;> rfl
@[simp] theorem finish_b_epc (i : Instr) (m : Mask) (t : State) : (finish_ i m t).b.epc = t.b.epc := by
  unfold finish_; rw [flagOut_b_epc]; split <;> rfl
@[simp] theorem flagOut_b_emask (t : State) : t.flagOut.b.emask = t.b.emask := by
  unfold State.flagOut; dsimp only; (split <;> [skip; split]) <;> rfl
@[simp] theorem finish_b_emask (i : Instr) (m : Mask) (t : State) : (finish_ i m t).b.emask = t.b.emask := by
  unfold finish_; rw [flagOut_b_emask]; split <;> rfl
@[simp] theorem flagOut_b_ecause (t : State) : t.flagOut.b.ecause = t.b.ecause := by
  unfold State.flagOut; dsimp only; (split <;> [skip; split]) <;> rfl
@[simp] theorem finish_b_ecause (i : Instr) (m : Mask) (t : State) : (finish_ i m t).b.ecause = t.b.ecause := by
  unfold finish_; rw [flagOut_b_ecause]; split <;> rfl
@[simp] theorem flagOut_b_eaddr (t : State) : t.flagOut.b.eaddr = t.b.eaddr := by
  unfold State.flagOut; dsimp only; (split <;> [skip; split]) <;> rfl
@[simp] theorem finish_b_eaddr (i : Instr) (m : Mask) (t : State) : (finish_ i m t).b.eaddr = t.b.eaddr := by
  unfold finish_; rw [flagOut_b_eaddr]; split <;> rfl
@[simp] theorem flagOut_b_esavea (t : State) : t.flagOut.b.esavea = t.b.esavea := by
  unfold State.flagOut; dsimp only; (split <;> [skip; split]) <;> rfl
@[simp] theorem finish_b_esavea (i : Instr) (m : Mask) (t : State) : (finish_ i m t).b.esavea = t.b.esavea := by
  unfold finish_; rw [flagOut_b_esavea]; split <;> rfl
@[simp] theorem flagOut_b_esaveb (t : State) : t.flagOut.b.esaveb = t.b.esaveb := by
  unfold State.flagOut; dsimp only; (split <;> [skip; split]) <;> rfl
@[simp] theorem finish_b_esaveb (i : Instr) (m : Mask) (t : State) : (finish_ i m t).b.esaveb = t.b.esaveb := by
  unfold finish_; rw [flagOut_b_esaveb]; split <;> rfl
@[simp] theorem flagOut_b_sysmode (t : State) : t.flagOut.b.sysmode = t.b.sysmode := by
  unfold State.flagOut; dsimp only; (split <;> [skip; split]) <;> rfl
@[simp] theorem finish_b_sysmode (i : Instr) (m : Mask) (t : State) : (finish_ i m t).b.sysmode = t.b.sysmode := by
  unfold finish_; rw [flagOut_b_sysmode]; split <;> rfl
@[simp] theorem flagOut_b_arrived (t : State) : t.flagOut.b.arrived = t.b.arrived := by
  unfold State.flagOut; dsimp only; (split <;> [skip; split]) <;> rfl
@[simp] theorem finish_b_arrived (i : Instr) (m : Mask) (t : State) : (finish_ i m t).b.arrived = t.b.arrived := by
  unfold finish_; rw [flagOut_b_arrived]; split <;> rfl
@[simp] theorem flagOut_b_arrGen (t : State) : t.flagOut.b.arrGen = t.b.arrGen := by
  unfold State.flagOut; dsimp only; (split <;> [skip; split]) <;> rfl
@[simp] theorem finish_b_arrGen (i : Instr) (m : Mask) (t : State) : (finish_ i m t).b.arrGen = t.b.arrGen := by
  unfold finish_; rw [flagOut_b_arrGen]; split <;> rfl
@[simp] theorem flagOut_b_lastArr (t : State) : t.flagOut.b.lastArr = t.b.lastArr := by
  unfold State.flagOut; dsimp only; (split <;> [skip; split]) <;> rfl
@[simp] theorem finish_b_lastArr (i : Instr) (m : Mask) (t : State) : (finish_ i m t).b.lastArr = t.b.lastArr := by
  unfold finish_; rw [flagOut_b_lastArr]; split <;> rfl
@[simp] theorem flagOut_b_stepdone (t : State) : t.flagOut.b.stepdone = t.b.stepdone := by
  unfold State.flagOut; dsimp only; (split <;> [skip; split]) <;> rfl
@[simp] theorem finish_b_stepdone (i : Instr) (m : Mask) (t : State) : (finish_ i m t).b.stepdone = t.b.stepdone := by
  unfold finish_; rw [flagOut_b_stepdone]; split <;> rfl
@[simp] theorem flagOut_b_sib (t : State) : t.flagOut.b.sib = t.b.sib := by
  unfold State.flagOut; dsimp only; (split <;> [skip; split]) <;> rfl
@[simp] theorem finish_b_sib (i : Instr) (m : Mask) (t : State) : (finish_ i m t).b.sib = t.b.sib := by
  unfold finish_; rw [flagOut_b_sib]; split <;> rfl
@[simp] theorem flagOut_b_walkRes (t : State) : t.flagOut.b.walkRes = t.b.walkRes := by
  unfold State.flagOut; dsimp only; (split <;> [skip; split]) <;> rfl
@[simp] theorem finish_b_walkRes (i : Instr) (m : Mask) (t : State) : (finish_ i m t).b.walkRes = t.b.walkRes := by
  unfold finish_; rw [flagOut_b_walkRes]; split <;> rfl
@[simp] theorem flagOut_b_recorded (t : State) : t.flagOut.b.recorded = t.b.recorded := by
  unfold State.flagOut; dsimp only; (split <;> [skip; split]) <;> rfl
@[simp] theorem finish_b_recorded (i : Instr) (m : Mask) (t : State) : (finish_ i m t).b.recorded = t.b.recorded := by
  unfold finish_; rw [flagOut_b_recorded]; split <;> rfl

theorem finish_b_fw (i : Instr) (m : Mask) (t : State) :
    (finish_ i m t).b.fw = if closes i then (t.b.closeLanes m).fw else t.b.fw := by
  unfold finish_; rw [flagOut_b_fw]; split <;> rfl

end Sys2Proof.Machine
end

