-- ==== Sys2Proof/Laws/Registers.lean ====
section
/-! SUPPORT. Registers: what a read finds after a write, for vector, scalar and predicate registers, and
what each form of destination writes. -/

namespace Sys2Proof.Machine

/-! ## Lanes and masks -/

theorem mem_lanes {l : Nat} : l ∈ lanes ↔ l < 32 := List.mem_range

theorem mem_list {m : Mask} {l : Nat} : l ∈ m.list ↔ l < 32 ∧ m.getLsbD l = true := by
  rw [Mask.list, List.mem_filter, mem_lanes]

theorem lanes_nodup : lanes.Nodup := List.nodup_range

theorem list_nodup (m : Mask) : m.list.Nodup := lanes_nodup.filter _

/-- The mask of a test holds exactly the lanes that pass it. -/
theorem ofPred_getLsbD (p : Nat → Bool) {l : Nat} (h : l < 32) : (Mask.ofPred p).getLsbD l = p l := by
  have step : ∀ (ls : List Nat) (m : Mask), (∀ k ∈ ls, k < 32) →
      (ls.foldl (fun m k => if p k then m ||| (1#32 <<< k) else m) m).getLsbD l =
        (m.getLsbD l || (decide (l ∈ ls) && p l)) := by
    intro ls
    induction ls with
    | nil => simp
    | cons k ls ih =>
      intro m hk
      rw [List.foldl_cons, ih _ fun j hj => hk j (List.mem_cons_of_mem _ hj)]
      have hk' := hk k (by simp)
      by_cases hp : p k = true
      · by_cases hl : l = k
        · subst hl; simp [hp, h]
        · simp only [hp, if_true, BitVec.getLsbD_or, BitVec.getLsbD_shiftLeft, BitVec.getLsbD_one]
          have : ¬ (l - k = 0 ∧ ¬ l < k) := by omega
          by_cases h3 : l < k
          · simp [h3, hl]
          · have : l - k ≠ 0 := by omega
            simp [h3, hl, this]
      · by_cases hl : l = k
        · subst hl; simp [hp]
        · simp [hp, hl]
  have := step lanes 0#32 fun k hk => mem_lanes.1 hk
  rw [Mask.ofPred, this]
  simp [mem_lanes.2 h]

/-! ## Scalar registers -/

theorem sreg_setSreg (b : Bough) (r : Nat) (v : W64) : WritesScalar b (b.setSreg r v) r v := by
  intro k
  unfold Bough.sreg Bough.setSreg
  by_cases hr : r = 63
  · simp [hr]
  · by_cases hk : k = 63
    · have : ¬ k = r := by omega
      simp [hk, hr, Ne.symm hr]
    · simp only [hk, hr, if_false, Sparse.get_set, ne_eq, not_false_eq_true, and_true]

/-! ## Predicates -/

theorem pred_setPred (b : Bough) (q : Nat) (m v : Mask) (k l : Nat) (hl : l < 32) (hq : q ≠ 7) :
    ((b.setPred q m v).pred k).getLsbD l =
      if k = q ∧ m.getLsbD l = true then v.getLsbD l else (b.pred k).getLsbD l := by
  unfold Bough.pred Bough.setPred
  by_cases hk : k = 7
  · have : ¬ (k = q) := by omega
    simp [hk, Ne.symm hq]
  · simp only [hk, hq, if_false, Sparse.get_set]
    by_cases h : k = q
    · subst h
      simp only [if_true, BitVec.getLsbD_or, BitVec.getLsbD_and, BitVec.getLsbD_not, hl, decide_true, true_and]
      cases m.getLsbD l <;> simp
    · simp [h]

theorem pred_setPd (b : Bough) (pd : Pd) (m v : Mask) : WritesPred b (b.setPd pd m v) pd m fun l => v.getLsbD l := by
  intro k l hl
  cases pd with
  | none => simp [Bough.setPd]
  | some q =>
    have hq : q.val ≠ 7 := by omega
    rw [Bough.setPd, pred_setPred _ _ _ _ _ _ hl hq]
    by_cases h : k = q.val
    · simp [h]
    · have h' : ¬ q.val = k := fun e => h e.symm
      simp [h, h']

/-! ## Vector registers -/

theorem find_dropFw (fw : List FwEnt) {r l q j : Nat} (h : q ≠ r ∨ j ≠ l) :
    (dropFw fw r l).find? (fun e => e.lane == j && e.reg == q && e.dist ≤ 8) =
      fw.find? (fun e => e.lane == j && e.reg == q && e.dist ≤ 8) := by
  unfold dropFw
  rw [List.find?_filter]
  congr 1
  funext e
  by_cases h1 : e.lane = j <;> by_cases h2 : e.reg = q <;> simp [h1, h2]
  omega

theorem find_dropFw_same (fw : List FwEnt) (r l : Nat) :
    (dropFw fw r l).find? (fun e => e.lane == l && e.reg == r && e.dist ≤ 8) = none := by
  unfold dropFw
  rw [List.find?_eq_none]
  intro e he
  have := (List.mem_filter.1 he).2
  simp at this ⊢
  omega

/-- A register that was written in a lane reads as what was written, in the window or not. -/
theorem vreg_setVreg_same (b : Bough) (tr : Bool) (r l : Nat) (v : W32) : (b.setVreg tr r l v).vreg r l = v := by
  unfold Bough.setVreg
  cases tr with
  | true => simp [Bough.vreg]
  | false =>
    show (match (dropFw b.fw r l).find? _ with
      | some e => e.val
      | none => Sparse.get (Sparse.set b.vregs (32 * r + l) v) (32 * r + l)) = v
    rw [find_dropFw_same, Sparse.get_set_same]

/-- Every other register of every lane reads as before. -/
theorem vreg_setVreg_other (b : Bough) (tr : Bool) {r l q j : Nat} (v : W32) (hl : l < 32) (hj : j < 32)
    (h : q ≠ r ∨ j ≠ l) : (b.setVreg tr r l v).vreg q j = b.vreg q j := by
  unfold Bough.setVreg
  cases tr with
  | true =>
    have h' : ¬ (l = j ∧ r = q) := by omega
    simp only [if_true, Bough.vreg]
    rw [List.find?_cons_of_neg (by simp; omega), find_dropFw _ h]
    rfl
  | false =>
    have : Sparse.get (Sparse.set b.vregs (32 * r + l) v) (32 * q + j) = Sparse.get b.vregs (32 * q + j) :=
      Sparse.get_set_other _ _ (by omega)
    simp only [Bool.false_eq_true, if_false, Bough.vreg, Bough.banked, this]
    rw [find_dropFw _ h]

theorem banked_setVreg_other (b : Bough) (tr : Bool) {r l q j : Nat} (v : W32) (hl : l < 32) (hj : j < 32)
    (h : tr = true ∨ q ≠ r ∨ j ≠ l) : (b.setVreg tr r l v).banked q j = b.banked q j := by
  unfold Bough.setVreg Bough.banked
  cases tr with
  | true => rfl
  | false =>
    have h : q ≠ r ∨ j ≠ l := by simpa using h
    exact Sparse.get_set_other _ _ (by omega)

theorem vreg_setVregs_other (b : Bough) (tr : Bool) {r l n q j : Nat} (v : Nat) (hl : l < 32) (hj : j < 32)
    (h : q < r ∨ r + n ≤ q ∨ j ≠ l) : (b.setVregs tr r l n v).vreg q j = b.vreg q j := by
  induction n generalizing b r v with
  | zero => rfl
  | succ n ih =>
    rw [Bough.setVregs, ih _ _ (by omega), vreg_setVreg_other b tr _ hl hj (by omega)]

theorem vreg_setVregs_same (b : Bough) (tr : Bool) {r l n k : Nat} (v : Nat) (hl : l < 32) (hk : k < n) :
    (b.setVregs tr r l n v).vreg (r + k) l = BitVec.ofNat 32 (v / 2 ^ (32 * k)) := by
  induction n generalizing b r v k with
  | zero => omega
  | succ n ih =>
    rw [Bough.setVregs]
    cases k with
    | zero =>
      rw [vreg_setVregs_other _ _ _ hl hl (by omega), Nat.add_zero, vreg_setVreg_same]; simp
    | succ k =>
      rw [show r + (k + 1) = r + 1 + k by omega, ih _ _ (by omega), Nat.div_div_eq_div_mul, ← pow_add]
      congr 3; ring

theorem banked_setVregs_other (b : Bough) (tr : Bool) {r l n q j : Nat} (v : Nat) (hl : l < 32) (hj : j < 32)
    (h : tr = true ∨ q < r ∨ r + n ≤ q ∨ j ≠ l) : (b.setVregs tr r l n v).banked q j = b.banked q j := by
  induction n generalizing b r v with
  | zero => rfl
  | succ n ih =>
    have h1 : tr = true ∨ q < r + 1 ∨ r + 1 + n ≤ q ∨ j ≠ l := h.imp_right (by omega)
    have h2 : tr = true ∨ q ≠ r ∨ j ≠ l := h.imp_right (by omega)
    rw [Bough.setVregs, ih _ _ h1, banked_setVreg_other b tr _ hl hj h2]

/-- Writing one result per lane: what each lane holds afterwards, and what no lane loses. -/
theorem setLanes_spec (b : Bough) (tr : Bool) (r n : Nat) (m : Mask) (g : Nat → Nat) :
    WritesLanes b (b.setLanes tr r n m g) tr r n m g := by
  have step : ∀ (ls : List Nat) (b : Bough), (∀ k ∈ ls, k < 32) → ls.Nodup →
      (∀ l k : Nat, l < 32 → k < n → l ∈ ls →
        (ls.foldl (fun b l => b.setVregs tr r l n (g l)) b).vreg (r + k) l =
          BitVec.ofNat 32 (g l / 2 ^ (32 * k))) ∧
      (∀ q l : Nat, l < 32 → l ∉ ls →
        (ls.foldl (fun b l => b.setVregs tr r l n (g l)) b).vreg q l = b.vreg q l) ∧
      ∀ q l : Nat, l < 32 → (tr = true ∨ l ∉ ls ∨ q < r ∨ r + n ≤ q) →
        (ls.foldl (fun b l => b.setVregs tr r l n (g l)) b).banked q l = b.banked q l := by
    intro ls
    induction ls with
    | nil => intro b _ _; exact ⟨fun _ _ _ _ h => by simp at h, fun _ _ _ _ => rfl, fun _ _ _ _ => rfl⟩
    | cons x ls ih =>
      intro b hk hn
      have hx := hk x (by simp)
      have hn := List.nodup_cons.1 hn
      obtain ⟨h1, h2, h3⟩ := ih (b.setVregs tr r x n (g x)) (fun j hj => hk j (List.mem_cons_of_mem _ hj)) hn.2
      simp only [List.foldl_cons]
      refine ⟨fun l k hl hk' hm => ?_, fun q l hl hm => ?_, fun q l hl hm => ?_⟩
      · rcases List.mem_cons.1 hm with rfl | hm
        · rw [h2 _ _ hl hn.1, vreg_setVregs_same _ _ _ hl hk']
        · exact h1 l k hl hk' hm
      · have hm : l ≠ x ∧ l ∉ ls := by simpa using hm
        rw [h2 _ _ hl hm.2, vreg_setVregs_other _ _ _ hx hl (.inr (.inr hm.1))]
      · have hm' : tr = true ∨ (l ≠ x ∧ l ∉ ls) ∨ q < r ∨ r + n ≤ q := by simpa using hm
        rw [h3 _ _ hl (by tauto), banked_setVregs_other _ _ _ hx hl (by tauto)]
  obtain ⟨h1, -, h3⟩ := step m.list b (fun k hk => (mem_list.1 hk).1) (list_nodup m)
  refine ⟨fun l k hl hk hm => h1 l k hl hk (mem_list.2 ⟨hl, hm⟩), fun q l hl h => h3 q l hl ?_⟩
  rcases h with h | h | h | h
  · exact .inl h
  · exact .inr (.inl fun hm => by rw [(mem_list.1 hm).2] at h; cases h)
  · exact .inr (.inr (.inl h))
  · exact .inr (.inr (.inr h))

/-! ## Destinations -/

theorem writeA_only (t : State) (h : Hdr) (f : FmtA) (n : Nat) (g : Nat → Nat) :
    OnlyBough t (t.writeA h f n g) := by unfold State.writeA; split <;> rfl

theorem writeI_only (t : State) (h : Hdr) (f : FmtI) (n : Nat) (g : Nat → Nat) :
    OnlyBough t (t.writeI h f n g) := by unfold State.writeI; split <;> rfl

theorem writePd_only (t : State) (h : Hdr) (pd : Pd) (g : Nat → Bool) : OnlyBough t (t.writePd h pd g) := rfl

theorem writeA_spec (t : State) (h : Hdr) (f : FmtA) (n : Nat) (g : Nat → Nat) :
    WritesA t.b (t.writeA h f n g).b h f n g := by
  unfold State.writeA WritesA
  split
  · exact ⟨sreg_setSreg _ _ _, by simp⟩
  · exact ⟨setLanes_spec _ _ _ _ _ _, by simp⟩

theorem writeI_spec (t : State) (h : Hdr) (f : FmtI) (n : Nat) (g : Nat → Nat) :
    WritesI t.b (t.writeI h f n g).b h f n g := by
  unfold State.writeI WritesI
  split
  · exact ⟨sreg_setSreg _ _ _, by simp⟩
  · exact ⟨setLanes_spec _ _ _ _ _ _, by simp⟩

theorem writePd_spec (t : State) (h : Hdr) (pd : Pd) (g : Nat → Bool) :
    WritesPred t.b (t.writePd h pd g).b pd (t.b.guard h) g := by
  intro k l hl
  rw [State.writePd, modB_b, pred_setPd _ _ _ _ k l hl]
  simp only [ofPred_getLsbD g hl]

end Sys2Proof.Machine
end

