-- ==== Sys2Proof/Laws/Complete.lean ====
section
/-! SUPPORT. Completion of the instructions that write registers and nothing else: the frame and the
destination, from the effect to the state that `exec` answers. -/

namespace Sys2Proof.Machine

/-! ## Frames compose -/

theorem OnlyBough.refl (s : State) : OnlyBough s s := rfl

theorem OnlyBough.trans {s t u : State} (h : OnlyBough s t) (k : OnlyBough t u) : OnlyBough s u := by
  unfold OnlyBough at *; rw [k, h]

theorem OnlyBough.modB (s : State) (f : Bough → Bough) : OnlyBough s (s.modB f) := rfl

theorem OnlyBough.issued (s : State) (i : Instr) : OnlyBough s (s.issued i) := rfl

theorem OnlyBough.finish (i : Instr) (m : Mask) (t : State) : OnlyBough t (finish_ i m t) := by
  have out (u : State) : OnlyBough u u.flagOut := by
    unfold OnlyBough State.flagOut; dsimp only; (split <;> [skip; split]) <;> rfl
  unfold finish_; split
  · exact .trans (.modB ..) (out _)
  · exact out _

theorem OnlyBough.mem {s t : State} (h : OnlyBough s t) : t.mem = s.mem := by rw [h]

theorem OnlyBough.memorySame {s t : State} (h : OnlyBough s t) : MemorySame s t := fun a => by rw [h.mem]

theorem RegistersOnly.refl (b : Bough) : RegistersOnly b b := rfl

theorem RegistersOnly.trans {b c d : Bough} (h : RegistersOnly b c) (k : RegistersOnly c d) :
    RegistersOnly b d := by unfold RegistersOnly at *; rw [k, h]

theorem RegistersOnly.markBody (b : Bough) (r : Option Region) : RegistersOnly b (b.markBody r) := by
  unfold Bough.markBody; split
  · dsimp only; split <;> rfl
  · rfl

theorem RegistersOnly.advancePc (b : Bough) (p : Bool) : RegistersOnly b (b.advancePc p) := by
  unfold Bough.advancePc; split
  · split <;> rfl
  · rfl

theorem RegistersOnly.issueBough (r : Option Region) (n : Option Nat) (k : Nat) (p : Bool) (b : Bough) :
    RegistersOnly b (issueBough r n k p b) := by
  refine (RegistersOnly.markBody b r).trans ((RegistersOnly.advancePc _ p).trans ?_)
  unfold Machine.issueBough
  generalize (b.markBody r).advancePc p = c
  dsimp only
  split
  · rfl
  · split <;> rfl

theorem RegistersOnly.issued (s : State) (i : Instr) : RegistersOnly s.b (s.issued i).b := by
  rw [issued_b]; exact .issueBough ..

theorem RegistersOnly.finish (i : Instr) (m : Mask) (t : State) : RegistersOnly t.b (finish_ i m t).b := by
  have out (u : State) : RegistersOnly u.b u.flagOut.b := by
    unfold RegistersOnly State.flagOut; dsimp only; (split <;> [skip; split]) <;> rfl
  unfold finish_; split
  · exact RegistersOnly.trans (c := t.b.closeLanes m) rfl (out _)
  · exact out _

theorem RegistersOnly.setSreg (b : Bough) (r : Nat) (v : W64) : RegistersOnly b (b.setSreg r v) := by
  unfold Bough.setSreg; split <;> rfl

theorem RegistersOnly.setPred (b : Bough) (k : Nat) (m v : Mask) : RegistersOnly b (b.setPred k m v) := by
  unfold Bough.setPred; split <;> rfl

theorem RegistersOnly.setPd (b : Bough) (pd : Pd) (m v : Mask) : RegistersOnly b (b.setPd pd m v) := by
  unfold Bough.setPd; split
  · rfl
  · exact .setPred ..

theorem RegistersOnly.setVreg (b : Bough) (tr : Bool) (r l : Nat) (v : W32) :
    RegistersOnly b (b.setVreg tr r l v) := by unfold Bough.setVreg; split <;> rfl

theorem RegistersOnly.setVregs (b : Bough) (tr : Bool) (r l n v : Nat) :
    RegistersOnly b (b.setVregs tr r l n v) := by
  induction n generalizing b r v with
  | zero => rfl
  | succ n ih => exact (RegistersOnly.setVreg ..).trans (ih ..)

theorem RegistersOnly.setLanes (b : Bough) (tr : Bool) (r n : Nat) (m : Mask) (g : Nat → Nat) :
    RegistersOnly b (b.setLanes tr r n m g) := by
  unfold Bough.setLanes
  generalize m.list = ls
  induction ls generalizing b with
  | nil => rfl
  | cons l ls ih => exact (RegistersOnly.setVregs ..).trans (ih _)

theorem RegistersOnly.writeA (t : State) (h : Hdr) (f : FmtA) (n : Nat) (g : Nat → Nat) :
    RegistersOnly t.b (t.writeA h f n g).b := by
  unfold State.writeA; split
  · exact .setSreg ..
  · exact .setLanes ..

theorem RegistersOnly.writeI (t : State) (h : Hdr) (f : FmtI) (n : Nat) (g : Nat → Nat) :
    RegistersOnly t.b (t.writeI h f n g).b := by
  unfold State.writeI; split
  · exact .setSreg ..
  · exact .setLanes ..

theorem RegistersOnly.writePd (t : State) (h : Hdr) (pd : Pd) (g : Nat → Bool) :
    RegistersOnly t.b (t.writePd h pd g).b := .setPd ..

theorem RegistersOnly.writeSd (t : State) (f : FmtY) (v : W64) : RegistersOnly t.b (t.writeSd f v).b := .setSreg ..

/-! ## Destinations, seen through what they depend on -/

theorem vreg_congr {b c : Bough} (h1 : c.fw = b.fw) (h2 : c.vregs = b.vregs) (r l : Nat) : c.vreg r l = b.vreg r l := by
  unfold Bough.vreg Bough.banked; rw [h1, h2]

theorem guard_congr {b c : Bough} (h1 : c.emr = b.emr) (h2 : c.preds = b.preds) (h : Hdr) : c.guard h = b.guard h := by
  unfold Bough.guard Bough.pred; rw [h1, h2]

@[simp] theorem guard_issued (s : State) (i : Instr) (h : Hdr) : (s.issued i).b.guard h = s.b.guard h :=
  guard_congr (by simp) (by simp) h

@[simp] theorem sreg_issued (s : State) (i : Instr) (k : Nat) : (s.issued i).b.sreg k = s.b.sreg k := by
  unfold Bough.sreg; simp

@[simp] theorem pred_issued (s : State) (i : Instr) (k : Nat) : (s.issued i).b.pred k = s.b.pred k := by
  unfold Bough.pred; simp

@[simp] theorem banked_issued (s : State) (i : Instr) (r l : Nat) : (s.issued i).b.banked r l = s.b.banked r l := by
  unfold Bough.banked; simp

/-- A destination depends on the vector and scalar registers and the window alone. -/
theorem WritesLanes.congr {b b' c c' : Bough} {tr : Bool} {r n : Nat} {m : Mask} {g : Nat → Nat}
    (hb : b'.vregs = b.vregs) (h1 : c'.fw = c.fw) (h2 : c'.vregs = c.vregs) (h : WritesLanes b c tr r n m g) :
    WritesLanes b' c' tr r n m g := by
  refine ⟨fun l j hl hj hm => ?_, fun q l hl hq => ?_⟩
  · rw [vreg_congr h1 h2]; exact h.1 l j hl hj hm
  · have := h.2 q l hl hq
    unfold Bough.banked at *
    rw [h2, hb, this]

theorem WritesScalar.congr {b b' c c' : Bough} {r : Nat} {v : W64} (hb : b'.sregs = b.sregs)
    (h1 : c'.sregs = c.sregs) (h : WritesScalar b c r v) : WritesScalar b' c' r v := fun k => by
  have := h k
  unfold Bough.sreg at *
  rw [h1, hb, this]

theorem WritesPred.congr {b b' c c' : Bough} {pd : Pd} {m : Mask} {g : Nat → Bool} (hb : b'.preds = b.preds)
    (h1 : c'.preds = c.preds) (h : WritesPred b c pd m g) : WritesPred b' c' pd m g := fun k l hl => by
  have := h k l hl
  unfold Bough.pred at *
  rw [h1, hb, this]

theorem WritesA.congr {b b' c c' : Bough} {h : Hdr} {f : FmtA} {n : Nat} {g : Nat → Nat}
    (hb : b'.vregs = b.vregs) (hs : b'.sregs = b.sregs) (hg : b'.guard h = b.guard h)
    (h1 : c'.fw = c.fw) (h2 : c'.vregs = c.vregs) (h3 : c'.sregs = c.sregs) (k : WritesA b c h f n g) :
    WritesA b' c' h f n g := by
  unfold WritesA at *
  split <;> rename_i hk <;> simp only [hk, if_true, if_false, Bool.false_eq_true] at k
  · exact ⟨k.1.congr hs h3, by rw [h2, hb, k.2]⟩
  · exact ⟨by rw [hg]; exact k.1.congr hb h1 h2, by rw [h3, hs, k.2]⟩

theorem WritesI.congr {b b' c c' : Bough} {h : Hdr} {f : FmtI} {n : Nat} {g : Nat → Nat}
    (hb : b'.vregs = b.vregs) (hs : b'.sregs = b.sregs) (hg : b'.guard h = b.guard h)
    (h1 : c'.fw = c.fw) (h2 : c'.vregs = c.vregs) (h3 : c'.sregs = c.sregs) (k : WritesI b c h f n g) :
    WritesI b' c' h f n g := by
  unfold WritesI at *
  split <;> rename_i hk <;> simp only [hk, if_true, if_false, Bool.false_eq_true] at k
  · exact ⟨k.1.congr hs h3, by rw [h2, hb, k.2]⟩
  · exact ⟨by rw [hg]; exact k.1.congr hb h1 h2, by rw [h3, hs, k.2]⟩

/-- Leaving issue keeps the window of an instruction that does not close it. -/
theorem finish_b_fw_open {i : Instr} (hc : closes i = false) (m : Mask) (t : State) :
    (finish_ i m t).b.fw = t.b.fw := by rw [finish_b_fw, hc]; rfl

/-- The whole frame of an instruction whose effect `u` writes registers alone. -/
theorem registers_frame {i : Instr} {s u : State} (m : Mask) (h1 : OnlyBough (s.issued i) u)
    (h2 : RegistersOnly (s.issued i).b u.b) :
    OnlyBough s (finish_ i m u) ∧ RegistersOnly s.b (finish_ i m u).b :=
  ⟨((OnlyBough.issued s i).trans h1).trans (.finish ..), ((RegistersOnly.issued s i).trans h2).trans (.finish ..)⟩

theorem writesA_complete {i : Instr} {s u : State} {h : Hdr} {f : FmtA} {n : Nat} {g : Nat → Nat}
    (hc : closes i = false) (m : Mask) (k : WritesA (s.issued i).b u.b h f n g) :
    WritesA s.b (finish_ i m u).b h f n g :=
  k.congr (by simp) (by simp) (by simp) (finish_b_fw_open hc ..) (by simp) (by simp)

theorem writesI_complete {i : Instr} {s u : State} {h : Hdr} {f : FmtI} {n : Nat} {g : Nat → Nat}
    (hc : closes i = false) (m : Mask) (k : WritesI (s.issued i).b u.b h f n g) :
    WritesI s.b (finish_ i m u).b h f n g :=
  k.congr (by simp) (by simp) (by simp) (finish_b_fw_open hc ..) (by simp) (by simp)

theorem writesPred_complete {i : Instr} {s u : State} {pd : Pd} {m' : Mask} {g : Nat → Bool}
    (m : Mask) (k : WritesPred (s.issued i).b u.b pd m' g) : WritesPred s.b (finish_ i m u).b pd m' g :=
  k.congr (by simp) (by simp)

theorem writesScalar_complete {i : Instr} {s u : State} {r : Nat} {v : W64}
    (m : Mask) (k : WritesScalar (s.issued i).b u.b r v) : WritesScalar s.b (finish_ i m u).b r v :=
  k.congr (by simp) (by simp)

theorem writesLanes_complete {i : Instr} {s u : State} {tr : Bool} {r n : Nat} {m' : Mask} {g : Nat → Nat}
    (hc : closes i = false) (m : Mask) (k : WritesLanes (s.issued i).b u.b tr r n m' g) :
    WritesLanes s.b (finish_ i m u).b tr r n m' g :=
  k.congr (by simp) (finish_b_fw_open hc ..) (by simp)

/-! ## One law per shape of instruction -/

/-- An instruction of format A whose effect is to write DST. -/
theorem completesA {i : Instr} {s : State} {h : Hdr} {f : FmtA} {n : Nat} {g : Bough → Nat → Nat}
    (hc : closes i = false) (he : exec i s = issue i s fun t => .done (t.writeA h f n (g t.b))) :
    CompletesA i s h f n g := fun k =>
  ⟨_, he.trans (issue_next k rfl),
    registers_frame _ (writeA_only ..) (.writeA ..),
    by simp only [finish_b_preds]; unfold State.writeA; split <;> simp,
    writesA_complete hc _ (writeA_spec ..)⟩

/-- An instruction of format I whose effect is to write DST. -/
theorem completesI {i : Instr} {s : State} {h : Hdr} {f : FmtI} {n : Nat} {g : Bough → Nat → Nat}
    (hc : closes i = false) (he : exec i s = issue i s fun t => .done (t.writeI h f n (g t.b)))
    (k : Issues i s) :
    ∃ t : State, exec i s = Host.Outcome.next t ∧ RegisterFrame s t ∧ t.b.preds = s.b.preds ∧
      WritesI s.b t.b h f n (g (s.issued i).b) :=
  ⟨_, he.trans (issue_next k rfl),
    registers_frame _ (writeI_only ..) (.writeI ..),
    by simp only [finish_b_preds]; unfold State.writeI; split <;> simp,
    writesI_complete hc _ (writeI_spec ..)⟩

/-- The V form of an instruction that has a V and an I form. -/
theorem completesAI_a {i : Instr} {s : State} {h : Hdr} {f : FmtA} {n : FmtA → Nat}
    {g : FmtA → Bough → Nat → Nat} {g' : FmtI → Bough → Nat → Nat} (hc : closes i = false)
    (he : exec i s = issue i s fun t => .done (t.writeA h f (n f) (g f t.b))) :
    CompletesAI i s h (.a f) n g g' := completesA hc he

/-- The I form. -/
theorem completesAI_i {i : Instr} {s : State} {h : Hdr} {f : FmtI} {n : FmtA → Nat}
    {g : FmtA → Bough → Nat → Nat} {g' : FmtI → Bough → Nat → Nat} (hc : closes i = false)
    (he : exec i s = issue i s fun t => .done (t.writeI h f f.ty.regs (g' f t.b))) :
    CompletesAI i s h (.i f) n g g' := completesI (g := g' f) hc he

/-- An instruction whose effect is to write its predicate destination. -/
theorem completesPred {i : Instr} {s : State} {h : Hdr} {pd : Pd} {g : Bough → Nat → Bool}
    (he : exec i s = issue i s fun t => .done (t.writePd h pd (g t.b))) :
    CompletesPred i s h pd g := fun k =>
  ⟨_, he.trans (issue_next k rfl), registers_frame _ (writePd_only ..) (.writePd ..),
    by simp [State.writePd], by simp [State.writePd],
    by have := writePd_spec (s.issued i) h pd (g (s.issued i).b)
       rw [guard_issued] at this
       exact writesPred_complete _ this⟩

/-- An instruction of format Y whose effect is to write SD. -/
theorem completesSd {i : Instr} {s : State} {f : FmtY} {g : State → W64}
    (he : exec i s = issue i s fun t => .done (t.writeSd f (g t))) :
    CompletesSd i s f.sd (g (s.issued i)) := fun k =>
  ⟨_, he.trans (issue_next k rfl), registers_frame _ (.modB ..) (.writeSd ..),
    by simp [State.writeSd], by simp [State.writeSd], writesScalar_complete _ (sreg_setSreg _ _ _)⟩

end Sys2Proof.Machine
end

