-- ==== Sys2Proof/Laws/Memory.lean ====
section
/-! SUPPORT. Memory keeps its canonical form: at reset, and under each operation that writes it; and what a read
answers after a write. -/

namespace Sys2Proof.Machine

theorem memOk_reset : State.reset.memOk := rfl

/-- Only the memory itself counts. -/
theorem memOk_congr {s t : State} (h : t.mem = s.mem) (k : s.memOk) : t.memOk := by
  unfold State.memOk
  rw [h]
  exact k

theorem memOk_wr {s : State} (pa n v : Nat) (k : s.memOk) : (s.wr pa n v).memOk := by
  unfold State.wr
  split
  · exact k
  · exact Sparse.wf_setLE _ _ _ _ k

theorem memOk_zeroLine {s : State} (line : Nat) (k : s.memOk) : (s.zeroLine line).memOk :=
  Sparse.wf_drop _ _ _ k

/-- What launches note of a foreign write is no byte of memory. -/
theorem foreign_mem (hs : List Heart) (t : State) :
    (hs.foldl (fun t h => t.foreign h.part h.launch) t).mem = t.mem :=
  foldl_keeps (fun t : State => t.mem) (fun t h => t.foreign h.part h.launch) (fun _ _ => rfl) t hs

theorem memOk_zeroPage {s : State} (pa n : Nat) (k : s.memOk) : (s.zeroPage pa n).memOk := by
  unfold State.zeroPage
  split
  · exact memOk_congr (foreign_mem _ _) (Sparse.wf_drop s.mem pa n k)
  · exact k

/-- Bytes written at once: memory takes them, and beside it only phase copies, the lines of the die cache and
what launches note. -/
theorem poke_mem (s : State) (own pa n v : Nat) : (s.poke own pa n v).mem = Sparse.setLE s.mem pa n v := by
  unfold State.poke
  exact (foreign_mem _ _).trans (wr_mem s pa n v)

theorem memOk_poke {s : State} (own pa n v : Nat) (k : s.memOk) : (s.poke own pa n v).memOk := by
  unfold State.memOk
  rw [poke_mem]
  exact Sparse.wf_setLE _ _ _ _ k

theorem rd_poke_same (s : State) (own pa n v : Nat) : (s.poke own pa n v).rd pa n = v % 2 ^ (8 * n) := by
  unfold State.rd
  rw [poke_mem]
  exact Sparse.getLE_setLE s.mem pa n v

theorem rd_poke_other (s : State) (own pa n v a k : Nat) (h : a + k ≤ pa ∨ pa + n ≤ a) :
    (s.poke own pa n v).rd a k = s.rd a k := by
  unfold State.rd
  rw [poke_mem]
  exact Sparse.getLE_setLE_other s.mem pa n v a k h

theorem memOk_putImage {s : State} (pa n : Nat) (img : Image) (k : s.memOk) : (s.putImage pa n img).memOk := by
  show Sparse.wf _ = true
  simp only [State.putImage]
  have start : Sparse.wf (Sparse.drop s.mem pa n) = true := Sparse.wf_drop _ _ _ k
  generalize Sparse.drop s.mem pa n = m at start
  induction img generalizing m with
  | nil => exact start
  | cons w r ih =>
    rw [List.foldl_cons]
    apply ih
    split
    · exact start
    · exact Sparse.wf_setLE _ _ _ _ start

theorem memOk_putFree {s : State} (pa n : Nat) (k : s.memOk) : (s.putFree pa n).memOk := by
  induction n generalizing s pa with
  | zero => exact k
  | succ n ih =>
    rw [State.putFree]
    exact ih _ (memOk_congr (s := s.wr pa 16 (Config.freeWord s.free).toNat) rfl (memOk_wr _ _ _ k))

/-- What is written is what is read back, cut to its bytes. -/
theorem rd_wr_same (s : State) (pa n v : Nat) : (s.wr pa n v).rd pa n = v % 2 ^ (8 * n) := by
  unfold State.wr
  split
  · next h => subst h; simp [State.rd, Sparse.getLE, Nat.mod_one]
  · exact Sparse.getLE_setLE s.mem pa n v

/-- A write leaves every other byte alone. -/
theorem rd_wr_other (s : State) (pa n v a k : Nat) (h : a + k ≤ pa ∨ pa + n ≤ a) :
    (s.wr pa n v).rd a k = s.rd a k := by
  unfold State.wr
  split
  · rfl
  · exact Sparse.getLE_setLE_other s.mem pa n v a k h

/-- Handler entry (R362): what it saves and sets; every register of the bough stays. -/
theorem enterHandler_spec (s : State) (cls cause detail : Nat) (addr epc : W64) :
    let t := s.enterHandler cls cause detail addr epc
    t = { s with b := t.b } ∧ t.b.pc = (s.part s.b.part).trapvec ∧ t.b.epc = epc ∧ t.b.emask = s.b.emr ∧
      t.b.eaddr = addr ∧ t.b.sysmode = true ∧ t.b.emr = s.b.emr ∧ t.b.vregs = s.b.vregs ∧
      t.b.sregs = s.b.sregs ∧ t.b.preds = s.b.preds ∧
      t.b.ecause = BitVec.ofNat 64 (joinBits [(4, cls), (8, cause), (24, detail), (28, 0)]) :=
  ⟨rfl, rfl, rfl, rfl, rfl, rfl, rfl, rfl, rfl, rfl, rfl⟩

end Sys2Proof.Machine
end

