-- ==== Sys2Proof/Laws/PerInstr.lean ====
section
/-! SUPPORT. Laws made per instruction. The family `Coding`: the opcode of a well-formed instruction selects
the format of its payload, and gives the instruction back; a step of the device or of the host has no words. -/

namespace Sys2Proof

/-- The format of a payload's first word. -/
def Payload.format : Payload → Format
  | .a _ => .a
  | .i _ => .i
  | .m _ => .m
  | .j _ => .j
  | .e _ | .attn _ _ => .e
  | .y _ => .y
  | .mbr _ => .mbr
  | .movw _ => .movw

namespace Laws

/-- R59, R60: the opcode selects the format and, with the header and the payload, the instruction. -/
def Coding.Statement (i : Instr) : Prop :=
  i.wf = true → match i.view with
    | none => encode i = none
    | some (h, p) =>
      opcode i < 512 ∧ formatOf (opcode i) = some p.format ∧ mkInstr (opcode i) h p = some i

/-- What a family's lemma shows of an instruction whose opcode is one number. -/
theorem Coding.of_opcode {i : Instr} {h : Hdr} {p : Payload} (n : Nat) (hv : i.view = some (h, p))
    (ho : opcode i = n) (hn : Nat.blt n 512 = true) (hf : formatOf n = some p.format) (hm : mkInstr n h p = some i) :
    Coding.Statement i := by
  intro _
  rw [hv]
  exact ⟨ho ▸ Nat.blt_eq.mp hn, ho ▸ hf, ho ▸ hm⟩

/-- The same where a condition on a field selects one of two opcodes (R61). -/
theorem Coding.of_two {i : Instr} {h : Hdr} {p : Payload} {c : Prop} [Decidable c] (n m : Nat)
    (hv : i.view = some (h, p)) (ho : opcode i = if c then n else m) (hn : Nat.blt n 512 = true)
    (hm : Nat.blt m 512 = true) (fn : formatOf n = some p.format) (fm : formatOf m = some p.format)
    (mn : mkInstr n h p = some i) (mm : mkInstr m h p = some i) : Coding.Statement i := by
  by_cases k : c
  · exact of_opcode n hv (ho.trans (if_pos k)) hn fn mn
  · exact of_opcode m hv (ho.trans (if_neg k)) hm fm mm

theorem Coding.wf_variant {i : Instr} (w : i.wf = true) : i.variantOk = true := by
  simp only [Instr.wf, Bool.and_eq_true] at w
  exact w.1.2

/-- The operation codes of ATOM (R60). -/
theorem Coding.atom_codes : ∀ a : BitVec 4, decide (a.toNat ≤ 11) = true →
    a = 0 ∨ a = 1 ∨ a = 2 ∨ a = 3 ∨ a = 4 ∨ a = 5 ∨ a = 6 ∨ a = 7 ∨ a = 8 ∨ a = 9 ∨ a = 10 ∨ a = 11 := by
  decide

/-- The operation codes of RED (R60). -/
theorem Coding.red_codes : ∀ a : BitVec 4, decide (a.toNat ≤ 11) = true → (a != 9) = true →
    a = 0 ∨ a = 1 ∨ a = 2 ∨ a = 3 ∨ a = 4 ∨ a = 5 ∨ a = 6 ∨ a = 7 ∨ a = 8 ∨ a = 10 ∨ a = 11 := by
  decide

theorem Coding.iadd (h : Hdr) (f : FmtA) :
    Statement (.iadd h f) :=
  of_two 0x01 0x00 rfl rfl rfl rfl rfl rfl rfl rfl

theorem Coding.isub (h : Hdr) (f : FmtA) :
    Statement (.isub h f) :=
  of_two 0x03 0x02 rfl rfl rfl rfl rfl rfl rfl rfl

theorem Coding.imul (h : Hdr) (f : FmtA) :
    Statement (.imul h f) :=
  of_two 0x05 0x04 rfl rfl rfl rfl rfl rfl rfl rfl

theorem Coding.imulhi (h : Hdr) (f : FmtA) :
    Statement (.imulhi h f) :=
  of_opcode 0x06 rfl rfl rfl rfl rfl

theorem Coding.imad (h : Hdr) (f : FmtAI) :
    Statement (.imad h f) := by
  cases f
  · exact of_opcode 0x07 rfl rfl rfl rfl rfl
  · exact of_opcode 0x08 rfl rfl rfl rfl rfl

theorem Coding.imin (h : Hdr) (f : FmtA) :
    Statement (.imin h f) :=
  of_opcode 0x09 rfl rfl rfl rfl rfl

theorem Coding.imax (h : Hdr) (f : FmtA) :
    Statement (.imax h f) :=
  of_opcode 0x0A rfl rfl rfl rfl rfl

theorem Coding.iabs (h : Hdr) (f : FmtA) :
    Statement (.iabs h f) :=
  of_opcode 0x0B rfl rfl rfl rfl rfl

theorem Coding.icmp (h : Hdr) (f : FmtA) :
    Statement (.icmp h f) :=
  of_two 0x0D 0x0C rfl rfl rfl rfl rfl rfl rfl rfl

theorem Coding.isel (h : Hdr) (f : FmtA) :
    Statement (.isel h f) :=
  of_opcode 0x0E rfl rfl rfl rfl rfl

theorem Coding.andL (h : Hdr) (f : FmtAI) :
    Statement (.andL h f) := by
  cases f
  · exact of_opcode 0x0F rfl rfl rfl rfl rfl
  · exact of_opcode 0x10 rfl rfl rfl rfl rfl

theorem Coding.orL (h : Hdr) (f : FmtAI) :
    Statement (.orL h f) := by
  cases f
  · exact of_opcode 0x11 rfl rfl rfl rfl rfl
  · exact of_opcode 0x12 rfl rfl rfl rfl rfl

theorem Coding.xorL (h : Hdr) (f : FmtAI) :
    Statement (.xorL h f) := by
  cases f
  · exact of_opcode 0x13 rfl rfl rfl rfl rfl
  · exact of_opcode 0x14 rfl rfl rfl rfl rfl

theorem Coding.notL (h : Hdr) (f : FmtA) :
    Statement (.notL h f) :=
  of_opcode 0x15 rfl rfl rfl rfl rfl

theorem Coding.tern (h : Hdr) (f : FmtA) :
    Statement (.tern h f) :=
  of_opcode 0x16 rfl rfl rfl rfl rfl

theorem Coding.shl (h : Hdr) (f : FmtA) :
    Statement (.shl h f) :=
  of_two 0x18 0x17 rfl rfl rfl rfl rfl rfl rfl rfl

theorem Coding.shr (h : Hdr) (f : FmtA) :
    Statement (.shr h f) :=
  of_two 0x1A 0x19 rfl rfl rfl rfl rfl rfl rfl rfl

theorem Coding.sha (h : Hdr) (f : FmtA) :
    Statement (.sha h f) :=
  of_opcode 0x1B rfl rfl rfl rfl rfl

theorem Coding.fshl (h : Hdr) (f : FmtA) :
    Statement (.fshl h f) :=
  of_opcode 0x1C rfl rfl rfl rfl rfl

theorem Coding.fshr (h : Hdr) (f : FmtA) :
    Statement (.fshr h f) :=
  of_opcode 0x1D rfl rfl rfl rfl rfl

theorem Coding.popc (h : Hdr) (f : FmtA) :
    Statement (.popc h f) :=
  of_opcode 0x1E rfl rfl rfl rfl rfl

theorem Coding.clz (h : Hdr) (f : FmtA) :
    Statement (.clz h f) :=
  of_opcode 0x1F rfl rfl rfl rfl rfl

theorem Coding.brev (h : Hdr) (f : FmtA) :
    Statement (.brev h f) :=
  of_opcode 0x20 rfl rfl rfl rfl rfl

theorem Coding.bfx (h : Hdr) (f : FmtA) :
    Statement (.bfx h f) :=
  of_opcode 0x21 rfl rfl rfl rfl rfl

theorem Coding.bfi (h : Hdr) (f : FmtA) :
    Statement (.bfi h f) :=
  of_opcode 0x22 rfl rfl rfl rfl rfl

theorem Coding.bsel (h : Hdr) (f : FmtA) :
    Statement (.bsel h f) :=
  of_opcode 0x23 rfl rfl rfl rfl rfl

theorem Coding.mov (h : Hdr) (f : FmtA) :
    Statement (.mov h f) :=
  of_two 0x25 0x24 rfl rfl rfl rfl rfl rfl rfl rfl

theorem Coding.movi (h : Hdr) (f : FmtI) :
    Statement (.movi h f) :=
  of_two 0x27 0x26 rfl rfl rfl rfl rfl rfl rfl rfl

theorem Coding.movw (h : Hdr) (f : FmtMovw) :
    Statement (.movw h f) :=
  of_opcode 0x28 rfl rfl rfl rfl rfl

theorem Coding.laneid (h : Hdr) (f : FmtA) :
    Statement (.laneid h f) :=
  of_opcode 0x29 rfl rfl rfl rfl rfl

theorem Coding.xlane (h : Hdr) (f : FmtA) :
    Statement (.xlane h f) :=
  of_opcode 0x2A rfl rfl rfl rfl rfl

theorem Coding.vote (h : Hdr) (f : FmtA) :
    Statement (.vote h f) :=
  of_opcode 0x2B rfl rfl rfl rfl rfl

theorem Coding.plop (h : Hdr) (f : FmtA) :
    Statement (.plop h f) :=
  of_opcode 0x2C rfl rfl rfl rfl rfl

theorem Coding.pmov (h : Hdr) (f : FmtA) :
    Statement (.pmov h f) :=
  of_opcode 0x2D rfl rfl rfl rfl rfl

theorem Coding.lnset (h : Hdr) (f : FmtY) :
    Statement (.lnset h f) :=
  of_opcode 0x2E rfl rfl rfl rfl rfl

theorem Coding.lnadv (h : Hdr) (f : FmtY) :
    Statement (.lnadv h f) :=
  of_opcode 0x2F rfl rfl rfl rfl rfl

theorem Coding.lnget (h : Hdr) (f : FmtY) :
    Statement (.lnget h f) :=
  of_opcode 0x30 rfl rfl rfl rfl rfl

theorem Coding.coef (h : Hdr) (f : FmtY) :
    Statement (.coef h f) :=
  of_opcode 0x31 rfl rfl rfl rfl rfl

theorem Coding.addr (h : Hdr) (f : FmtM) :
    Statement (.addr h f) :=
  of_opcode 0x32 rfl rfl rfl rfl rfl

theorem Coding.rep (h : Hdr) (f : FmtY) :
    Statement (.rep h f) :=
  of_opcode 0x33 rfl rfl rfl rfl rfl

theorem Coding.fadd (h : Hdr) (f : FmtAI) :
    Statement (.fadd h f) := by
  cases f
  · exact of_opcode 0x40 rfl rfl rfl rfl rfl
  · exact of_opcode 0x41 rfl rfl rfl rfl rfl

theorem Coding.fsub (h : Hdr) (f : FmtAI) :
    Statement (.fsub h f) := by
  cases f
  · exact of_opcode 0x42 rfl rfl rfl rfl rfl
  · exact of_opcode 0x43 rfl rfl rfl rfl rfl

theorem Coding.fmul (h : Hdr) (f : FmtAI) :
    Statement (.fmul h f) := by
  cases f
  · exact of_opcode 0x44 rfl rfl rfl rfl rfl
  · exact of_opcode 0x45 rfl rfl rfl rfl rfl

theorem Coding.ffma (h : Hdr) (f : FmtAI) :
    Statement (.ffma h f) := by
  cases f
  · exact of_opcode 0x46 rfl rfl rfl rfl rfl
  · exact of_opcode 0x47 rfl rfl rfl rfl rfl

theorem Coding.fmin (num : Bool) (h : Hdr) (f : FmtAI) :
    Statement (.fmin num h f) := by
  cases num <;> cases f
  · exact of_opcode 0x48 rfl rfl rfl rfl rfl
  · exact of_opcode 0x49 rfl rfl rfl rfl rfl
  · exact of_opcode 0x4A rfl rfl rfl rfl rfl
  · exact of_opcode 0x4B rfl rfl rfl rfl rfl

theorem Coding.fmax (num : Bool) (h : Hdr) (f : FmtAI) :
    Statement (.fmax num h f) := by
  cases num <;> cases f
  · exact of_opcode 0x4C rfl rfl rfl rfl rfl
  · exact of_opcode 0x4D rfl rfl rfl rfl rfl
  · exact of_opcode 0x4E rfl rfl rfl rfl rfl
  · exact of_opcode 0x4F rfl rfl rfl rfl rfl

theorem Coding.fcmp (h : Hdr) (f : FmtAI) :
    Statement (.fcmp h f) := by
  cases f
  · exact of_opcode 0x50 rfl rfl rfl rfl rfl
  · exact of_opcode 0x51 rfl rfl rfl rfl rfl

theorem Coding.fclass (h : Hdr) (f : FmtA) :
    Statement (.fclass h f) :=
  of_opcode 0x52 rfl rfl rfl rfl rfl

theorem Coding.frcp (h : Hdr) (f : FmtA) :
    Statement (.frcp h f) :=
  of_opcode 0x53 rfl rfl rfl rfl rfl

theorem Coding.frsq (h : Hdr) (f : FmtA) :
    Statement (.frsq h f) :=
  of_opcode 0x54 rfl rfl rfl rfl rfl

theorem Coding.fsqrt (h : Hdr) (f : FmtA) :
    Statement (.fsqrt h f) :=
  of_opcode 0x55 rfl rfl rfl rfl rfl

theorem Coding.fdiv (h : Hdr) (f : FmtA) :
    Statement (.fdiv h f) :=
  of_opcode 0x56 rfl rfl rfl rfl rfl

theorem Coding.fexp2 (h : Hdr) (f : FmtA) :
    Statement (.fexp2 h f) :=
  of_opcode 0x57 rfl rfl rfl rfl rfl

theorem Coding.flog2 (h : Hdr) (f : FmtA) :
    Statement (.flog2 h f) :=
  of_opcode 0x58 rfl rfl rfl rfl rfl

theorem Coding.fsin (h : Hdr) (f : FmtA) :
    Statement (.fsin h f) :=
  of_opcode 0x59 rfl rfl rfl rfl rfl

theorem Coding.fcos (h : Hdr) (f : FmtA) :
    Statement (.fcos h f) :=
  of_opcode 0x5A rfl rfl rfl rfl rfl

theorem Coding.ftanh (h : Hdr) (f : FmtA) :
    Statement (.ftanh h f) :=
  of_opcode 0x5B rfl rfl rfl rfl rfl

theorem Coding.fsigm (h : Hdr) (f : FmtA) :
    Statement (.fsigm h f) :=
  of_opcode 0x76 rfl rfl rfl rfl rfl

theorem Coding.ferf (h : Hdr) (f : FmtA) :
    Statement (.ferf h f) :=
  of_opcode 0x77 rfl rfl rfl rfl rfl

theorem Coding.frnd (h : Hdr) (f : FmtA) :
    Statement (.frnd h f) :=
  of_opcode 0x5C rfl rfl rfl rfl rfl

theorem Coding.fscale (h : Hdr) (f : FmtA) :
    Statement (.fscale h f) :=
  of_opcode 0x5D rfl rfl rfl rfl rfl

theorem Coding.hadd2 (h : Hdr) (f : FmtA) :
    Statement (.hadd2 h f) :=
  of_opcode 0x5E rfl rfl rfl rfl rfl

theorem Coding.hmul2 (h : Hdr) (f : FmtA) :
    Statement (.hmul2 h f) :=
  of_opcode 0x5F rfl rfl rfl rfl rfl

theorem Coding.hfma2 (h : Hdr) (f : FmtA) :
    Statement (.hfma2 h f) :=
  of_opcode 0x60 rfl rfl rfl rfl rfl

theorem Coding.hmin2 (h : Hdr) (f : FmtA) :
    Statement (.hmin2 h f) :=
  of_opcode 0x61 rfl rfl rfl rfl rfl

theorem Coding.hmax2 (h : Hdr) (f : FmtA) :
    Statement (.hmax2 h f) :=
  of_opcode 0x62 rfl rfl rfl rfl rfl

theorem Coding.ffmaw (h : Hdr) (f : FmtA) :
    Statement (.ffmaw h f) :=
  of_opcode 0x63 rfl rfl rfl rfl rfl

theorem Coding.cvtFf (h : Hdr) (f : FmtA) :
    Statement (.cvtFf h f) :=
  of_opcode 0x64 rfl rfl rfl rfl rfl

theorem Coding.cvtFi (h : Hdr) (f : FmtA) :
    Statement (.cvtFi h f) :=
  of_opcode 0x65 rfl rfl rfl rfl rfl

theorem Coding.cvtIf (h : Hdr) (f : FmtA) :
    Statement (.cvtIf h f) :=
  of_opcode 0x66 rfl rfl rfl rfl rfl

theorem Coding.cvtIi (h : Hdr) (f : FmtA) :
    Statement (.cvtIi h f) :=
  of_opcode 0x67 rfl rfl rfl rfl rfl

theorem Coding.cvtPack (h : Hdr) (f : FmtA) :
    Statement (.cvtPack h f) :=
  of_opcode 0x68 rfl rfl rfl rfl rfl

theorem Coding.cvtUnpack (h : Hdr) (f : FmtA) :
    Statement (.cvtUnpack h f) :=
  of_opcode 0x69 rfl rfl rfl rfl rfl

theorem Coding.cvtb (h : Hdr) (f : FmtA) :
    Statement (.cvtb h f) :=
  of_two 0x6B 0x6A rfl rfl rfl rfl rfl rfl rfl rfl

theorem Coding.unpk (h : Hdr) (f : FmtA) :
    Statement (.unpk h f) :=
  of_opcode 0x6C rfl rfl rfl rfl rfl

theorem Coding.dot16 (h : Hdr) (f : FmtA) :
    Statement (.dot16 h f) :=
  of_two 0x6E 0x6D rfl rfl rfl rfl rfl rfl rfl rfl

theorem Coding.dot4 (h : Hdr) (f : FmtA) :
    Statement (.dot4 h f) :=
  of_two 0x70 0x6F rfl rfl rfl rfl rfl rfl rfl rfl

theorem Coding.dot8 (h : Hdr) (f : FmtA) :
    Statement (.dot8 h f) :=
  of_opcode 0x71 rfl rfl rfl rfl rfl

theorem Coding.fmtset (h : Hdr) (f : FmtY) :
    Statement (.fmtset h f) :=
  of_opcode 0x72 rfl rfl rfl rfl rfl

theorem Coding.fmtget (h : Hdr) (f : FmtY) :
    Statement (.fmtget h f) :=
  of_opcode 0x73 rfl rfl rfl rfl rfl

theorem Coding.fmtmod (h : Hdr) (f : FmtY) :
    Statement (.fmtmod h f) :=
  of_opcode 0x74 rfl rfl rfl rfl rfl

theorem Coding.dith (h : Hdr) (f : FmtA) :
    Statement (.dith h f) :=
  of_opcode 0x75 rfl rfl rfl rfl rfl

theorem Coding.bra (h : Hdr) (f : FmtJ) :
    Statement (.bra h f) :=
  of_opcode 0x80 rfl rfl rfl rfl rfl

theorem Coding.brc (h : Hdr) (f : FmtJ) :
    Statement (.brc h f) :=
  of_opcode 0x81 rfl rfl rfl rfl rfl

theorem Coding.mbr (h : Hdr) (f : FmtMbr) :
    Statement (.mbr h f) :=
  of_opcode 0x82 rfl rfl rfl rfl rfl

theorem Coding.jmpi (h : Hdr) (f : FmtJ) :
    Statement (.jmpi h f) :=
  of_opcode 0x83 rfl rfl rfl rfl rfl

theorem Coding.call (h : Hdr) (f : FmtJ) :
    Statement (.call h f) :=
  of_opcode 0x84 rfl rfl rfl rfl rfl

theorem Coding.callIndirect (h : Hdr) (f : FmtJ) :
    Statement (.callIndirect h f) :=
  of_opcode 0x85 rfl rfl rfl rfl rfl

theorem Coding.ret (h : Hdr) (f : FmtJ) :
    Statement (.ret h f) :=
  of_opcode 0x86 rfl rfl rfl rfl rfl

theorem Coding.exit (h : Hdr) (f : FmtY) :
    Statement (.exit h f) :=
  of_opcode 0x87 rfl rfl rfl rfl rfl

theorem Coding.nop (h : Hdr) (f : FmtY) :
    Statement (.nop h f) :=
  of_opcode 0x88 rfl rfl rfl rfl rfl

theorem Coding.yield (h : Hdr) (f : FmtY) :
    Statement (.yield h f) :=
  of_opcode 0x89 rfl rfl rfl rfl rfl

theorem Coding.emrget (h : Hdr) (f : FmtY) :
    Statement (.emrget h f) :=
  of_opcode 0x8A rfl rfl rfl rfl rfl

theorem Coding.emrset (h : Hdr) (f : FmtY) :
    Statement (.emrset h f) :=
  of_opcode 0x8B rfl rfl rfl rfl rfl

theorem Coding.join (h : Hdr) (f : FmtJ) :
    Statement (.join h f) :=
  of_opcode 0x8C rfl rfl rfl rfl rfl

theorem Coding.rfenter (h : Hdr) (f : FmtY) :
    Statement (.rfenter h f) :=
  of_opcode 0x8D rfl rfl rfl rfl rfl

theorem Coding.refill (h : Hdr) (f : FmtY) :
    Statement (.refill h f) :=
  of_opcode 0x8E rfl rfl rfl rfl rfl

theorem Coding.refillLast (h : Hdr) (f : FmtY) :
    Statement (.refillLast h f) :=
  of_opcode 0x8F rfl rfl rfl rfl rfl

theorem Coding.rfinfo (h : Hdr) (f : FmtY) :
    Statement (.rfinfo h f) :=
  of_opcode 0x90 rfl rfl rfl rfl rfl

theorem Coding.rfexit (h : Hdr) (f : FmtY) :
    Statement (.rfexit h f) :=
  of_opcode 0x91 rfl rfl rfl rfl rfl

theorem Coding.waitf (h : Hdr) (f : FmtY) :
    Statement (.waitf h f) :=
  of_opcode 0x92 rfl rfl rfl rfl rfl

theorem Coding.brx (h : Hdr) (f : FmtJ) :
    Statement (.brx h f) :=
  of_opcode 0x93 rfl rfl rfl rfl rfl

theorem Coding.loop (h : Hdr) (f : FmtJ) :
    Statement (.loop h f) :=
  of_opcode 0x94 rfl rfl rfl rfl rfl

theorem Coding.splitq (h : Hdr) (f : FmtY) :
    Statement (.splitq h f) :=
  of_opcode 0x95 rfl rfl rfl rfl rfl

theorem Coding.rfskip (h : Hdr) (f : FmtY) :
    Statement (.rfskip h f) :=
  of_opcode 0x96 rfl rfl rfl rfl rfl

theorem Coding.setpri (h : Hdr) (f : FmtY) :
    Statement (.setpri h f) :=
  of_opcode 0x97 rfl rfl rfl rfl rfl

theorem Coding.ld (h : Hdr) (f : FmtM) :
    Statement (.ld h f) := by
  obtain ⟨_, _, _, sp, am, _, _, _, _, _, _, _, _⟩ := f
  cases sp <;> cases am
  · exact of_opcode 0xc0 rfl rfl rfl rfl rfl
  · exact of_opcode 0xc4 rfl rfl rfl rfl rfl
  · exact of_opcode 0xc2 rfl rfl rfl rfl rfl
  · exact of_opcode 0xc1 rfl rfl rfl rfl rfl
  · exact of_opcode 0xc5 rfl rfl rfl rfl rfl
  · exact of_opcode 0xc3 rfl rfl rfl rfl rfl
  · exact of_opcode 0xc0 rfl rfl rfl rfl rfl
  · exact of_opcode 0xc4 rfl rfl rfl rfl rfl
  · exact of_opcode 0xc2 rfl rfl rfl rfl rfl

theorem Coding.st (h : Hdr) (f : FmtM) :
    Statement (.st h f) := by
  obtain ⟨_, _, _, sp, am, _, _, _, _, _, _, _, _⟩ := f
  cases sp <;> cases am
  · exact of_opcode 0xc6 rfl rfl rfl rfl rfl
  · exact of_opcode 0xca rfl rfl rfl rfl rfl
  · exact of_opcode 0xc8 rfl rfl rfl rfl rfl
  · exact of_opcode 0xc7 rfl rfl rfl rfl rfl
  · exact of_opcode 0xcb rfl rfl rfl rfl rfl
  · exact of_opcode 0xc9 rfl rfl rfl rfl rfl
  · exact of_opcode 0xc6 rfl rfl rfl rfl rfl
  · exact of_opcode 0xca rfl rfl rfl rfl rfl
  · exact of_opcode 0xc8 rfl rfl rfl rfl rfl

theorem Coding.ldro (h : Hdr) (f : FmtM) :
    Statement (.ldro h f) := by
  obtain ⟨_, _, _, sp, am, _, _, _, _, _, _, _, _⟩ := f
  cases am
  · exact of_opcode 0xcc rfl rfl rfl rfl rfl
  · exact of_opcode 0xcc rfl rfl rfl rfl rfl
  · exact of_opcode 0xcd rfl rfl rfl rfl rfl

theorem Coding.prefL1 (h : Hdr) (f : FmtM) :
    Statement (.prefL1 h f) :=
  of_opcode 0xCE rfl rfl rfl rfl rfl

theorem Coding.prefDie (h : Hdr) (f : FmtM) :
    Statement (.prefDie h f) :=
  of_opcode 0xCF rfl rfl rfl rfl rfl

theorem Coding.acopy (srcLocal dstLocal : Bool) (h : Hdr) (f : FmtE) :
    Statement (.acopy srcLocal dstLocal h f) := by
  cases srcLocal <;> cases dstLocal
  · exact of_opcode 0xD2 rfl rfl rfl rfl rfl
  · exact of_opcode 0xD0 rfl rfl rfl rfl rfl
  · exact of_opcode 0xD1 rfl rfl rfl rfl rfl
  · exact of_opcode 0xD3 rfl rfl rfl rfl rfl

theorem Coding.agather (h : Hdr) (f : FmtE) :
    Statement (.agather h f) :=
  of_opcode 0xD4 rfl rfl rfl rfl rfl

theorem Coding.ascatter (h : Hdr) (f : FmtE) :
    Statement (.ascatter h f) :=
  of_opcode 0xD5 rfl rfl rfl rfl rfl

theorem Coding.acoll (h : Hdr) (f : FmtE) :
    Statement (.acoll h f) :=
  of_opcode 0xD6 rfl rfl rfl rfl rfl

theorem Coding.afill (h : Hdr) (f : FmtE) :
    Statement (.afill h f) :=
  of_opcode 0xD7 rfl rfl rfl rfl rfl

theorem Coding.bankrole (h : Hdr) (f : FmtY) :
    Statement (.bankrole h f) :=
  of_opcode 0xD8 rfl rfl rfl rfl rfl

theorem Coding.bankq (h : Hdr) (f : FmtY) :
    Statement (.bankq h f) :=
  of_opcode 0xD9 rfl rfl rfl rfl rfl

theorem Coding.cinvSys (h : Hdr) (f : FmtY) :
    Statement (.cinvSys h f) :=
  of_opcode 0xDA rfl rfl rfl rfl rfl

theorem Coding.cinvRo (h : Hdr) (f : FmtY) :
    Statement (.cinvRo h f) :=
  of_opcode 0xDB rfl rfl rfl rfl rfl

theorem Coding.zline (h : Hdr) (f : FmtM) :
    Statement (.zline h f) :=
  of_opcode 0xDC rfl rfl rfl rfl rfl

theorem Coding.xprobe (h : Hdr) (f : FmtM) :
    Statement (.xprobe h f) :=
  of_opcode 0xDD rfl rfl rfl rfl rfl

theorem Coding.toktest (h : Hdr) (f : FmtY) :
    Statement (.toktest h f) :=
  of_opcode 0xDE rfl rfl rfl rfl rfl

theorem Coding.atom (h : Hdr) (f : FmtM) :
    Statement (.atom h f) := by
  intro w
  obtain ⟨_, _, _, sp, am, _, _, _, aop, _, _, _, _⟩ := f
  have k := wf_variant w
  simp only [Instr.variantOk, Bool.and_eq_true] at k
  have c := atom_codes _ k.2
  revert w
  rcases c with rfl | rfl | rfl | rfl | rfl | rfl | rfl | rfl | rfl | rfl | rfl | rfl <;> cases am
  · exact of_opcode 0x100 rfl rfl rfl rfl rfl
  · exact of_opcode 0x101 rfl rfl rfl rfl rfl
  · exact of_opcode 0x100 rfl rfl rfl rfl rfl
  · exact of_opcode 0x102 rfl rfl rfl rfl rfl
  · exact of_opcode 0x103 rfl rfl rfl rfl rfl
  · exact of_opcode 0x102 rfl rfl rfl rfl rfl
  · exact of_opcode 0x104 rfl rfl rfl rfl rfl
  · exact of_opcode 0x105 rfl rfl rfl rfl rfl
  · exact of_opcode 0x104 rfl rfl rfl rfl rfl
  · exact of_opcode 0x106 rfl rfl rfl rfl rfl
  · exact of_opcode 0x107 rfl rfl rfl rfl rfl
  · exact of_opcode 0x106 rfl rfl rfl rfl rfl
  · exact of_opcode 0x108 rfl rfl rfl rfl rfl
  · exact of_opcode 0x109 rfl rfl rfl rfl rfl
  · exact of_opcode 0x108 rfl rfl rfl rfl rfl
  · exact of_opcode 0x10a rfl rfl rfl rfl rfl
  · exact of_opcode 0x10b rfl rfl rfl rfl rfl
  · exact of_opcode 0x10a rfl rfl rfl rfl rfl
  · exact of_opcode 0x10c rfl rfl rfl rfl rfl
  · exact of_opcode 0x10d rfl rfl rfl rfl rfl
  · exact of_opcode 0x10c rfl rfl rfl rfl rfl
  · exact of_opcode 0x10e rfl rfl rfl rfl rfl
  · exact of_opcode 0x10f rfl rfl rfl rfl rfl
  · exact of_opcode 0x10e rfl rfl rfl rfl rfl
  · exact of_opcode 0x110 rfl rfl rfl rfl rfl
  · exact of_opcode 0x111 rfl rfl rfl rfl rfl
  · exact of_opcode 0x110 rfl rfl rfl rfl rfl
  · exact of_opcode 0x112 rfl rfl rfl rfl rfl
  · exact of_opcode 0x113 rfl rfl rfl rfl rfl
  · exact of_opcode 0x112 rfl rfl rfl rfl rfl
  · exact of_opcode 0x114 rfl rfl rfl rfl rfl
  · exact of_opcode 0x115 rfl rfl rfl rfl rfl
  · exact of_opcode 0x114 rfl rfl rfl rfl rfl
  · exact of_opcode 0x116 rfl rfl rfl rfl rfl
  · exact of_opcode 0x117 rfl rfl rfl rfl rfl
  · exact of_opcode 0x116 rfl rfl rfl rfl rfl

theorem Coding.red (h : Hdr) (f : FmtM) :
    Statement (.red h f) := by
  intro w
  obtain ⟨_, _, _, sp, am, _, _, _, aop, _, _, _, _⟩ := f
  have k := wf_variant w
  simp only [Instr.variantOk, Bool.and_eq_true] at k
  have c := red_codes _ k.1.2 k.2
  revert w
  rcases c with rfl | rfl | rfl | rfl | rfl | rfl | rfl | rfl | rfl | rfl | rfl <;> cases am
  · exact of_opcode 0x118 rfl rfl rfl rfl rfl
  · exact of_opcode 0x119 rfl rfl rfl rfl rfl
  · exact of_opcode 0x118 rfl rfl rfl rfl rfl
  · exact of_opcode 0x11a rfl rfl rfl rfl rfl
  · exact of_opcode 0x11b rfl rfl rfl rfl rfl
  · exact of_opcode 0x11a rfl rfl rfl rfl rfl
  · exact of_opcode 0x11c rfl rfl rfl rfl rfl
  · exact of_opcode 0x11d rfl rfl rfl rfl rfl
  · exact of_opcode 0x11c rfl rfl rfl rfl rfl
  · exact of_opcode 0x11e rfl rfl rfl rfl rfl
  · exact of_opcode 0x11f rfl rfl rfl rfl rfl
  · exact of_opcode 0x11e rfl rfl rfl rfl rfl
  · exact of_opcode 0x120 rfl rfl rfl rfl rfl
  · exact of_opcode 0x121 rfl rfl rfl rfl rfl
  · exact of_opcode 0x120 rfl rfl rfl rfl rfl
  · exact of_opcode 0x122 rfl rfl rfl rfl rfl
  · exact of_opcode 0x123 rfl rfl rfl rfl rfl
  · exact of_opcode 0x122 rfl rfl rfl rfl rfl
  · exact of_opcode 0x124 rfl rfl rfl rfl rfl
  · exact of_opcode 0x125 rfl rfl rfl rfl rfl
  · exact of_opcode 0x124 rfl rfl rfl rfl rfl
  · exact of_opcode 0x126 rfl rfl rfl rfl rfl
  · exact of_opcode 0x127 rfl rfl rfl rfl rfl
  · exact of_opcode 0x126 rfl rfl rfl rfl rfl
  · exact of_opcode 0x128 rfl rfl rfl rfl rfl
  · exact of_opcode 0x129 rfl rfl rfl rfl rfl
  · exact of_opcode 0x128 rfl rfl rfl rfl rfl
  · exact of_opcode 0x12a rfl rfl rfl rfl rfl
  · exact of_opcode 0x12b rfl rfl rfl rfl rfl
  · exact of_opcode 0x12a rfl rfl rfl rfl rfl
  · exact of_opcode 0x12c rfl rfl rfl rfl rfl
  · exact of_opcode 0x12d rfl rfl rfl rfl rfl
  · exact of_opcode 0x12c rfl rfl rfl rfl rfl

theorem Coding.cas (h : Hdr) (f : FmtM) :
    Statement (.cas h f) := by
  obtain ⟨_, _, _, _, am, _, sz, _, _, _, _, _, _⟩ := f
  cases sz <;> cases am
  · exact of_opcode 0x132 rfl rfl rfl rfl rfl
  · exact of_opcode 0x133 rfl rfl rfl rfl rfl
  · exact of_opcode 0x132 rfl rfl rfl rfl rfl
  · exact of_opcode 0x132 rfl rfl rfl rfl rfl
  · exact of_opcode 0x133 rfl rfl rfl rfl rfl
  · exact of_opcode 0x132 rfl rfl rfl rfl rfl
  · exact of_opcode 0x12e rfl rfl rfl rfl rfl
  · exact of_opcode 0x12f rfl rfl rfl rfl rfl
  · exact of_opcode 0x12e rfl rfl rfl rfl rfl
  · exact of_opcode 0x130 rfl rfl rfl rfl rfl
  · exact of_opcode 0x131 rfl rfl rfl rfl rfl
  · exact of_opcode 0x130 rfl rfl rfl rfl rfl
  · exact of_opcode 0x132 rfl rfl rfl rfl rfl
  · exact of_opcode 0x133 rfl rfl rfl rfl rfl
  · exact of_opcode 0x132 rfl rfl rfl rfl rfl

theorem Coding.bar (h : Hdr) (f : FmtY) :
    Statement (.bar h f) :=
  of_opcode 0x134 rfl rfl rfl rfl rfl

theorem Coding.barArrive (h : Hdr) (f : FmtY) :
    Statement (.barArrive h f) :=
  of_opcode 0x135 rfl rfl rfl rfl rfl

theorem Coding.barWait (h : Hdr) (f : FmtY) :
    Statement (.barWait h f) :=
  of_opcode 0x136 rfl rfl rfl rfl rfl

theorem Coding.gbar (h : Hdr) (f : FmtY) :
    Statement (.gbar h f) :=
  of_opcode 0x137 rfl rfl rfl rfl rfl

theorem Coding.lcadd (h : Hdr) (f : FmtM) :
    Statement (.lcadd h f) :=
  of_opcode 0x138 rfl rfl rfl rfl rfl

theorem Coding.lcread (h : Hdr) (f : FmtM) :
    Statement (.lcread h f) :=
  of_opcode 0x139 rfl rfl rfl rfl rfl

theorem Coding.lcmerge (h : Hdr) (f : FmtM) :
    Statement (.lcmerge h f) :=
  of_opcode 0x13A rfl rfl rfl rfl rfl

theorem Coding.lcbase (h : Hdr) (f : FmtY) :
    Statement (.lcbase h f) :=
  of_opcode 0x13B rfl rfl rfl rfl rfl

theorem Coding.lcseed (h : Hdr) (f : FmtY) :
    Statement (.lcseed h f) :=
  of_opcode 0x13C rfl rfl rfl rfl rfl

theorem Coding.opclaim (h : Hdr) (f : FmtY) :
    Statement (.opclaim h f) :=
  of_opcode 0x140 rfl rfl rfl rfl rfl

theorem Coding.oprel (h : Hdr) (f : FmtY) :
    Statement (.oprel h f) :=
  of_opcode 0x141 rfl rfl rfl rfl rfl

theorem Coding.opfill (glob : Bool) (h : Hdr) (f : FmtE) :
    Statement (.opfill glob h f) := by
  cases glob
  · exact of_opcode 0x142 rfl rfl rfl rfl rfl
  · exact of_opcode 0x143 rfl rfl rfl rfl rfl

theorem Coding.layout (h : Hdr) (f : FmtY) :
    Statement (.layout h f) :=
  of_opcode 0x144 rfl rfl rfl rfl rfl

theorem Coding.bankcnt (h : Hdr) (f : FmtY) :
    Statement (.bankcnt h f) :=
  of_opcode 0x145 rfl rfl rfl rfl rfl

theorem Coding.mma (ovr : Bool) (h : Hdr) (f : FmtE) :
    Statement (.mma ovr h f) := by
  cases ovr
  · exact of_opcode 0x146 rfl rfl rfl rfl rfl
  · exact of_opcode 0x147 rfl rfl rfl rfl rfl

theorem Coding.mmas (ovr : Bool) (h : Hdr) (f : FmtE) :
    Statement (.mmas ovr h f) := by
  cases ovr
  · exact of_opcode 0x148 rfl rfl rfl rfl rfl
  · exact of_opcode 0x149 rfl rfl rfl rfl rfl

theorem Coding.accld (loc : Bool) (h : Hdr) (f : FmtE) :
    Statement (.accld loc h f) := by
  cases loc
  · exact of_opcode 0x14A rfl rfl rfl rfl rfl
  · exact of_opcode 0x14B rfl rfl rfl rfl rfl

theorem Coding.accst (loc : Bool) (h : Hdr) (f : FmtE) :
    Statement (.accst loc h f) := by
  cases loc
  · exact of_opcode 0x14C rfl rfl rfl rfl rfl
  · exact of_opcode 0x14D rfl rfl rfl rfl rfl

theorem Coding.acczero (h : Hdr) (f : FmtE) :
    Statement (.acczero h f) :=
  of_opcode 0x14E rfl rfl rfl rfl rfl

theorem Coding.acccvt (rs : Bool) (h : Hdr) (f : FmtE) :
    Statement (.acccvt rs h f) := by
  cases rs
  · exact of_opcode 0x14F rfl rfl rfl rfl rfl
  · exact of_opcode 0x150 rfl rfl rfl rfl rfl

theorem Coding.accscale (h : Hdr) (f : FmtE) :
    Statement (.accscale h f) :=
  of_opcode 0x151 rfl rfl rfl rfl rfl

theorem Coding.attn (full : Option AttnMask) (h : Hdr) (f : FmtE) :
    Statement (.attn full h f) := by
  cases full
  · exact of_opcode 0x152 rfl rfl rfl rfl rfl
  · exact of_opcode 0x152 rfl rfl rfl rfl rfl

theorem Coding.smerge (h : Hdr) (f : FmtE) :
    Statement (.smerge h f) :=
  of_opcode 0x153 rfl rfl rfl rfl rfl

theorem Coding.kvgather (h : Hdr) (f : FmtE) :
    Statement (.kvgather h f) :=
  of_opcode 0x154 rfl rfl rfl rfl rfl

theorem Coding.kvappend (h : Hdr) (f : FmtE) :
    Statement (.kvappend h f) :=
  of_opcode 0x155 rfl rfl rfl rfl rfl

theorem Coding.seqcommit (h : Hdr) (f : FmtY) :
    Statement (.seqcommit h f) := by
  intro w
  obtain ⟨_, _, _, _, _, _, sub, _⟩ := f
  obtain rfl : sub = 0 := eq_of_beq (wf_variant w)
  exact (of_opcode 0x156 rfl rfl rfl rfl rfl : Statement _) w

theorem Coding.seqcommitFork (h : Hdr) (f : FmtY) :
    Statement (.seqcommitFork h f) := by
  intro w
  obtain ⟨_, _, _, _, _, _, sub, _⟩ := f
  obtain rfl : sub = 1 := eq_of_beq (wf_variant w)
  exact (of_opcode 0x156 rfl rfl rfl rfl rfl : Statement _) w

theorem Coding.seqcommitRel (h : Hdr) (f : FmtY) :
    Statement (.seqcommitRel h f) := by
  intro w
  obtain ⟨_, _, _, _, _, _, sub, _⟩ := f
  obtain rfl : sub = 2 := eq_of_beq (wf_variant w)
  exact (of_opcode 0x156 rfl rfl rfl rfl rfl : Statement _) w

theorem Coding.seqinfo (h : Hdr) (f : FmtY) :
    Statement (.seqinfo h f) :=
  of_opcode 0x157 rfl rfl rfl rfl rfl

theorem Coding.tspawn (nb : Bool) (h : Hdr) (f : FmtY) :
    Statement (.tspawn nb h f) := by
  cases nb
  · exact of_opcode 0x180 rfl rfl rfl rfl rfl
  · exact of_opcode 0x181 rfl rfl rfl rfl rfl

theorem Coding.twait (nb : Bool) (h : Hdr) (f : FmtY) :
    Statement (.twait nb h f) := by
  cases nb
  · exact of_opcode 0x182 rfl rfl rfl rfl rfl
  · exact of_opcode 0x183 rfl rfl rfl rfl rfl

theorem Coding.tfillFut (h : Hdr) (f : FmtY) :
    Statement (.tfillFut h f) := by
  intro w
  obtain ⟨_, _, _, _, _, _, sub, _⟩ := f
  obtain rfl : sub = 0 := eq_of_beq (wf_variant w)
  exact (of_opcode 0x184 rfl rfl rfl rfl rfl : Statement _) w

theorem Coding.tfillSig (h : Hdr) (f : FmtY) :
    Statement (.tfillSig h f) := by
  intro w
  obtain ⟨_, _, _, _, _, _, sub, _⟩ := f
  obtain rfl : sub = 1 := eq_of_beq (wf_variant w)
  exact (of_opcode 0x184 rfl rfl rfl rfl rfl : Statement _) w

theorem Coding.tinfo (h : Hdr) (f : FmtY) :
    Statement (.tinfo h f) :=
  of_opcode 0x185 rfl rfl rfl rfl rfl

theorem Coding.tyield (h : Hdr) (f : FmtY) :
    Statement (.tyield h f) :=
  of_opcode 0x186 rfl rfl rfl rfl rfl

theorem Coding.tcancel (h : Hdr) (f : FmtY) :
    Statement (.tcancel h f) :=
  of_opcode 0x187 rfl rfl rfl rfl rfl

theorem Coding.enq (nb : Bool) (h : Hdr) (f : FmtY) :
    Statement (.enq nb h f) := by
  cases nb
  · exact of_opcode 0x188 rfl rfl rfl rfl rfl
  · exact of_opcode 0x189 rfl rfl rfl rfl rfl

theorem Coding.deq (nb : Bool) (h : Hdr) (f : FmtY) :
    Statement (.deq nb h f) := by
  cases nb
  · exact of_opcode 0x18A rfl rfl rfl rfl rfl
  · exact of_opcode 0x18B rfl rfl rfl rfl rfl

theorem Coding.qstat (h : Hdr) (f : FmtY) :
    Statement (.qstat h f) :=
  of_opcode 0x18C rfl rfl rfl rfl rfl

theorem Coding.qcreate (h : Hdr) (f : FmtY) :
    Statement (.qcreate h f) := by
  intro w
  obtain ⟨_, _, _, _, _, _, sub, _⟩ := f
  obtain rfl : sub = 0 := eq_of_beq (wf_variant w)
  exact (of_opcode 0x18D rfl rfl rfl rfl rfl : Statement _) w

theorem Coding.qcreateFree (h : Hdr) (f : FmtY) :
    Statement (.qcreateFree h f) := by
  intro w
  obtain ⟨_, _, _, _, _, _, sub, _⟩ := f
  obtain rfl : sub = 1 := eq_of_beq (wf_variant w)
  exact (of_opcode 0x18D rfl rfl rfl rfl rfl : Statement _) w

theorem Coding.launch (h : Hdr) (f : FmtY) :
    Statement (.launch h f) :=
  of_opcode 0x18E rfl rfl rfl rfl rfl

theorem Coding.launchAgg (h : Hdr) (f : FmtY) :
    Statement (.launchAgg h f) :=
  of_opcode 0x18F rfl rfl rfl rfl rfl

theorem Coding.sibjoin (h : Hdr) (f : FmtY) :
    Statement (.sibjoin h f) :=
  of_opcode 0x190 rfl rfl rfl rfl rfl

theorem Coding.sibleave (h : Hdr) (f : FmtY) :
    Statement (.sibleave h f) :=
  of_opcode 0x191 rfl rfl rfl rfl rfl

theorem Coding.ballot (h : Hdr) (f : FmtY) :
    Statement (.ballot h f) :=
  of_opcode 0x192 rfl rfl rfl rfl rfl

theorem Coding.canchk (h : Hdr) (f : FmtY) :
    Statement (.canchk h f) :=
  of_opcode 0x193 rfl rfl rfl rfl rfl

theorem Coding.sibinfo (h : Hdr) (f : FmtY) :
    Statement (.sibinfo h f) :=
  of_opcode 0x194 rfl rfl rfl rfl rfl

theorem Coding.nestset (h : Hdr) (f : FmtY) :
    Statement (.nestset h f) :=
  of_opcode 0x195 rfl rfl rfl rfl rfl

theorem Coding.fenceAcq (h : Hdr) (f : FmtY) :
    Statement (.fenceAcq h f) :=
  of_opcode 0x1C0 rfl rfl rfl rfl rfl

theorem Coding.fenceRel (h : Hdr) (f : FmtY) :
    Statement (.fenceRel h f) :=
  of_opcode 0x1C1 rfl rfl rfl rfl rfl

theorem Coding.fenceAcqrel (h : Hdr) (f : FmtY) :
    Statement (.fenceAcqrel h f) :=
  of_opcode 0x1C2 rfl rfl rfl rfl rfl

theorem Coding.srget (sys : Bool) (h : Hdr) (f : FmtY) :
    Statement (.srget sys h f) := by
  cases sys
  · exact of_opcode 0x1C3 rfl rfl rfl rfl rfl
  · exact of_opcode 0x1C4 rfl rfl rfl rfl rfl

theorem Coding.srset (sys : Bool) (h : Hdr) (f : FmtY) :
    Statement (.srset sys h f) := by
  cases sys
  · exact of_opcode 0x1C5 rfl rfl rfl rfl rfl
  · exact of_opcode 0x1C6 rfl rfl rfl rfl rfl

theorem Coding.trap (h : Hdr) (f : FmtY) :
    Statement (.trap h f) :=
  of_opcode 0x1C7 rfl rfl rfl rfl rfl

theorem Coding.bkpt (h : Hdr) (f : FmtY) :
    Statement (.bkpt h f) :=
  of_opcode 0x1C8 rfl rfl rfl rfl rfl

theorem Coding.timeget (h : Hdr) (f : FmtY) :
    Statement (.timeget h f) :=
  of_opcode 0x1C9 rfl rfl rfl rfl rfl

theorem Coding.detphase (h : Hdr) (f : FmtY) :
    Statement (.detphase h f) :=
  of_opcode 0x1CA rfl rfl rfl rfl rfl

theorem Coding.detq (h : Hdr) (f : FmtY) :
    Statement (.detq h f) :=
  of_opcode 0x1CB rfl rfl rfl rfl rfl

theorem Coding.tlbinv (h : Hdr) (f : FmtY) :
    Statement (.tlbinv h f) :=
  of_opcode 0x1CC rfl rfl rfl rfl rfl

theorem Coding.halt (h : Hdr) (f : FmtY) :
    Statement (.halt h f) :=
  of_opcode 0x1CD rfl rfl rfl rfl rfl

theorem Coding.sleep (h : Hdr) (f : FmtY) :
    Statement (.sleep h f) :=
  of_opcode 0x1CE rfl rfl rfl rfl rfl

theorem Coding.ctxsave (h : Hdr) (f : FmtY) :
    Statement (.ctxsave h f) :=
  of_opcode 0x1CF rfl rfl rfl rfl rfl

theorem Coding.ctxrest (h : Hdr) (f : FmtY) :
    Statement (.ctxrest h f) :=
  of_opcode 0x1D0 rfl rfl rfl rfl rfl

theorem Coding.eret (h : Hdr) (f : FmtY) :
    Statement (.eret h f) :=
  of_opcode 0x1D1 rfl rfl rfl rfl rfl

theorem Coding.lineEntry :
    Statement (.lineEntry) := fun _ => rfl

theorem Coding.instructionCompletion (k : Nat) :
    Statement (.instructionCompletion k) := fun _ => rfl

theorem Coding.loadDataReturn (k : Nat) :
    Statement (.loadDataReturn k) := fun _ => rfl

theorem Coding.leaseGrant (k j : Nat) :
    Statement (.leaseGrant k j) := fun _ => rfl

theorem Coding.storePerform (k : Nat) :
    Statement (.storePerform k) := fun _ => rfl

theorem Coding.storeAcknowledgement (k : Nat) :
    Statement (.storeAcknowledgement k) := fun _ => rfl

theorem Coding.atomicBatch (k g : Nat) :
    Statement (.atomicBatch k g) := fun _ => rfl

theorem Coding.walkComplete (k : Nat) :
    Statement (.walkComplete k) := fun _ => rfl

theorem Coding.engineStart (k units : Nat) :
    Statement (.engineStart k units) := fun _ => rfl

theorem Coding.tokenWrite (k : Nat) :
    Statement (.tokenWrite k) := fun _ => rfl

theorem Coding.matrixBegin (k : Nat) :
    Statement (.matrixBegin k) := fun _ => rfl

theorem Coding.retireAtEnd :
    Statement (.retireAtEnd) := fun _ => rfl

theorem Coding.refillCursorAdvance (bough : Nat) :
    Statement (.refillCursorAdvance bough) := fun _ => rfl

theorem Coding.phaseEnd (launch : Nat) :
    Statement (.phaseEnd launch) := fun _ => rfl

theorem Coding.futureWake (k : Nat) :
    Statement (.futureWake k) := fun _ => rfl

theorem Coding.taskStart (launch : Nat) (p : Place) :
    Statement (.taskStart launch p) := fun _ => rfl

theorem Coding.cancellationDelivery (k : Nat) :
    Statement (.cancellationDelivery k) := fun _ => rfl

theorem Coding.aggregationWindowClose (k : Nat) :
    Statement (.aggregationWindowClose k) := fun _ => rfl

theorem Coding.lwtExpiry (launch copse : Nat) :
    Statement (.lwtExpiry launch copse) := fun _ => rfl

theorem Coding.copseAdmission (launch copse : Nat) (p : Place) :
    Statement (.copseAdmission launch copse p) := fun _ => rfl

theorem Coding.copseRestore (launch copse : Nat) (p : Place) :
    Statement (.copseRestore launch copse p) := fun _ => rfl

theorem Coding.sleepExpiry (bough : Nat) :
    Statement (.sleepExpiry bough) := fun _ => rfl

theorem Coding.yieldExpiry (bough : Nat) :
    Statement (.yieldExpiry bough) := fun _ => rfl

theorem Coding.launchCompletion (launch : Nat) :
    Statement (.launchCompletion launch) := fun _ => rfl

theorem Coding.instanceClose (launch copse inst : Nat) :
    Statement (.instanceClose launch copse inst) := fun _ => rfl

theorem Coding.doorbell (p q : Nat) (v : W64) :
    Statement (.doorbell p q v) := fun _ => rfl

theorem Coding.ext (p q : Nat) :
    Statement (.ext p q) := fun _ => rfl

theorem Coding.launchCommand (p q : Nat) :
    Statement (.launchCommand p q) := fun _ => rfl

theorem Coding.kill (p q : Nat) :
    Statement (.kill p q) := fun _ => rfl

theorem Coding.preempt (p q : Nat) :
    Statement (.preempt p q) := fun _ => rfl

theorem Coding.preemptSave (p : Nat) :
    Statement (.preemptSave p) := fun _ => rfl

theorem Coding.restore (p q : Nat) :
    Statement (.restore p q) := fun _ => rfl

theorem Coding.replyResume (p q : Nat) :
    Statement (.replyResume p q) := fun _ => rfl

theorem Coding.replyKill (p q : Nat) :
    Statement (.replyKill p q) := fun _ => rfl

theorem Coding.tlbinvCommand (p q : Nat) :
    Statement (.tlbinvCommand p q) := fun _ => rfl

theorem Coding.comm (p q : Nat) :
    Statement (.comm p q) := fun _ => rfl

theorem Coding.nopCommand (p q : Nat) :
    Statement (.nopCommand p q) := fun _ => rfl

theorem Coding.map (p q : Nat) :
    Statement (.map p q) := fun _ => rfl

theorem Coding.mapPublish (p q : Nat) :
    Statement (.mapPublish p q) := fun _ => rfl

theorem Coding.fqhead (p : Nat) (v : W64) :
    Statement (.fqhead p v) := fun _ => rfl

theorem Coding.cqhead (p q : Nat) (v : W64) :
    Statement (.cqhead p q v) := fun _ => rfl

theorem Coding.errstat (p : Nat) (v : W64) :
    Statement (.errstat p v) := fun _ => rfl

theorem Coding.partitionRegisterWrite (fn off : Nat) (v : W64) :
    Statement (.partitionRegisterWrite fn off v) := fun _ => rfl

theorem Coding.functionLevelReset (p : Nat) :
    Statement (.functionLevelReset p) := fun _ => rfl

theorem Coding.bar2Access (p off : Nat) (a : ExtAcc) :
    Statement (.bar2Access p off a) := fun _ => rfl

theorem Coding.hostAtomicop (p off : Nat) (a : ExtAtom) :
    Statement (.hostAtomicop p off a) := fun _ => rfl

theorem Coding.peerRequest (pa : Nat) (r : PeerReq) :
    Statement (.peerRequest pa r) := fun _ => rfl

theorem Coding.flitReceive (link : Nat) (flit : List Byte) :
    Statement (.flitReceive link flit) := fun _ => rfl

theorem Coding.flitReplay (link : Nat) :
    Statement (.flitReplay link) := fun _ => rfl

theorem Coding.sirxoBoot :
    Statement (.sirxoBoot) := fun _ => rfl

theorem Coding.getVersion (p : Nat) :
    Statement (.getVersion p) := fun _ => rfl

theorem Coding.getCapabilities (p : Nat) :
    Statement (.getCapabilities p) := fun _ => rfl

theorem Coding.negotiateAlgorithms (p : Nat) :
    Statement (.negotiateAlgorithms p) := fun _ => rfl

theorem Coding.getDigests (p : Nat) :
    Statement (.getDigests p) := fun _ => rfl

theorem Coding.getCertificate (p : Nat) :
    Statement (.getCertificate p) := fun _ => rfl

theorem Coding.challenge (p : Nat) (nonce : BitVec 256) :
    Statement (.challenge p nonce) := fun _ => rfl

theorem Coding.getMeasurements (p : Nat) :
    Statement (.getMeasurements p) := fun _ => rfl

theorem Coding.powerSample (m : PowerMeasure) :
    Statement (.powerSample m) := fun _ => rfl

theorem Coding.thermalShutdown :
    Statement (.thermalShutdown) := fun _ => rfl

end Laws

end Sys2Proof
end

