-- ==== Sys2Proof/Laws/Placing.lean ====
section
/-! SUPPORT. What the distributor's search answers (spec/01_machine.md R23, R24): on a core, as many places as it
was asked for; over some cores, none where more copses are asked for than the cores hold. -/

namespace Sys2Proof.Machine

theorem Filling.places_length (x : Filling) (core n : Nat) : ∀ i : Nat, (x.places core n i).length = i
  | 0 => rfl
  | i + 1 => by simp [Filling.places, Filling.places_length x core n i]

theorem State.packCore_length {s : State} {core part extra copses : Nat} {d : Desc} {ps : List Place}
    (h : s.packCore core part d extra copses = some ps) : ps.length = copses := by
  simp only [State.packCore] at h
  split at h
  · cases h
  · obtain ⟨x, -, rfl⟩ := Option.map_eq_some_iff.mp h
    exact Filling.places_length x core d.copse copses

theorem State.packMost_length (s : State) (core part : Nat) (d : Desc) :
    ∀ m : Nat, (s.packMost core part d m).length ≤ m
  | 0 => Nat.le_refl 0
  | m + 1 => by
    rw [State.packMost]
    split
    · next h => exact Nat.le_of_eq (State.packCore_length h)
    · exact Nat.le_succ_of_le (s.packMost_length core part d m)

/-- No places where the cores do not hold as many copses, even empty ones. -/
theorem State.packOver_none (s : State) (part : Nat) (d : Desc) : ∀ (ks : List Nat) (need : Nat),
    ks.length * d.perCore < need → s.packOver part d ks need = none
  | _, 0, h => absurd h (Nat.not_lt_zero _)
  | [], _ + 1, _ => rfl
  | k :: ks, need + 1, h => by
    have hl := s.packMost_length k part d (min (need + 1) d.perCore)
    have hk : ks.length * d.perCore < need + 1 - (s.packMost k part d (min (need + 1) d.perCore)).length := by
      rw [List.length_cons, Nat.succ_mul] at h
      omega
    rw [State.packOver, s.packOver_none part d ks _ hk]
    rfl

end Sys2Proof.Machine
end

