-- ==== Sys2Proof/Tests/Slice0.lean ====
section
/-! SUPPORT. Tests: the well-formedness checks, words that the manual writes out, worked examples of the manual, and
for each statement of Certificates/Slice0 states and operands that meet its hypotheses. -/

namespace Sys2Proof.Tests

open Machine

set_option Elab.async false

/-! ## Helpers -/

/-- A header with no guard, no flag and no transient destination. -/
def hd : Hdr := { pg := 7, pn := false, fs := .none, tr := false }

def a0 : FmtA :=
  { dst := 0, sa := 0, sb := 0, sc := 0, ty := .i32, rm := .rn, sat := false, neg := 0, abs := 0, knd := 0, pd := none,
    sub := 0 }
def i0 : FmtI :=
  { dst := 0, sa := 0, ty := .i32, rm := .rn, sat := false, nega := false, kndd := false, pd := none, sub := 0, imm := 0 }
def m0 : FmtM :=
  { dv := 0, av := 0, as := 0, sp := .global, am := .base, sc := .core, sz := .b32, ch := 0, aop := 0, ty := .i8, pd := none,
    ord := false, off := 0 }
def j0 : FmtJ := { tgt := 0, tsl := 0, rcv := 0, rsl := 0, bm := .lane, as := 0 }
def e0 : FmtE :=
  { tk := 63, fp := 63, pa := 0, pb := 0, pc := 0, vx := 0, sla := 0, slb := 0, acc := 0, sub := 0, imm := 0 }
def y0 : FmtY := { sd := 0, s1 := 0, s2 := 0, s3 := 0, vd := 0, pd := none, sub := 0, imm := 0 }

/-- The device, booted, with one bough of one launch, in focus. -/
def base : State :=
  ({ State.reset with time := 4, sirxo := { State.reset.sirxo with booted := true } } : State).withBough

/-- The checks of `Issues`, as one test. -/
def ready (s : State) (i : Instr) : Bool :=
  (s.b.nf == 0 || !isRejoin i) && (!(s.b.sib.any fun x => x.cancelled) || !isCancelPoint i) && i.legal &&
  fmtAccepts s.b.fmt i && ((hdrOf i).fs == .none || (s.b.fsFlag (hdrOf i).fs).isSome) &&
  (!isSystem i || s.b.sysmode) && !s.illegalHere i && s.b.badReg i == none && s.b.guard (hdrOf i) != 0 &&
  (!needsFull i || s.b.fullMask) && (s.b.refill == none || !badInRefill i) && !s.scoreboard i &&
  !s.predPending s.b.uid && (!isMem i || !s.acquiring s.b.uid) && (!isLocal i || !s.matLocal s.b.uid) &&
  (s.b.replaying || !(s.b.fsFlag (hdrOf i).fs).any fun n => s.b.flag n == 15)

theorem issues {i : Instr} {s : State} (h : ready s i = true) : Issues i s := by
  simp only [ready, Bool.and_eq_true, Bool.or_eq_true, Bool.not_eq_true', beq_iff_eq, bne_iff_ne, ne_eq] at h
  obtain ⟨⟨⟨⟨⟨⟨⟨⟨⟨⟨⟨⟨⟨⟨⟨a, b⟩, c⟩, d⟩, e⟩, f⟩, u⟩, g⟩, k⟩, l⟩, m⟩, n⟩, o⟩, p⟩, q⟩, r⟩ := h
  exact ⟨a, b, c, d, e, fun x => by simpa [x] using f, u, g, k, fun x => by simpa [x] using l, m, n, o,
    fun x => by simpa [x] using p, fun x => by simpa [x] using q, r⟩

/-- The checks of `Decoded`, as one test. -/
def plainly (s : State) (i : Instr) : Bool :=
  (s.b.nf == 0 || !isRejoin i) && (!(s.b.sib.any fun x => x.cancelled) || !isCancelPoint i) && i.legal &&
  fmtAccepts s.b.fmt i && ((hdrOf i).fs == .none || (s.b.fsFlag (hdrOf i).fs).isSome) && (!isSystem i || s.b.sysmode)

theorem decoded {i : Instr} {s : State} (h : plainly s i = true) : Decoded i s := by
  simp only [plainly, Bool.and_eq_true, Bool.or_eq_true, Bool.not_eq_true', beq_iff_eq] at h
  obtain ⟨⟨⟨⟨⟨a, b⟩, c⟩, d⟩, e⟩, f⟩ := h
  exact ⟨a, b, c, d, e, fun x => by simpa [x] using f⟩

theorem all_issue {s : State} {l : List Instr} (h : l.all (ready s) = true) : ∀ i ∈ l, Issues i s :=
  fun i hi => issues (List.all_eq_true.mp h i hi)

/-- The TLB holds the translations of some bytes, as a test. -/
def tlbOk (s : State) (core part a n pa : Nat) (write : Bool) : Bool := (List.range n).all fun i =>
  decide (a + i < 2 ^ 56) && !s.unreachable part (pa + i) && (s.tlbFind core part (a + i)).any fun e =>
    leafPa e.pte e.size (a + i) == pa + i && (!write || pteWritable e.pte)

theorem holds {s : State} {core part a n pa : Nat} {w : Bool} (h : tlbOk s core part a n pa w = true) :
    s.tlbHolds core part a n pa w := by
  intro i hi
  have h := List.all_eq_true.mp h i (List.mem_range.mpr hi)
  simp only [Bool.and_eq_true, decide_eq_true_eq, Bool.not_eq_true', Option.any_eq_true, Bool.or_eq_true, beq_iff_eq] at h
  obtain ⟨⟨a, b⟩, e, c, d, f⟩ := h
  exact ⟨a, b, e, c, d, fun x => f.resolve_left (by simp [x])⟩

/-! ## The hypotheses of the statements are met -/

/-- v1 := v2 op v3. -/
def a1 : FmtA := { a0 with dst := 1, sa := 2, sb := 3 }
/-- v2 := v4 op v6, on pairs of registers. -/
def a2 : FmtA := { a0 with dst := 2, sa := 4, sb := 6, ty := .n64 }
/-- s63 := s2 op s3. -/
def a3 : FmtA := { a0 with dst := 63, sa := 2, sb := 3, knd := 7 }
/-- v1 := v2 op v3 op v4. -/
def a4 : FmtA := { a1 with sc := 4 }
def i1 : FmtI := { i0 with dst := 1, sa := 2, imm := 0xFFFFFFFF }

theorem test_IntegerArithmetic_met : ∀ i ∈ ([.iadd hd a1, .iadd hd a2, .iadd hd a3, .iadd hd { a1 with sub := 0x80, ty := .n16 },
    .iadd hd { a1 with sub := 8, sat := true, pd := some 6 }, .isub hd a1, .imul hd a1, .imulhi hd a2, .imad hd (.a a4),
    .imad hd (.i i1), .imin hd a1, .imax hd a2, .iabs hd { a0 with dst := 255, sa := 255 }] : List Instr), Issues i base :=
  all_issue (by decide +kernel)

theorem test_CompareSelectLogic_met : ∀ i ∈ ([.icmp hd { a1 with dst := 0, pd := some 0 }, .icmp hd { a3 with dst := 0, pd := some 6 },
    .isel hd { a1 with sub := 15 }, .andL hd (.a a1), .andL hd (.i i1), .orL hd (.a a2), .orL hd (.i i1), .xorL hd (.a a1),
    .xorL hd (.i { i1 with kndd := true, dst := 63 }), .notL hd { a1 with sb := 0 }, .tern hd { a4 with sub := 0xCA }] : List Instr), Issues i base :=
  all_issue (by decide +kernel)

theorem test_ShiftsAndBitFields_met : ∀ i ∈ ([.shl hd a1, .shl hd a3, .shr hd a2, .sha hd a1, .fshl hd a4, .fshr hd a4,
    .popc hd { a1 with sb := 0 }, .clz hd { a2 with sb := 0 }, .brev hd { a1 with sb := 0 }, .bfx hd a1, .bfi hd a4, .bsel hd a4] :
    List Instr), Issues i base :=
  all_issue (by decide +kernel)

theorem test_MovesAndLanes_met : ∀ i ∈ ([.mov hd { a1 with sa := 0 }, .mov hd { a3 with sa := 0 }, .laneid hd { a0 with dst := 1 },
    .movi hd { i1 with sa := 0 }, .movi hd { i1 with sa := 0, ty := .bf16, dst := 63, kndd := true },
    .movw hd { dst := 2, scalar := false, imm := 5 }, .movw hd { dst := 63, scalar := true, imm := 5 },
    .xlane hd { a1 with pd := some 0, sub := 3 }, .vote hd { a0 with dst := 1, knd := 4, sub := 2, pd := some 1 },
    .vote hd { a0 with dst := 1, sb := 3, sc := 4, knd := 5, sub := 6 }, .plop hd { a0 with sa := 7, sb := 1, sc := 2, pd := some 3 },
    .pmov hd { a0 with dst := 1 }, .pmov hd { a0 with sa := 1, sub := 1 }] : List Instr), Issues i base :=
  all_issue (by decide +kernel)

theorem test_LoopNestAndAddresses_met :
    (∀ i ∈ ([.lnset hd { y0 with s1 := 1, s2 := 2, s3 := 3, sub := 11, vd := 1 }, .lnset hd { y0 with s1 := 1, sub := 4 },
      .lnadv hd { y0 with sub := 7, pd := some 1 }, .lnget hd { y0 with vd := 1, sub := 3 }, .lnget hd { y0 with sd := 1, sub := 0x24, imm := 15 },
      .coef hd { y0 with s1 := 1, s2 := 2, s3 := 3, imm := 15 }, .coef hd { y0 with s1 := 1, s2 := 2, sub := 1 },
      .addr hd { m0 with dv := 2, av := 4, sz := .b8, pd := some 1 },
      .addr hd { m0 with dv := 2, av := 0x50, sz := .b8, am := .ln, sp := .localSp, pd := some 1 },
      .rep hd { y0 with imm := 0xFFFF }] : List Instr), Issues i base) ∧
    base.lnForbidden hd 3 = false ∧
    let s := base.modB fun b => b.setSreg 1 65536
    Issues (.rep hd { y0 with sub := 0x10, s1 := 1 }) s ∧ 65535 < (s.b.sreg 1).toNat :=
  ⟨all_issue (by decide +kernel), by decide +kernel, issues (by decide +kernel), by decide +kernel⟩

/-- Operands of type f32. -/
def f1 : FmtA := { a1 with ty := .f32 }
def f4 : FmtA := { a4 with ty := .f32 }
def fi : FmtI := { i1 with ty := .f32, imm := 0x3F800000 }

theorem test_FloatArithmetic_met : ∀ i ∈ ([.fadd hd (.a f1), .fadd hd (.i fi), .fsub hd (.a { f1 with ty := .f16, sub := 0x80 }),
    .fsub hd (.i fi), .fmul hd (.a { f1 with ty := .f64, dst := 2, sa := 4, sb := 6 }), .fmul hd (.i fi), .ffma hd (.a f4), .ffma hd (.i fi),
    .hadd2 hd { a1 with ty := .f16 }, .hmul2 hd { a1 with ty := .bf16 }, .hfma2 hd { a4 with ty := .f16 },
    .hmin2 hd { a1 with ty := .f16, sub := 64 }, .hmax2 hd { a1 with ty := .f16 }, .ffmaw hd { a4 with ty := .bf16, sub := 3 }] : List Instr),
    Issues i base :=
  all_issue (by decide +kernel)

theorem test_FloatOrderAndFunctions_met : ∀ i ∈ ([.fmin true hd (.a f1), .fmin false hd (.i fi), .fmax true hd (.i fi), .fmax false hd (.a f1),
    .fcmp hd (.a { f1 with dst := 0, pd := some 0, sub := 7 }), .fcmp hd (.i { fi with dst := 0, pd := some 0, rm := .rn }),
    .fclass hd { f1 with sb := 0 }, .fsqrt hd { f1 with sb := 0, rm := .rfmt }, .frnd hd { f1 with sb := 0 }, .frcp hd { f1 with sb := 0 },
    .frsq hd { f1 with sb := 0 }, .fexp2 hd { f1 with sb := 0 }, .flog2 hd { f1 with sb := 0 }, .fsin hd { f1 with sb := 0 },
    .fcos hd { f1 with sb := 0 }, .ftanh hd { f1 with sb := 0 }, .fsigm hd { f1 with sb := 0 }, .ferf hd { f1 with sb := 0 },
    .fdiv hd f1, .fscale hd f1] : List Instr), Issues i base :=
  all_issue (by decide +kernel)

theorem test_Conversions_met : ∀ i ∈ ([.cvtFf hd { a0 with dst := 1, sa := 2, ty := .bf16, sub := 10, rm := .rs },
    .cvtPack hd { a1 with ty := .f16 }, .cvtFi hd { a0 with dst := 1, sa := 2, sub := 10 }, .cvtIf hd { a0 with dst := 1, sa := 2, ty := .f32, sub := 4 },
    .cvtIi hd { a0 with dst := 1, sa := 2, ty := .i8, sub := 4, sat := true }, .cvtUnpack hd { a0 with dst := 2, sa := 4, ty := .f16 },
    .dith hd { a0 with dst := 1, sb := 2, ty := .n32 }, .unpk hd { a0 with dst := 1, sa := 8, sb := 5, knd := 2, ty := .e4m3 },
    .cvtb hd { a0 with dst := 1, sa := 2, sb := 5, knd := 2, ty := .e4m3 }] : List Instr), Issues i base :=
  all_issue (by decide +kernel)

theorem test_DotProducts_met : ∀ i ∈ ([.dot16 hd { a0 with dst := 1, sa := 4, sb := 8, sc := 12, ty := .e4m3 },
    .dot16 hd { a0 with dst := 1, sa := 4, sb := 8, sc := 12, ty := .e5m2 }, .dot4 hd { a0 with dst := 1, sa := 4, sb := 8, sc := 12, ty := .bf16 },
    .dot8 hd { a0 with dst := 1, sa := 4, sb := 8, sc := 12, ty := .i8, sub := 1 }] : List Instr), Issues i base :=
  all_issue (by decide +kernel)

theorem test_BoughRegisters_met :
    (∀ i ∈ ([.fmtset hd { y0 with s1 := 1 }, .fmtset hd { y0 with sub := 1 }, .fmtmod hd { y0 with s1 := 1, imm := 0xF }, .fmtget hd { y0 with sd := 63 },
      .lcbase hd { y0 with sd := 1, imm := 2 }, .lcseed hd { y0 with sd := 1, s1 := 2 }] : List Instr), Issues i base) ∧
    fmtValid (BitVec.truncate 32 (base.b.sreg 1)) = true ∧
    let s := base.modB fun b => b.setSreg 1 0xFFFFFFFF
    Issues (.fmtset hd { y0 with s1 := 1 }) s ∧ fmtValid (BitVec.truncate 32 (s.b.sreg 1)) = false :=
  ⟨all_issue (by decide +kernel), by decide +kernel, issues (by decide +kernel), by decide +kernel⟩

/-- A guard on p0, which holds in lanes 0 to 3 of `parted`. -/
def hp : Hdr := { hd with pg := 0 }
def parted : State := base.modB fun b => b.setPd (some 0) 0xFFFFFFFF 0xF
/-- `parted` with a lane that waits at a fault. -/
def faulted : State := parted.modB fun b => { b with nf := 1, stack := [b.entry 0x80000000 .fault false 0] }
/-- What a step that goes on answers. -/
def after (i : Instr) (s : State) : State :=
  match exec i s with
  | .next t => t
  | _ => s
def j1 : FmtJ := { j0 with tgt := 1 }

theorem test_Transfers_met :
    (∀ i ∈ ([.bra hp { j1 with bm := .any }, .bra hp { j1 with bm := .all }, .brc hp { j1 with as := 1 }, .jmpi hp { j0 with as := 1 },
      .brx hp { j1 with as := 1 }, .loop hp { j1 with as := 1 }, .bra hp j1, .call hp { j1 with as := 2 },
      .callIndirect hp { j0 with as := 1 }] : List Instr), Issues i parted) ∧
    (parted.targetOk parted.b (targetOf 0 1 0) = true ∧ parted.targetOk parted.b (targetOf 0 0xFFFFF 0) = false) ∧
    (parted.badTarget [targetOf 0 0xFFFFF 4, 0] = some (targetOf 0 0xFFFFF 4) ∧ parted.badTarget [targetOf 0 1 0, 0] = none) ∧
    parted.b.guard hd = parted.b.emr ∧ parted.b.guard hp ≠ parted.b.emr ∧ targetOf 0 1 0 ≠ nextAddr 0 false ∧ parted.b.nf = 0 ∧
    parted.lineNear parted.b 0 = true ∧ parted.lineNear parted.b 12 = true ∧
    Issues (.bra hp j1) faulted ∧ faulted.badTarget [targetOf 0 1 0, 0] = none ∧ faulted.b.guard hp ≠ faulted.b.emr ∧ faulted.b.nf ≠ 0 :=
  ⟨all_issue (by decide +kernel), by decide +kernel, by decide +kernel, by decide +kernel, by decide +kernel, by decide +kernel, by decide +kernel, by decide +kernel, by decide +kernel, issues (by decide +kernel),
    by decide +kernel, by decide +kernel, by decide +kernel⟩

/-- Two pairs, to slot 1 of the next line where p0 holds and to the line after it where p1 does not. -/
def mbr1 : FmtMbr :=
  { p0 := { off := 1, slot := 1, pk := 0, neg := false }, p1 := { off := 2, slot := 0, pk := 1, neg := true }, p2 := .zero, p3 := .zero,
    rcOff := 3, rcSlot := 4, cnt := 1 }

theorem test_MultiwayBranch_met : Issues (.mbr hd mbr1) parted ∧
    (let dest (p : MbrPair) := targetOf 0 p.off p.slot
     parted.badTarget ((mbrPairs mbr1).map dest ++ [targetOf 0 3 4]) = none ∧ parted.lineNear parted.b (targetOf 0 3 4) = true ∧
     (mbrPairs mbr1).length = 2 ∧ ∀ p ∈ mbrPairs mbr1, parted.lineNear parted.b (dest p) = true) ∧
    Issues (.mbr hd { mbr1 with rcOff := 0xFFFFF }) parted ∧ parted.badTarget [targetOf 0 0xFFFFF 4] = some (targetOf 0 0xFFFFF 4) :=
  ⟨issues (by decide +kernel), by decide +kernel, issues (by decide +kernel), by decide +kernel⟩

/-- `parted` after lanes 0 to 3 have branched away from the others. -/
def diverged : State := after (.bra hp { j1 with rcv := 2 }) parted

theorem test_MasksAndExits_met :
    (∀ i ∈ ([.join hp j0, .ret hd { j0 with as := 1 }, .emrset hd { y0 with s1 := 1 }, .exit hp y0, .nop hd y0, .yield hd { y0 with imm := 8 },
      .emrget hd { y0 with sd := 1 }, .splitq hd { y0 with sd := 1 }, .setpri hd { y0 with imm := 3 }, .waitf hd { y0 with imm := 0xFFF }] :
      List Instr), Issues i parted) ∧
    (parted.b.topJoin.any fun e => e.kind == .branch) = false ∧
    (let s := diverged.modB fun b => b.setPd (some 0) 0xFFFFFFFF 1
     Issues (.join hp j0) s ∧ (s.b.topJoin.any fun e => e.kind == .branch) = true ∧ s.b.guard hp ≠ s.b.emr) ∧
    (slotAddr (parted.b.sreg 1) = true ∧ slotAddr (0x30 : W64) = true ∧ slotAddr (0x3C : W64) = false) ∧
    (let s := parted.modB fun b => b.setSreg 1 0x80000000
     Issues (.emrset hd { y0 with s1 := 1 }) s ∧ BitVec.truncate 32 (s.b.sreg 1) &&& s.b.settable ≠ 0) ∧
    (parted.b.frames = [] ∧ parted.b.taskOf = [] ∧ parted.b.refill = none ∧ parted.b.guard hp ≠ parted.b.emr ∧
      parted.b.guard hd = parted.b.emr ∧ parted.b.tgroups = [] ∧ parted.b.stack = [] ∧ Issues (.exit hd y0) parted) ∧
    (let s := parted.modB fun b => { b with emr := 1, stack := [b.entry 2 .branch false 0x40] }
     Issues (.exit hd y0) s ∧ s.b.guard hd = s.b.emr ∧ s.b.tgroups = [] ∧
       (s.b.stack.all fun e => e.kind == .branch && e.mask &&& ~~~(s.b.guard hd) != 0) = true) ∧
    (let s := parted.modB fun b => { b with refill := some ⟨0, 0, 0, 0, 0, 0, 0, 0, 0, 0, 0, [], 0, [], 0⟩ }
     Issues (.exit hp y0) s ∧ (s.b.guard hp).getLsbD 0 = true ∧ s.b.depth 0 = 0) ∧
    (∀ n : Nat, n < 12 → parted.b.flag n = 0) ∧
    let s := parted.modB fun b => { b with flags := [(11, 1)] }
    Issues (.waitf hd { y0 with imm := 0x800 }) s ∧ s.b.flag 11 ≠ 0 :=
  ⟨all_issue (by decide +kernel), by decide +kernel, ⟨issues (by decide +kernel), by decide +kernel⟩, by decide +kernel, ⟨issues (by decide +kernel), by decide +kernel⟩,
    ⟨by decide +kernel, by decide +kernel, by decide +kernel, by decide +kernel, by decide +kernel, by decide +kernel, by decide +kernel,
      issues (by decide +kernel)⟩, ⟨issues (by decide +kernel), by decide +kernel⟩, ⟨issues (by decide +kernel), by decide +kernel⟩,
    by decide +kernel, issues (by decide +kernel), by decide +kernel⟩

/-- A region on level 0, and `base` with it and with 100 iterations on the level. -/
def region0 : Region :=
  { prologue := 0x40, body := 0x80, retire := 0xC0, stop := 0x100, level := 0, task := false, ordered := false, perLaunch := false }
def setRegion (r : Region) (s : State) : State :=
  { s with launches := s.launches.map fun l => { l with desc := { l.desc with regions := [r] } } }
def looped (r : Region) : State :=
  after (.lnset hd { y0 with s1 := 1, s2 := 2, s3 := 3 })
    (setRegion r (base.modB fun b => ((b.setSreg 2 100).setSreg 3 1).setPd (some 0) 0xFFFFFFFF 0xF))
/-- In the region's prologue, in its body, and past its retire section. -/
def entered (r : Region) : State := after (.rfenter hd y0) (looped r)
def inBody (r : Region) : State := after (.nop hd y0) ((entered r).modB fun b => { b with pc := r.body })
def atStop (r : Region) : State :=
  (inBody r).modB fun b => { b with pc := r.stop, refill := b.refill.map fun f => { f with body := 0, retire := b.emr } }

theorem test_RefillEntry_met :
    let s := looped region0
    Issues (.rfenter hd y0) s ∧
    (((s.launchOf s.b).bind fun l => l.desc.regions[0]?) = some region0 ∧ s.b.deepLanes s.b.emr = 0 ∧
      s.badTarget [region0.prologue, region0.body, region0.retire, region0.stop] = none ∧ s.lineNear s.b region0.stop = true ∧
      (s.nextInst s.b region0 0).2 = false ∧ (s.copseOf s.b).isSome = true ∧ s.b.emr.list.length = 32 ∧
      ∀ k : Nat, k < 32 → passedBound (BitVec.ofNat 32 k) 100 1 = false) ∧
    (let t := s.modB fun b => { b with frames := [{ lane := 0, regs := [], preds := 0, ret := 0, fmt := 0, task := 0, byWait := true, grp := true }] }
     Issues (.rfenter hd y0) t ∧ t.b.deepLanes t.b.emr ≠ 0) ∧
    (let t := setRegion { region0 with stop := 1 } s
     Issues (.rfenter hd y0) t ∧ t.badTarget [0x40, 0x80, 0xC0, 1] = some 1) ∧
    let t := (entered region0).modB fun b => { b with refill := none, stack := [] }
    Issues (.rfenter hd y0) t ∧ (t.nextInst t.b region0 0).2 = true :=
  ⟨issues (by decide +kernel), by decide +kernel, ⟨issues (by decide +kernel), by decide +kernel⟩, ⟨issues (by decide +kernel), by decide +kernel⟩, issues (by decide +kernel), by decide +kernel⟩

theorem test_RefillProgress_met :
    (∀ i ∈ ([.refill hd y0, .refillLast hd y0, .rfskip hd y0, .rfexit hd y0] : List Instr), Issues i base) ∧
    (let s := inBody region0
     Issues (.refill hd { y0 with sub := 7 }) s ∧ Issues (.refillLast hd { y0 with sub := 7 }) s ∧ Issues (.rfskip hp y0) s ∧
     Issues (.rfexit hp y0) s ∧ s.regionOf s.b = some region0 ∧
     ((s.issued (.refill hd y0)).b.refill.map fun x => (s.b.emr &&& ~~~x.body, x.hasOrd)) = some (0, 0xFFFFFFFF) ∧
     s.b.deepLanes s.b.emr = 0 ∧ s.b.branchAbove 0x100 = false ∧ s.b.emr &&& s.b.pred 7 = s.b.emr ∧
     (s.issued (.refill hd { y0 with sub := 7 })).dispatchWork = false ∧ (s.instGet s.b region0 0 0).isSome = true ∧
     s.b.guard hp ≠ s.b.emr) ∧
    (base.b.refill = none ∧ (atStop region0).b.emr &&& ~~~((inBody region0).b.emr) = 0) ∧
    (let s := atStop region0
     s.b.status = .running ∧ s.b.emr ≠ 0 ∧ s.regionOf s.b = some region0 ∧ region0.stop = s.b.pc ∧ s.b.nf = 0 ∧
     (s.b.refill.map fun f => (s.b.emr &&& ~~~f.retire, s.b.emr &&& (f.prologue ||| f.body ||| f.drainAfter), f.pset)) = some (0, 0, 0) ∧
     ((s.instGet s.b region0 0 0).map fun x => (x.closed, x.next)) = some (false, 32) ∧ (s.launchOf s.b).isSome = true ∧
     (s.b.stack.head?.map fun e => e.kind) = some .refill ∧ s.b.base < s.b.stack.length) ∧
    (let r := { region0 with ordered := true }
     let s := (inBody r).modB fun b =>
       { b with emr := 0, wait := .cursor, refill := b.refill.map fun f => { f with body := 0, rp := 0xFFFFFFFF } }
     let b := (s.focus s.b.uid).b
     b.status = .running ∧ (s.focus s.b.uid).regionOf b = some r ∧ (s.instGet b r 0 0).isSome = true ∧
     (b.refill.map fun f => (f.holder 0, f.rp.getLsbD 0)) = some (some 0, true) ∧ (b.stack.head?.map fun e => e.kind) = some .refill ∧
     b.base < b.stack.length) ∧
    let s := ({ entered region0 with
      copses := (entered region0).copses.map fun c => { c with insts := c.insts.map fun x => { x with closed := true, members := [] } } } :
      State).modB fun b => { b with wait := .cursor }
    s.b ∈ s.allBoughs ∧ (s.launchOf s.b).isSome = true ∧ ((s.instGet s.b region0 0 0).map fun x => x.isOver region0) = some true ∧
    (Sparse.get s.b.rjoined 0).toNat = 1 :=
  ⟨all_issue (by decide +kernel), ⟨issues (by decide +kernel), issues (by decide +kernel), issues (by decide +kernel), issues (by decide +kernel), by decide +kernel⟩, by decide +kernel, by decide +kernel, by decide +kernel, by decide +kernel⟩

/-- An operation that copies 4 KiB at LOCAL 0x20000. -/
def acopy0 : EngOp :=
  { id := 90, uid := 1, launch := 0, cid := 0, part := 0, pc := 0, instr := .afill hd { e0 with tk := 1, fp := 2, pa := 3, pb := 4, pc := 5, imm := 1 },
    pa := 0x20000, pb := 0xAB, pc_ := 8, vx := [], vmask := 0xFFFFFFFF, aux := [], fpAddr := 0, haveRec := true,
    rec_ := [{ write := true, localSp := true, base := 0x20000, len := 4096 }], tok := 0, units := 8, done := 0, started := true,
    seq := 0, status := 0xFF, wend := 0, words := [], keep := [], pins := [] }
def working : State := base.modCore 0 fun c => { c with ops := [acopy0], roles := [(8, .scr)], owners := [(8, lkey 0 0, 0)] }

theorem test_QueriesAndExpiries_met :
    (∀ i ∈ ([.rfinfo hd { y0 with vd := 1 }, .rfinfo hd { y0 with sd := 1, sub := 4 }, .toktest hd { y0 with sd := 2, s1 := 1, pd := some 0 }] :
      List Instr), Issues i base) ∧ base.b.refill = none ∧
    (Issues (.toktest hd { y0 with sd := 2, s1 := 1, pd := some 0 }) working ∧
      ((working.cores.flatMap fun c => c.2.ops).map fun o => (o.uid, o.tk)) = [(1, 1)]) ∧
    (let s := inBody region0
     Issues (.rfinfo hd { y0 with vd := 1, sub := 2 }) s ∧ Issues (.rfinfo hd { y0 with sd := 1, sub := 3 }) s ∧
     s.regionOf s.b = some region0 ∧ (s.issued (.rfinfo hd { y0 with vd := 1 })).b.refill.isSome = true ∧
     (s.instGet s.b region0 0 0).isSome = true) ∧
    (let s := base.modB fun b => { b with wait := .yield 4 }
     (s.bough 1).map (fun b => b.wait) = some (.yield 4)) ∧
    let s := base.modB fun b => { b with wait := .sleep 4 }
    (s.bough 1).map (fun b => b.wait) = some (.sleep 4) :=
  ⟨all_issue (by decide +kernel), by decide +kernel, ⟨issues (by decide +kernel), by decide +kernel⟩,
    ⟨issues (by decide +kernel), issues (by decide +kernel), by decide +kernel⟩, by decide +kernel, by decide +kernel⟩

/-- A leaf entry for the page at physical address 0: writable, 1 GiB. -/
def leaf0 : W64 := 2 ^ 53 + 3
/-- `base` with 1 GiB at virtual address 0 mapped onto physical address 0, by its table and in its TLB; p0 holds in lane 0. -/
def mapped : State :=
  (((((base.modPart 0 fun p => { p with ptroot := 0x1000, fqbase := 0x8000 }).wr 0x1000 8 (0x2001 + 3 * 2 ^ 52)).wr 0x2000 8
    (0x3001 + 3 * 2 ^ 52)).wr 0x3000 8 leaf0.toNat).tlbFill 0 { part := 0, va := 0, size := 2, pte := leaf0 }).modB fun b =>
    b.setPd (some 0) 0xFFFFFFFF 1
/-- The same with the page mapped onto a peer that no link reaches. -/
def afar : State := mapped.tlbFill 0 { part := 0, va := 0, size := 2, pte := leaf0 + 0x100000000000 }
/-- Physical addresses to which the accesses of an instruction go, where it reaches its memory. -/
def reaches (s : State) (x : Xlated) : Bool :=
  x.miss == [] && x.bad == [] && x.good != [] && (x.good.find? fun p => s.unreachable s.b.part p.pa) == none
def ld1 : FmtM := { m0 with dv := 2, av := 4, ty := .n32 }
def lanes1 (s : State) (write : Bool) : Xlated := s.xlateLanes s.b write 4 (s.b.accesses ld1 (s.b.guard hp))
def pref1 : FmtM := { m0 with av := 4, sz := .b8 }
def local1 : FmtM := { ld1 with sp := .localSp }

theorem test_LoadIssues_met :
    (Issues (.ld hp local1) mapped ∧ mapped.windowBusy 4 (mapped.b.accesses local1 1) = false) ∧
    (let s := after (.ld hp ld1) mapped
     Issues (.ld hp { local1 with dv := 6, off := 256 }) s ∧ s.windowBusy 4 (s.b.accesses { local1 with off := 256 } 1) = true) ∧
    (Issues (.ld hp ld1) mapped ∧ reaches mapped (lanes1 mapped false) = true) ∧
    (Issues (.ld hp ld1) parted ∧ (lanes1 parted false).miss ≠ []) ∧
    Issues (.ld hp ld1) afar ∧ (lanes1 afar false).miss = [] ∧
      ((lanes1 afar false).good.find? fun p => afar.unreachable 0 p.pa).isSome = true :=
  ⟨⟨issues (by decide +kernel), by decide +kernel⟩, ⟨issues (by decide +kernel), by decide +kernel⟩,
    ⟨issues (by decide +kernel), by decide +kernel⟩, ⟨issues (by decide +kernel), by decide +kernel⟩, issues (by decide +kernel),
    by decide +kernel, by decide +kernel⟩

theorem test_ReadOnlyAndStores_met :
    (∀ i ∈ ([.ldro hp { ld1 with sp := .ro }, .prefL1 hp pref1, .prefDie hp pref1,
      .xprobe hp { pref1 with dv := 2, pd := some 1 }, .st hp local1, .st hp ld1, .st hp { ld1 with ord := true, sc := .pkg },
      .zline hp pref1] : List Instr), Issues i mapped) ∧
    (reaches mapped (mapped.xlateLanes mapped.b false 4 (mapped.b.accesses ld1 1)) = true ∧
      ((mapped.xlateLanes mapped.b false 4 (mapped.b.accesses ld1 1)).good.all fun p => mapped.roCheck p == none) = true ∧
      reaches mapped (mapped.xlateLanes mapped.b true 4 (mapped.b.accesses ld1 1)) = true ∧
      reaches mapped (mapped.xlateLanes mapped.b true 1 (mapped.b.accesses ld1 1)) = true ∧ mapped.windowBusy 4 [(0, 0)] = false ∧
      mapped.releaseReady mapped.b false = true) ∧
    (let s := after (.st hp ld1) mapped
     Issues (.st hp { ld1 with ord := true, sc := .pkg }) s ∧ s.releaseReady s.b false = false) ∧
    let s := after (.ld hp ld1) mapped
    Issues (.st hp { local1 with dv := 6, off := 256 }) s ∧ s.windowBusy 4 (s.b.accesses { local1 with off := 256 } 1) = true :=
  ⟨all_issue (by decide +kernel), by decide +kernel, ⟨issues (by decide +kernel), by decide +kernel⟩, issues (by decide +kernel),
    by decide +kernel⟩

theorem test_ReplayableFault_met :
    let s := mapped.modB fun b => { b with vregs := [(128, 0x40000000)], walkRes := [{ va := 0x4000, cause := 1, pte := 0, size := 0 }] }
    let x := s.xlateLanes s.b false 4 (s.b.accesses ld1 (s.b.guard hd))
    Issues (.ld hd ld1) s ∧ s.b.refill = none ∧ (s.part 0).fqbase ≠ 0 ∧ x.miss = [] ∧
    (x.good.find? fun p => s.unreachable 0 p.pa) = none ∧ laneMask (s.b.guard hd) (x.bad.map fun e => e.1) = 1 ∧ s.b.emr ≠ 1 ∧
    (x.bad.all fun e => !isCheck e.2.1) = true ∧
    (let s := mapped.modB fun b => { b with walkRes := [{ va := 0, cause := 0x42, pte := 0, size := 0 }] }
     let s : State := { s.modCore 0 fun c => { c with tlb := [] } with dtlb := [] }
     Issues (.ld hp ld1) s ∧ ((s.xlateLanes s.b false 4 (s.b.accesses ld1 1)).bad.map fun e => isCheck e.2.1) = [true]) :=
  ⟨issues (by decide +kernel), by decide +kernel, by decide +kernel, by decide +kernel, by decide +kernel, by decide +kernel,
    by decide +kernel, by decide +kernel, issues (by decide +kernel), by decide +kernel⟩

/-- A machine check beside a replayable fault, every lane at a fault, and a fault in an ordered retire section. -/
theorem test_ReplayableFault_more_met :
    (let s := mapped.modB fun b => { b with vregs := [(128, 0x40000000)], walkRes := [{ va := 0x4000, cause := 0x42, pte := 0, size := 0 },
       { va := 0, cause := 1, pte := 0, size := 0 }] }
     let s : State := { s.modCore 0 fun c => { c with tlb := [] } with dtlb := [] }
     let x := s.xlateLanes s.b false 4 (s.b.accesses ld1 (s.b.guard hd))
     Issues (.ld hd ld1) s ∧ x.miss = [] ∧ x.good = [] ∧ (x.bad.map fun e => isCheck e.2.1) = true :: List.replicate 31 false) ∧
    (let s := mapped.modB fun b => { b with walkRes := [{ va := 0, cause := 1, pte := 0, size := 0 }] }
     let s : State := { s.modCore 0 fun c => { c with tlb := [] } with dtlb := [] }
     let x := s.xlateLanes s.b false 4 (s.b.accesses ld1 (s.b.guard hd))
     Issues (.ld hd ld1) s ∧ x.miss = [] ∧ laneMask (s.b.guard hd) (x.bad.map fun e => e.1) = s.b.emr ∧ s.fpLanes s.b.emr = 0 ∧
       s.lineNear s.b s.b.pc = true ∧ s.b.nf = 0) ∧
    let r : Region := { region0 with ordered := true }
    let s := ((inBody r).modPart 0 fun p => { p with fqbase := 0x8000 }).modB fun b =>
      { b with emr := 1, walkRes := [{ va := 0, cause := 1, pte := 0, size := 0 }],
               refill := b.refill.map fun f => { f with body := f.body &&& ~~~1, retire := 1 } }
    let x := s.xlateLanes s.b false 4 (s.b.accesses ld1 (s.b.guard hd))
    Issues (.ld hd ld1) s ∧ x.miss = [] ∧ (x.bad.map fun e => isCheck e.2.1) = [false] ∧ s.regionOf s.b = some r ∧
      (s.b.refill.map fun y => y.retire.getLsbD 0) = some true ∧ s.b.nf = 0 ∧ s.b.tgroups = [] ∧ (s.b.reach.map fun e => e.kind) = [.refill] :=
  ⟨⟨issues (by decide +kernel), by decide +kernel⟩, ⟨issues (by decide +kernel), by decide +kernel⟩, issues (by decide +kernel),
    by decide +kernel⟩

/-- The line that the load reads has an uncorrectable error. -/
def spoilt : State := (after (.ld hp ld1) mapped).spoil 0
/-- One load of lane 0 in flight, and the same once its home has answered it. -/
def loading : State := after (.ld hp ld1) mapped
def loadId (s : State) : Nat := (s.loads.head?.map fun x => x.id).getD 0
def answered : State := after (.leaseGrant (loadId loading) 0) loading
/-- The partition's ring is full. -/
def choked (s : State) : State := s.modPart 0 fun p => { p with fqsize := 0, recs := 1 }
/-- A launch that is deterministic, with a spill area. -/
def det1 (s : State) : State :=
  { s.modPart 0 fun p => { p with dspsize := 0x100000 } with
    launches := s.launches.map fun l => { l with desc := { l.desc with det := true, cosched := true } } }
/-- The entry of line 0, of a launch and of the copse that owns it, with `n` logged writes of copse 0. -/
def heart0 (launch owner n : Nat) : Heart :=
  { part := 0, launch, line := 0, shared := false, owner, copy := 0, writers := [owner], atom := true,
    log := List.replicate n { by_ := { part := 0, launch, copse := 0, idx := 0, det := true, seq := 0, lane := 0 },
                              pa := 0, kind := .bytes 4 7 } }
def hearted (h : List Heart) (s : State) : State := { s with heart := h }

theorem heart0_entries (launch owner n : Nat) : logEntries (heart0 launch owner n).log = n := by
  have e (k : Nat) (w : HwWrite) (hw : w.kind.entries = 1) :
      (List.replicate n w).foldl (fun n w => n + w.kind.entries) k = k + n := by
    induction n generalizing k with
    | zero => rfl
    | succ n ih => rw [List.replicate_succ, List.foldl_cons, ih, hw]; omega
  exact (e 0 _ rfl).trans (Nat.zero_add n)

theorem heart0_logged (s : State) (launch owner n k : Nat) :
    (hearted [heart0 launch owner n] s).logged k = if homeOf 0 = k then n else 0 := by
  have e : (heart0 launch owner n).line = 0 := rfl
  simp only [State.logged, hearted, List.filter_cons, List.filter_nil, e, beq_iff_eq]
  split <;> simp_all [heart0_entries]

theorem heart0_full (s : State) (launch owner n : Nat) :
    (hearted [heart0 launch owner n] s).heartFull 0 0 =
      (decide (n ≥ Config.heartRoom (homeOf 0)) && decide (n - Config.heartRoom (homeOf 0) ≥ (s.part 0).dspsize.toNat / 128)) := by
  have e : ((hearted [heart0 launch owner n] s).heart.filter fun h => h.part == 0) = [heart0 launch owner n] := rfl
  have d : [homeOf (128 * (heart0 launch owner n).line)].eraseDups = [homeOf 0] := rfl
  have q : (hearted [heart0 launch owner n] s).part 0 = s.part 0 := rfl
  simp only [State.heartFull, e, d, q, List.map_cons, List.map_nil, List.foldl_cons, List.foldl_nil, heart0_logged, if_true,
    Nat.zero_add, Nat.mul_zero]

/-- With one entry of few writes and a spill area of more lines there is room, whatever a slice holds. -/
theorem roomy (s : State) (launch owner n : Nat) (h : n < (s.part 0).dspsize.toNat / 128) :
    (hearted [heart0 launch owner n] s).heartFull 0 0 = false := by
  rw [heart0_full, Bool.and_eq_false_iff, decide_eq_false_iff_not, decide_eq_false_iff_not]
  omega

/-- Without a spill area an entry with as many writes as its slice holds leaves no room. -/
theorem choking (s : State) (launch owner : Nat) (h : (s.part 0).dspsize.toNat = 0) :
    (hearted [heart0 launch owner (Config.heartRoom (homeOf 0))] s).heartFull 0 0 = true := by
  simp [heart0_full, h]

theorem test_LoadSteps_met :
    ((loading.loads.map fun x => (x.id == loadId loading, x.acc.map fun a => a.got)) = [(true, [none])] ∧
      (loading.loads.all fun x => x.acc.all fun a => !loading.unacked x.core x.id a.pa a.n &&
        loading.homeCheck x.part x.launch (loading.isDet x.part x.launch) a.pa a.n == none) = true) ∧
    ((spoilt.loads.map fun x => x.n) = [4] ∧ (spoilt.loads.all fun x => x.acc.all fun a => (spoilt.l1Answer x a).isNone &&
        !spoilt.unacked x.core x.id a.pa a.n && (spoilt.homeCheck x.part x.launch (spoilt.isDet x.part x.launch) a.pa a.n).isSome) = true ∧
      ((spoilt.bough 1).bind fun b => spoilt.launchOf b).map (fun l => l.killed) = some false ∧
      ((after (.leaseGrant (loadId spoilt) 0) spoilt).launch 0 0).map (fun l => (l.killed, l.endst)) = some (true, 2)) ∧
    (let s := after (.ld hp ld1) (after (.st hp ld1) mapped)
     (s.loads.map fun x => (x.acc.map fun a => (a.got, s.unacked x.core x.id a.pa a.n))) = [[(none, true)]]) ∧
    (let s := after (.ld hp { ld1 with dv := 6 }) loading
     (s.loads.map fun x => x.acc.map fun a => (a.got, s.unacked x.core x.id a.pa a.n, s.readsBefore x a)) =
       [[(none, false, false)], [(none, false, true)]]) ∧
    (answered.loads.map fun x => (x.uid, x.tr, x.acc.all fun a => a.got.isSome)) = [(1, false, true)] ∧ (answered.bough 1).isSome = true := by
  decide +kernel

/-- The ring is full where the load meets an error; and loads of a deterministic launch from a line of its log. -/
theorem test_LoadSteps_more_met :
    (let s := choked spoilt
     s.doomed 0 0 = false ∧ spoilt.ringBusy 0 = false ∧ (s.part 0).fqbase ≠ 0 ∧ (s.part 0).fqFree (s.part 0).recs = false ∧
       (s.loads.all fun x => x.acc.all fun a => (s.l1Answer x a).isNone && !s.unacked x.core x.id a.pa a.n && !s.readsBefore x a &&
         (s.homeCheck x.part x.launch (s.isDet x.part x.launch) a.pa a.n).isSome) = true ∧
       ((after (.leaseGrant (loadId s) 0) s).bough 1).map (fun b => b.wait) = some .fault ∧
       ((after (.leaseGrant (loadId s) 0) s).launch 0 0).map (fun l => l.killed) = some false ∧
       (after (.leaseGrant (loadId s) 0) s).doomed 0 0 = true) ∧
    (∀ owner ∈ [0, 1], let s := hearted [heart0 0 owner 1] (after (.ld hp ld1) (det1 mapped))
     s.loads.length = 1 ∧ s.loads.all fun x => s.isDet x.part x.launch && x.cid == 0 && x.acc.length == 1 && x.acc.all fun a =>
       a.pa == 0 && s.homeCheck x.part x.launch true a.pa a.n == none && (s.l1Answer x a).isNone &&
         s.homeRead 0 0 0 true a.pa a.n == if owner == 0 then 0 else 7) := by
  decide +kernel

theorem test_StoreSteps_met :
    let s := after (.st hp { ld1 with dv := 6 }) (after (.st hp ld1) mapped)
    let z := after (.zline hp pref1) mapped
    (s.stores.map fun x => (s.mustWait x.uid x.by_.seq (x.pa / 128), x.by_.det, x.kind)) =
      [(false, false, .bytes 4 0), (true, false, .bytes 4 0)] ∧
    (z.stores.map fun x => (z.mustWait x.uid x.by_.seq (x.pa / 128), x.kind)) = [(false, .zero)] ∧
    (let w : List Store := (z.stores.take 1).flatMap fun x =>
       [{ x with thru := 1, kind := .bytes 4 1 }, { x with id := x.id + 1, uid := x.uid + 1, thru := 1, kind := .bytes 4 2 }]
     let s : State := { z with stores := w }
     w.map (fun x => (s.mustWait x.uid x.by_.seq (x.pa / 128), s.thruBefore x)) = [(false, false), (false, true)]) ∧
    s.heart = [] ∧
    let a := s.stores.foldl (fun s x => after (.storePerform x.id) s) s
    (a.acks.map fun x => x.uid) = [1, 1] ∧ ((a.bough 1).bind fun b => a.copseOf b).map (fun c => c.at_) = some .resident := by
  decide +kernel

/-- Stores of a deterministic launch to a line without an entry, to one that it owns, to one that another copse owns, and to one of
another launch; with room for the log and without. -/
theorem test_StoreSteps_det_met :
    (let s := after (.st hp ld1) (det1 mapped)
     s.stores.length = 1 ∧ (s.stores.all fun x => x.by_.det && x.by_.part == 0 && x.by_.launch == 0 && x.by_.copse == 0 && x.pa == 0 &&
       !s.mustWait 1 x.by_.seq 0 && !s.thruBefore x) = true ∧
       (s.launch 0 0).map (fun l => l.killed) = some false ∧ s.heartOf 0 = none ∧
       ∀ h ∈ [heart0 0 0 1, heart0 0 1 1, heart0 1 0 1], (hearted [h] s).heartOf 0 = some h) ∧
    (after (.st hp ld1) (det1 mapped)).heartFull 0 0 = false ∧
    (∀ owner : Nat, (hearted [heart0 0 owner 1] (after (.st hp ld1) (det1 mapped))).heartFull 0 0 = false) ∧
    ∀ owner : Nat, (hearted [heart0 0 owner (Config.heartRoom (homeOf 0))] (after (.st hp ld1) (det1 mapped) |>.modPart 0 fun p =>
      { p with dspsize := 0 })).heartFull 0 0 = true := by
  refine ⟨by decide +kernel, ?_, fun o => roomy _ _ _ _ (by decide +kernel), fun o => choking _ _ _ (by decide +kernel)⟩
  simp only [State.heartFull, Bool.and_eq_false_iff]
  exact .inr (by decide +kernel)

theorem test_Completions_met :
    (let s := after (.ld hp ld1) { mapped.modCore 0 fun c => { c with tlb := [] } with dtlb := [] }
     (s.walks.map fun w => w.joined) = [[1]] ∧ s.walk 0 0 = .leaf leaf0 2) ∧
    (let s := after (.ld hp ld1) parted
     (s.walks.map fun w => (w.joined, s.walk w.part (w.va * 2 ^ 16))) = [([1], .fail 0x01)]) ∧
    let s : State := { base with infl := [{ id := 5, uid := 1, tok := 12 }, { id := 6, uid := 1, tok := 12 }] }
    let t : State := { base with infl := [{ id := 5, uid := 1, tok := 12 }] }
    (s.infl.find? fun x => x.id == 5).isSome = true ∧ (s.bough 1).isSome = true ∧
      ({ s with infl := s.infl.filter fun y => y.id != 5 } : State).tokHeld 12 = true ∧
      ({ t with infl := t.infl.filter fun y => y.id != 5 } : State).tokHeld 12 = false := by
  decide +kernel

/-- `mapped` with a line in memory at its PC: one of NOPs whose wait mask is `wm`. -/
def atLine (x : BitVec 512) : State := mapped.wr 0 64 x.toNat
def nops : BitVec 512 := wordLine 0x447000000000700000000000 none

theorem test_LineEntry_met :
    (let s := atLine nops
     s.b.status = .running ∧ s.b.emr ≠ 0 ∧ s.b.inLine = false ∧ (s.fetch s.b (lineAddr s.b.pc)).1 = .line nops ∧
       lineMalformed nops = false ∧ s.b.checkTM = false ∧ (lineWM nops) = 0) ∧
    (let x := wordLine 0x447000000000700000000000 (some 0)
     let s := (atLine x).modB fun b => { b with pc := 12, checkTM := true }
     (s.fetch s.b (lineAddr s.b.pc)).1 = .line x ∧ lineMalformed x = false ∧ lineTM x (slotOf s.b.pc) = false) ∧
    (let x : BitVec 512 := nops + 3 * 2 ^ 508
     let s := atLine x
     (s.fetch s.b (lineAddr s.b.pc)).1 = .line x ∧ lineMalformed x = true) ∧
    let x : BitVec 512 := nops ^^^ 2 ^ 480 ^^^ 2 ^ 511
    let s := (atLine x).modB fun b => { b with flags := [(0, 1)] }
    (s.fetch s.b (lineAddr s.b.pc)).1 = .line x ∧ lineMalformed x = false ∧ (lineWM x).testBit 0 = true ∧ s.b.flag 0 ≠ 0 := by
  decide +kernel

/-- The page at 0 as a page of 8-bit level counters. -/
def counters : State := mapped.tlbFill 0 { part := 0, va := 0, size := 2, pte := leaf0 + 2 ^ 56 }
def at1 : FmtM := { ld1 with dv := 8, sc := .pkg }
def lc1 : FmtM := { pref1 with ty := .i8 }
/-- A store of lane 0 in flight. -/
def storing : State := after (.st hp ld1) mapped

theorem test_AtomicIssues_met :
    (∀ i ∈ ([.atom hp at1, .atom hp { at1 with aop := 9, am := .uniform, av := 0 }, .red hp { at1 with ord := true }, .red hp { at1 with aop := 11 },
      .cas hp { at1 with pd := some 1 }, .cas hp { at1 with sz := .b128, ty := .n64 }] : List Instr), Issues i mapped) ∧
    (∀ i ∈ ([.lcadd hp lc1, .lcread hp { lc1 with dv := 6 }, .lcmerge hp { lc1 with dv := 3 }] : List Instr), Issues i counters) ∧
    (let x := mapped.xlateLanes mapped.b true 4 (mapped.b.atomAddrs at1 4 1)
     reaches mapped x = true ∧
       ∀ p ∈ x.good, ({ aop := 0, ty := .n32, size := 4, sc := .pkg, ret := true, lcw := 0 } : AtomReq).fault p = none) ∧
    (let x := counters.xlateLanes counters.b false 1 (counters.b.counters lc1 1)
     reaches counters x = true ∧
       ∀ p ∈ x.good, ({ aop := 14, ty := .i8, size := 1, sc := .core, ret := true, lcw := 0 } : AtomReq).fault p = none) ∧
    Issues (.red hp { at1 with ord := true }) storing ∧ storing.releaseReady storing.b false = false :=
  ⟨all_issue (by decide +kernel), all_issue (by decide +kernel), by decide +kernel, by decide +kernel, issues (by decide +kernel),
    by decide +kernel⟩

theorem test_AtomicSteps_met :
    (let s := after (.atom hp at1) mapped
     (s.atoms.all fun x => x.ret && x.aop == 0 && !x.by_.det && x.groups.all fun y =>
       !y.done && y.place == 2 && !s.mustWait x.uid x.id (y.pa / 128) && s.badAt y.pa x.size == none) = true ∧
       (s.atoms.map fun x => x.groups.length) = [1] ∧ s.heart.length = 0) ∧
    (let s := after (.red hp at1) (after (.red hp at1) mapped)
     (s.atoms.map fun x => x.groups.map fun y => s.mustWait x.uid x.id (y.pa / 128)) = [[false], [true]]) ∧
    let s := after (.cas hp { at1 with pd := some 1 }) mapped
    let t := s.atoms.foldl (fun s x => after (.atomicBatch x.id 0) s) s
    (t.atoms.all fun x => x.ret && !x.tr && x.groups.all fun g => g.done) = true ∧
      (t.atoms.map fun x => x.groups.flatMap fun g => g.lanes.map fun a => a.lane) = [[0]] ∧ (t.bough 1).isSome = true ∧
      t.loads.length = 0 := by
  decide +kernel

/-- The bough on a core of die 1, whose home die is not that of line 0. -/
def onDie : State := (mapped.modB fun b => { b with core := 256 }).tlbFill 256 { part := 0, va := 0, size := 2, pte := leaf0 }
def place4 (sc : Scope) : Instr := .red hp { at1 with sc }
/-- The place of the only atomic in flight and whether it may act and fetch, where the conditions of its clause hold. -/
def placed (s : State) : Option (Nat × Bool) := match s.atoms with
  | [x] => x.groups.head?.bind fun y =>
      if !y.done && !s.mustWait x.uid x.id (y.pa / 128) && decide (x.aop < 13) && !x.by_.det && s.badAt y.pa x.size == none &&
        decide (y.pa % 32 + x.size ≤ 32) then some (y.place, s.fetchHeld x y) else none
  | _ => none

theorem test_AtomicSteps_places_met :
    (Issues (place4 .core) mapped ∧ placed (after (place4 .core) mapped) = some (0, false) ∧ ((mapped.core 0).l1Hit 4 0).isNone = true) ∧
    (let s := storing.stores.foldl (fun s x => after (.storePerform x.id) s) storing
     placed (after (place4 .core) s) = some (0, true)) ∧
    (let s := storing.stores.foldl (fun s x => after (.storePerform x.id) s) storing
     let s := s.acks.foldl (fun s x => after (.storeAcknowledgement x.id) s) s
     let s := loading.loads.foldl (fun s x => after (.leaseGrant x.id 0) s) { s with loads := loading.loads }
     placed (after (place4 .core) s) = some (0, false) ∧ ((s.core 0).l1Hit s.time 0).isSome = true) ∧
    (Issues (place4 .die) onDie ∧ placed (after (place4 .die) onDie) = some (1, false) ∧ onDie.dcopies = []) ∧
    let s := after (place4 .die) onDie
    let t := s.atoms.foldl (fun s x => after (.atomicBatch x.id 0) s) s
    t.dcopies.length = 1 ∧
      placed { t with atoms := s.atoms.map fun x => { x with uid := 9, id := x.id + 90 }, dcopies := [] } = some (1, true) ∧
      placed { t with atoms := s.atoms.map fun x => { x with uid := 9, id := x.id + 90 } } = some (1, true) :=
  ⟨⟨issues (by decide +kernel), by decide +kernel⟩, by decide +kernel, by decide +kernel,
    ⟨issues (by decide +kernel), by decide +kernel⟩, by decide +kernel⟩

/-- Level counters, and atomics of a deterministic launch, at a line without an entry and with one. -/
theorem test_AtomicSteps_home_met :
    (∀ i ∈ ([.lcadd hp lc1, .lcread hp { lc1 with dv := 6 }, .lcmerge hp { lc1 with dv := 3 }] : List Instr),
      let s := after i counters
      s.atoms.length = 1 ∧ s.atoms.all fun x => decide (13 ≤ x.aop) && !x.by_.det && x.groups.length == 1 && x.groups.all fun y =>
        !y.done && y.place == 2 && !s.mustWait x.uid x.id (y.pa / 128) && s.heartOf (y.pa / 128) == none && s.badAt y.pa x.size == none &&
          y.pa == lcByte x.lcw y.ctr && !isPeer y.pa && x.ret == (x.aop == 14)) ∧
    (∀ i ∈ ([.atom hp at1, .red hp at1, .cas hp { at1 with pd := some 1 }] : List Instr), ∀ h ∈ [[], [heart0 0 0 1], [heart0 0 1 1]],
      let s := hearted h (after i (det1 mapped))
      (s.launch 0 0).map (fun l => l.killed) = some false ∧ s.atoms.length = 1 ∧ s.atoms.all fun x => x.by_.det && x.by_.part == 0 &&
        x.by_.launch == 0 && x.groups.length == 1 && x.groups.all fun y => !y.done && y.place == 2 && y.pa == 0 && y.lanes != [] &&
          !s.mustWait x.uid x.id 0 && s.badAt y.pa x.size == none) ∧
    (let s := after (.cas hp { at1 with pd := some 1 }) (det1 (mapped.modB fun b => { b with vregs := [(8 * 32, 5)] }))
     s.atoms.length = 1 ∧ s.atoms.all fun x => x.groups.all fun y => (x.batch y (s.rd y.pa x.size)).2 == none) ∧
    (after (.red hp at1) (det1 mapped)).heartFull 0 0 = false ∧
    ∀ owner : Nat, (hearted [heart0 0 owner 1] (after (.red hp at1) (det1 mapped))).heartFull 0 0 = false := by
  refine ⟨by decide +kernel, by decide +kernel, by decide +kernel, ?_, fun o => roomy _ _ _ _ (by decide +kernel)⟩
  simp only [State.heartFull, Bool.and_eq_false_iff]
  exact .inr (by decide +kernel)

/-- `base` in a launch whose descriptor is changed. -/
def kernel (g : Desc → Desc) : State := { base with launches := base.launches.map fun l => { l with desc := g l.desc } }
def two : State := kernel fun d => { d with copse := 2 }
def bar (n : BitVec 32) : FmtY := { y0 with imm := 16 * n + 3 }

theorem test_CopseBarriers_met :
    (∀ i ∈ ([.bar hd (bar 1), .barArrive hd (bar 1), .barWait hd { y0 with imm := 3 }, .bar hd (bar 0)] : List Instr), Issues i base) ∧
    (∀ i ∈ ([.bar hd (bar 2), .barArrive hd (bar 2)] : List Instr), Decoded i base) ∧
    (let s := two.modCopse 0 0 0 fun c => { c with bars := [(3, { gen := 0, target := 2, arr := [1] })] }
     Issues (.bar hd (bar 2)) s ∧ Issues (.barArrive hd (bar 2)) s ∧ s.b.arrived = false ∧ s.releaseReady s.b true = true ∧
       s.b.uid ∈ (s.barOf 3).arr) ∧
    ((base.copseOf base.b).map (fun c => (c.bar 3).arr) = some [] ∧ base.badCount 1 = false ∧ base.badCount 2 = true ∧
      base.releaseReady base.b true = true ∧ base.b.arrived = false ∧ two.badCount 2 = false) ∧
    (Issues (.bar hd (bar 2)) two ∧ (two.copseOf two.b).isSome = true) ∧
    (Issues (.bar hp (bar 1)) storing ∨ Issues (.bar hd (bar 1)) storing) ∧ storing.releaseReady storing.b true = false ∧
    (let s := (after (.bar hd (bar 2)) two).modCopse 0 0 0 fun c => { c with bars := [(3, { gen := 1, target := 0, arr := [] })] }
     Issues (.bar hd (bar 2)) s ∧ s.b.arrived = true ∧ s.b.arrGen < (s.barOf 3).gen) ∧
    let s := after (.barArrive hd (bar 2)) two
    Issues (.barWait hd { y0 with imm := 3 }) s ∧ (s.barOf 3).gen < (Sparse.get s.b.lastArr 3).toNat :=
  ⟨all_issue (by decide +kernel), fun i hi => decoded (by revert i; decide +kernel),
    ⟨issues (by decide +kernel), issues (by decide +kernel), by decide +kernel⟩,
    by decide +kernel, ⟨issues (by decide +kernel), by decide +kernel⟩, .inr (issues (by decide +kernel)),
    by decide +kernel, ⟨issues (by decide +kernel), by decide +kernel⟩, issues (by decide +kernel), by decide +kernel⟩

def together : State := kernel fun d => { d with cosched := true }
def phased : State := kernel fun d => { d with cosched := true, det := true }
/-- The bough has arrived at a barrier whose generation is `g`. -/
def waited (g : Nat) (s : State) : State :=
  { s with launches := s.launches.map fun l => { l with ggen := g }, b := { s.b with arrived := true, arrGen := 0 } }

theorem test_LaunchBarriers_met :
    (∀ i ∈ ([.gbar hd y0, .detphase hd { y0 with pd := some 1 }] : List Instr), (∀ s ∈ [phased, waited 1 phased, waited 0 phased],
      Issues i s) ∧ Decoded i base) ∧ ((base.launchOf base.b).map fun l => l.desc.cosched) = some false ∧
    Decoded (.detphase hd y0) together ∧ ((together.launchOf together.b).map fun l => (l.desc.cosched, l.desc.det)) = some (true, false) ∧
    (∀ s ∈ [together, waited 1 together, waited 0 together], Issues (.gbar hd y0) s) ∧ Issues (.detq hd { y0 with sd := 1 }) phased ∧
    (Issues (.gbar hd y0) { storing with launches := together.launches } ∧ storing.releaseReady storing.b false = false) ∧
    (let s : State := { together with boughs := [{ together.b with uid := 9, idx := 1, slot := 1 }] }
     Issues (.gbar hd y0) s ∧ s.b.arrived = false ∧ s.releaseReady s.b false = true ∧ (s.launchOf s.b).map (fun l => (l.desc.det, l.garr)) =
       some (false, []) ∧ s.allBoughs.any fun b => b.part == 0 && b.launch == 0 && b.status != .ended && b.uid != s.b.uid) ∧
    together.releaseReady together.b false = true ∧ (∀ b ∈ together.allBoughs, b.uid = together.b.uid) ∧
    (let s := after (.gbar hd y0) phased
     ((s.launch 0 0).map fun l => (l.desc.det, s.gbarComplete l, l.phaseWait)) = some (true, true, none) ∧
     let t := after (.phaseEnd 0) s
     ((t.launch 0 0).bind fun l => l.phaseWait).isSome = true ∧ ((t.launch 0 0).map fun l => t.gbarComplete l) = some true) :=
  ⟨fun i hi => ⟨fun s hs => issues (by revert i s; decide +kernel), decoded (by revert i; decide +kernel)⟩, by decide +kernel,
    decoded (by decide +kernel), by decide +kernel, fun s hs => issues (by revert s; decide +kernel), issues (by decide +kernel),
    ⟨issues (by decide +kernel), by decide +kernel⟩, ⟨issues (by decide +kernel), by decide +kernel⟩, by decide +kernel, by decide +kernel,
    by decide +kernel⟩

theorem test_FencesAndBanks_met :
    (∀ i ∈ ([.fenceAcq hd { y0 with sub := 3 }, .fenceRel hd { y0 with sub := 2 }, .fenceAcqrel hd { y0 with sub := 0 }, .cinvSys hd y0, .cinvRo hd y0,
      .bankrole hd { y0 with imm := 0x208, pd := some 1 }, .bankrole hd { y0 with imm := 0x108 }, .bankrole hd { y0 with imm := 0x108, pd := some 1 },
      .bankq hd { y0 with sd := 1, imm := 47 }] : List Instr), Issues i base) ∧
    (base.loadsDone 1 = true ∧ base.releaseReady base.b false = true ∧ base.roleRefused base.b 8 .scr = false ∧
      (base.core 0).engineUses base.b.own 8 = false ∧ base.matLocal 1 = false ∧ base.roleRefused base.b 8 .reg = true) ∧
    (Issues (.fenceRel hd { y0 with sub := 2 }) storing ∧ storing.releaseReady storing.b false = false) ∧
    Issues (.bankrole hd { y0 with imm := 0x008, pd := some 1 }) working ∧ working.roleRefused working.b 8 .cac = false ∧
      (working.core 0).engineUses working.b.own 8 = true :=
  ⟨all_issue (by decide +kernel), by decide +kernel, ⟨issues (by decide +kernel), by decide +kernel⟩, issues (by decide +kernel),
    by decide +kernel, by decide +kernel⟩

def e5 : FmtE := { e0 with tk := 8, fp := 2, pa := 3, pb := 4, pc := 5 }
/-- 32 operations in the core's engines. -/
def full5 : State := mapped.modCore 0 fun c => { c with ops := List.replicate 32 acopy0 }
/-- The copse owns slots 0 to 7. -/
def slotted (s : State) : State := s.modCore 0 fun c => { c with slotOwn := (List.range 8).map fun k => (k, s.b.own) }
def engineOps : List Instr :=
  [.acopy false true hd e5, .acopy true false hd e5, .acopy false false hd e5, .acopy true true hd e5, .afill hd { e5 with imm := 1 },
   .agather hd { e5 with vx := 6, pa := 0, pc := 0, imm := 16 }, .ascatter hd { e5 with vx := 6, pb := 0, pc := 0, imm := 16 },
   .acoll hd { e5 with imm := 4 }, .kvgather hd { e5 with sub := 1, vx := 6 }]
def slotOps : List Instr :=
  [.opfill false hd { e5 with pc := 0 }, .opfill true hd { e5 with pc := 0 }, .attn none hd e5,
   .attn (some { causal := true, g := 0, win := 1, ks := 0, qs := 0 }) hd e5]

theorem test_EngineIssues_met :
    (∀ i ∈ engineOps ++ slotOps, ∀ s ∈ [mapped, full5, slotted mapped], Issues i s) ∧ (mapped.part 0).fqbase ≠ 0 ∧ (mapped.core 0).ops = [] ∧ mapped.ecc = [] ∧ full5.ecc = [] ∧
    (full5.core 0).ops.length = 32 ∧
    ∀ i ∈ slotOps, ((matNames i).all fun k => (slotted mapped).ownsSlot mapped.b k) = true ∧
      ((matNames i).all fun k => mapped.ownsSlot mapped.b k) = false :=
  ⟨fun i hi s hs => issues (by revert i s; decide +kernel), by decide +kernel⟩

/-- The copse holds every bank as SCR, and an operation is in its core's scheduler whose record lets it read and write all bytes. -/
def banked (s : State) : State := s.modCore 0 fun c =>
  { c with roles := (List.range 48).map fun k => (k, .scr), owners := (List.range 48).map fun k => (k, lkey 0 0, 0) }
def op5 : EngOp :=
  { acopy0 with rec_ := [true, false].flatMap fun write => [{ write, localSp := true, base := 0, len := 0xC0000 },
    { write, localSp := false, base := 0, len := 2 ^ 30 }] }
def engaged (o : EngOp) : State := (banked mapped).modCore 0 fun c => { c with ops := [o] }

/-- The operation sees a byte, and may write bytes, as tests. -/
def seesB (s : State) (o : EngOp) (loc : Bool) (a pa v : Nat) : Bool :=
  o.allowed false loc a && if loc then (s.localRd 0 o.part o.launch o.cid a).toNat == v
  else tlbOk s 0 o.part a 1 pa false && s.homeCheck o.part o.launch (s.isDet o.part o.launch) pa 1 == none &&
    s.homeRead o.part o.launch o.cid (s.isDet o.part o.launch) pa 1 == v
def mayB (s : State) (o : EngOp) (loc : Bool) (a n pa : Nat) : Bool :=
  (List.range n).all (fun i => o.allowed true loc (a + i)) &&
  if loc then (List.range n).all fun i => decide (a + i < 0xC0000) && (s.core 0).role ((a + i) / 0x4000) == .scr &&
    (s.core 0).owner ((a + i) / 0x4000) == some (lkey o.part o.launch, o.cid)
  else tlbOk s 0 o.part a n pa true && !s.isDet o.part o.launch && (List.range n).all fun i => s.heartOf ((pa + i) / 128) == none

theorem sees {s : State} {o : EngOp} {loc : Bool} {a pa v : Nat} (h : seesB s o loc a pa v = true) : s.engSees 0 o loc a v := by
  cases loc <;> simp only [seesB, State.engSees, Bool.and_eq_true, beq_iff_eq, if_true, Bool.false_eq_true, if_false] at *
  · exact ⟨h.1, pa, holds h.2.1.1, h.2.1.2, h.2.2⟩
  · exact h

theorem may {s : State} {o : EngOp} {loc : Bool} {a n pa : Nat} (h : mayB s o loc a n pa = true) : s.engMayWrite 0 o loc a n pa := by
  cases loc <;> simp only [mayB, State.engMayWrite, Core.scratch, Bool.and_eq_true, beq_iff_eq, if_true, Bool.false_eq_true, if_false,
    List.all_eq_true, List.mem_range, decide_eq_true_eq, Bool.not_eq_true'] at *
  · exact ⟨h.1, holds h.2.1.1, h.2.1.2, h.2.2⟩
  · exact ⟨h.1, fun i hi => ⟨(h.2 i hi).1.1, (h.2 i hi).1.2, (h.2 i hi).2⟩⟩

def copyOp (sl dl : Bool) : EngOp := { op5 with instr := .acopy sl dl hd e5, pa := 0x9000, pb := 0x9004 }
def fillOp (done : Nat) : EngOp := { op5 with instr := .afill hd e5, pa := 0x9000, pb := 0, units := 128, done }
def laneOp (g : Bool) : EngOp :=
  let f := { e5 with vx := 6, pa := 0, pc := 0, imm := 2 }
  { op5 with instr := if g then .agather hd f else .ascatter hd f, pa := 0x4000, pb := 0x8000, vx := [0x9000, 2 ^ 63] }
def collOp5 : EngOp := { op5 with instr := .acoll hd { e5 with imm := 4 }, aux := [3], pb := 0x9000, pc_ := 8, units := 8 }
def collected : State := { engaged collOp5 with
  comms := [{ part := 0, id := 0, ranks := [(31, 0)] }],
  colls := [{ comm := 0, k := 3, part := 0, rank := 0, size := 1, sub := 0, ty := 4, count := 8, words := [1, 2, 3, 4, 5, 6, 7, 8], doneBy := [] }] }
def fillOp5 (glob : Bool) : EngOp :=
  { op5 with instr := .opfill glob hd { e5 with pc := 0, imm := 0x100 }, pa := 0x9000, aux := [4 + 2 ^ 128 * 15], units := 16 }
def kvOp (page : Nat) (sub : BitVec 8) : EngOp :=
  { op5 with instr := .kvgather hd { e5 with sub, vx := 6 }, pb := 0, pc_ := 0, aux := [page], units := 32 }
def attnOp : EngOp := { op5 with instr := .attn none hd { e5 with imm := 3 }, pa := 0, pb := 20, pc_ := 0x3F800000, units := 2, aux := [] }
/-- The operation is the one that its number names, and its next unit may be done. -/
def atUnit (s : State) : Bool := match s.engOp 90 with
  | some (core, o) => core == 0 && (s.core 0).ops.head? == some o && o.status == 0xFF && o.seq == 0 && o.haveRec && o.started &&
    decide (o.done < o.units) && !(s.part o.part).halted
  | none => false

theorem test_EngineSteps_met :
    ((working.engOp 90).map (fun x => x.1) = some 0 ∧ acopy0.allowed true true 0x20000 = true ∧
      (working.core 0).owner 8 = some (lkey 0 0, 0) ∧ (working.core 0).role 8 = .scr ∧ acopy0.done + 1 < acopy0.units ∧
      (working.part 0).halted = false) ∧
    ([engaged (copyOp false false), engaged (copyOp true true), engaged (copyOp false true), engaged (copyOp true false), engaged (fillOp 0),
      engaged (fillOp 127), engaged (laneOp true), engaged { laneOp true with done := 1 }, engaged (laneOp false), collected,
      engaged (fillOp5 true), engaged (fillOp5 false), engaged (kvOp (2 ^ 32) 3), engaged (kvOp noPage 5), engaged (kvOp noPage 1),
      engaged (kvOp 7 1), engaged attnOp].all atUnit = true) ∧
    ((∀ l ∈ [true, false], (engaged (copyOp l l)).engSees 0 (copyOp l l) l 0x9000 0 ∧
        (engaged (copyOp l l)).engMayWrite 0 (copyOp l l) l 0x9004 1 0x9004) ∧
      (engaged (fillOp 127)).engMayWrite 0 (fillOp 127) false 0x907F 1 0x907F ∧
      (∀ g ∈ [true, false], (∀ i < 2, (engaged (laneOp g)).engSees 0 (laneOp g) (!g) ((if g then 0x9000 else 0x4000) + i) 0) ∧
        (engaged (laneOp g)).engMayWrite 0 (laneOp g) g (if g then 0x8000 else 0x9000) 2 0x9000) ∧
      collected.engMayWrite 0 collOp5 false 0x9000 4 0x9000 ∧
      (∀ g ∈ [true, false], ∀ i < 4, (engaged (fillOp5 g)).engSees 0 (fillOp5 g) (!g) (0x9000 + i) 0)) ∧
    ((∀ u < 16, (engaged (kvOp 7 1)).engMayWrite 0 (kvOp 7 1) true (kRow 0 0 u) 256 0) ∧
      ∀ u < 16, ∀ i < 256, (engaged (kvOp 7 1)).engSees 0 (kvOp 7 1) false (mapped.kvAddr 0 7 u 0 false + i) 0) ∧
    (collected.collGate 0 { e5 with imm := 4 } collOp5 = none ∧ (collected.comm 0 0).bind (fun m => m.rankOf 0) = some 0 ∧
      layAddr 0x9000 (4 + 2 ^ 128 * 15) 0 = 0x9000 ∧ (engaged attnOp).attnWaits 0 attnOp = false ∧ visible none [] 0 0 = true) ∧
    let s := base.modCore 0 fun c => { c with ops := [{ acopy0 with status := 0, done := 8 }] }
    (s.engOp 90).isSome = true ∧ (s.bough 1).isSome = true ∧ ((s.bough 1).bind fun b => s.copseOf b).isSome = true ∧
      (((s.bough 1).bind fun b => s.copseOf b).map fun c => c.at_) = some .resident :=
  ⟨by decide +kernel, by decide +kernel,
    ⟨fun l hl => ⟨sees (pa := 0x9000) (by revert l; decide +kernel), may (by revert l; decide +kernel)⟩, may (by decide +kernel),
      fun g hg => ⟨fun i hi => sees (pa := 0x9000 + i) (by revert g i; decide +kernel), may (by revert g; decide +kernel)⟩,
      may (by decide +kernel), fun g hg i hi => sees (pa := 0x9000 + i) (by revert g i; decide +kernel)⟩,
    ⟨fun u hu => may (by revert u; decide +kernel),
      fun u hu i hi => sees (pa := mapped.kvAddr 0 7 u 0 false + i) (by revert u i; decide +kernel)⟩,
    by decide +kernel, by decide +kernel⟩

/-- A sequence entry at 0x10000 with `len` tokens, one layer of four pages, the first `n` of them held, and one like it at 0x10040
with no token; the pool has ten pages. -/
def entry (len n : Nat) : State :=
  let e (list len : Nat) : Nat := list + 2 ^ 64 * len + 2 ^ 96 * 4 + 2 ^ 112 + 2 ^ 169
  let pages (n : Nat) : Nat := n * 0 + (2 ^ 128 - 2 ^ (32 * n)) + if n = 2 then 2 ^ 32 else 0
  let s := (((mapped.wr 0x10000 64 (e 0x11000 len)).wr 0x10040 64 (e 0x12000 0)).wr 0x11000 16 (pages n)).wr 0x12000 16 (pages 0)
  let s := s.modPart 0 fun p =>
    { (List.range n).foldl (fun p i => p.addRef i) p with poolbase := 0x100000, poolsize := 10, quota := 10 }
  s.modB fun b => ((((b.setSreg 1 0x10000).setSreg 2 2).setSreg 3 0x10000).setSreg 4 0x20000).setSreg 5 0x21000
def y5 : FmtY := { y0 with sd := 6, s1 := 1, s2 := 2, pd := some 1 }
def append1 : FmtE := { e0 with pa := 3, pb := 4, pc := 5, imm := 0x1000 }
/-- What an append does, where it goes on. -/
def appends (s : State) : Option (List Nat × List (Nat × Nat) × Nat) :=
  match s.seqRead 0 0 0x10000 with
  | .ok e =>
    match s.kvCheck 0 0 e 0 1 with
    | .ok (.inr need) =>
      match (s.issued (.kvappend hd append1)).kvAlloc s.b.lk 0 0 e 0 need with
      | .ok u =>
        match u.kvPages 0 0 e 0 1 with
        | .ok ps =>
          match u.kvXlate 0 0 (u.kvWrites 0 e ps 1 (fun _ _ => 1) fun _ _ => 2) with
          | (.ok ws, _) => if (ws.find? fun w => s.unreachable 0 w.1.pa).isNone then some (need, ps, ws.length) else none
          | _ => none
        | _ => none
      | _ => none
    | _ => none
  | _ => none

def good {α β : Type} (f : α → Bool) : Except β α → Bool
  | .ok x => f x
  | .error _ => false

/-- The cause for which an append at `va` is refused, 1024 and more where the entry cannot be read. -/
def cause (va : Nat) (s : State) : Nat :=
  match s.seqRead 0 0 va with
  | .error x => 1024 + x.1
  | .ok e =>
    match s.kvCheck 0 0 e 0 1 with
    | .ok (.inl c) => c
    | _ => 0

theorem test_KvSequences_met :
    (∀ s ∈ [entry 0 0, entry 3 1, entry 16 1, entry 64 0, (entry 0 0).modB fun b => b.setSreg 3 (2 ^ 60)], Issues (.kvappend hd append1) s) ∧
    (∀ s ∈ [entry 3 1, entry 16 1, (entry 16 1).modB fun b => (b.setSreg 1 0x10040).setSreg 2 0x10000], ∀ i ∈ ([.seqcommit hd y5,
      .seqcommitFork hd { y5 with sub := 1 }, .seqcommitRel hd { y5 with s2 := 0, sub := 2 }, .seqinfo hd { y0 with sd := 6, s1 := 1 },
      .seqinfo hd { y0 with sd := 6, s1 := 1, sub := 6 }] : List Instr), Issues i s) ∧
    (appends (entry 0 0) = some ([0], [(0, 0)], 32) ∧ appends (entry 3 1) = some ([], [(0, 0)], 32) ∧
      appends (entry 16 1) = some ([1], [(1, 1)], 32) ∧ ((entry 16 1).part 0).refs 0 = 1 ∧ ((entry 16 1).part 0).refs 1 = 0 ∧
      (entry 16 1).ecc = []) ∧
    ((entry 16 1).tlbHolds 0 0 0x11004 4 0x11004 true ∧ (entry 16 1).tlbHolds 0 0 0x110000 128 0x110000 true) ∧
    ([(entry 0 0).wr 0x10015 1 0, (entry 0 0).wr 0x10015 1 3, entry 64 0, (entry 0 0).modPart 0 fun p => { p with quota := 0 },
      (entry 0 0).modPart 0 fun p => { p with poolsize := 0 }].map (cause 0x10000) = [0x10, 0x11, 0x12, 0x13, 0x14] ∧
      cause (2 ^ 60) (entry 0 0) = 1027 ∧ isCheck 3 = false) ∧
    ((entry 3 1).releaseReady (entry 3 1).b false = true ∧
      good (fun x => (x.1.map fun y => y.1) == some 5) ((entry 3 1).seqCommitStep 0 0 0 0x10000 2) = true ∧
      good (fun x => x.1 == none) ((entry 16 1).seqCommitStep 0 0 0 0x10000 2) = true ∧
      good (fun x => x.1 == some 16) ((entry 16 1).seqForkStep 0 0 0 0x10040 0x10000) = true ∧
      good (fun x => x.1 == none) ((entry 3 1).seqForkStep 0 0 0 0x10040 0x10000) = true ∧
      good (fun x => x.1 == some (1, 0)) ((entry 16 1).seqRel 0 0 0 0x10000) = true ∧
      good (fun x => x.1 == some (0, 0)) (((entry 16 1).wr 0x10015 1 3).seqRel 0 0 0 0x10000) = true ∧
      good (fun x => x.1 == none) (((entry 16 1).wr 0x10015 1 0).seqRel 0 0 0 0x10000) = true ∧
      good (fun x => x == 3) ((entry 3 1).seqItem 0 0 0x10000 0 0 0) = true ∧
      good (fun x => x == 1 + 2 ^ 32) (((entry 16 1).wr 0x11004 4 7).seqItem 0 0 0x10000 1 0 0) = true ∧
      good (fun x => x == noPage) ((entry 3 1).seqItem 0 0 0x10000 2 0 4) = true) ∧
    let s := after (.st hp { ld1 with dv := 6 }) (entry 3 1)
    (∀ i ∈ ([.seqcommit hd y5, .seqcommitFork hd { y5 with sub := 1 }, .seqcommitRel hd { y5 with s2 := 0, sub := 2 }] : List Instr),
      Issues i s) ∧ s.releaseReady s.b false = false :=
  ⟨fun s hs => issues (by revert s; decide +kernel), fun s hs i hi => issues (by revert s i; decide +kernel), by decide +kernel,
    ⟨holds (by decide +kernel), holds (by decide +kernel)⟩, by decide +kernel, by decide +kernel,
    fun i hi => issues (by revert i; decide +kernel), by decide +kernel⟩

def matrixOps : List Instr :=
  [.mma false hd e0, .mma true hd e0, .accld false hd e0, .accld true hd e0,
   .accst false hd { e0 with vx := 4 }, .accst true hd e0, .acczero hd e0, .acczero hd { e0 with sub := 1 }, .acccvt false hd e0,
   .acccvt true hd e0, .accscale hd e0, .accscale hd { e0 with sub := 1 }, .smerge hd e0]
def queued16 (s : State) : State := s.modCore 0 fun c => { c with mq := List.replicate 16 (
  { id := 1, uid := 1, part := 0, launch := 0, cid := 0, instr := .acczero hd e0, fmt := 0, vals := [], lanesIn := [], slots := [], tok := 0 } : MatOp) }

/-- FMT selects 2:4 pairs of E4M3. -/
def sparse (s : State) : State := s.modB fun b => { b with fmt := 0x100000 }

theorem test_MatrixIssues_met :
    (∀ i ∈ matrixOps, ∀ s ∈ [base, slotted base, queued16 (slotted base)], Issues i s) ∧
    (∀ i ∈ ([.mmas false hd e0, .mmas true hd { e0 with sla := 2 }] : List Instr), Issues i (sparse base) ∧ Issues i (slotted (sparse base))) ∧
    (∀ i ∈ [.mmas true hd { e0 with sla := 2, slb := 4 }] ++ matrixOps, ((matNames i).all fun k => (slotted base).ownsSlot base.b k) = true) ∧
    ((matNames (.mma false hd e0)).all fun k => base.ownsSlot base.b k) = false ∧
    (base.copseOf base.b).isSome = true ∧ ((slotted base).copseOf base.b).isSome = true ∧
    ((base.b.windowRegs (matSpans (.smerge hd e0) [0, 0])).any fun x => (base.pendingVec base.b).any fun y => overlap x y) = false ∧
    (queued16 base).core 0 ≠ base.core 0 :=
  ⟨fun i hi s hs => issues (by revert i s; decide +kernel), fun i hi => ⟨issues (by revert i; decide +kernel), issues (by revert i; decide +kernel)⟩, by decide +kernel⟩

/-- One matrix instruction in the queue, of a copse that holds slots 0 to 7 and every bank. -/
def begun (i : Instr) (s : State) : State := after i (slotted (banked s))
/-- The first of the queue may begin. -/
def mayBegin (s : State) : Bool := match (s.core 0).mq with
  | o :: _ => (s.matOp o.id).map (fun x => x.1) == some 0 && (s.core 0).mq.find? (fun x => x.id == o.id) == some o &&
    !(s.core 0).matHeld o.id o.fmt o.slots o.instr
  | [] => false

theorem scratches {c : Core} {own : Nat × Nat} {a n : Nat} (h : (decide (a + n ≤ 0xC0000) && (List.range 48).all fun b =>
    decide (b < a / 0x4000) || decide ((a + n) / 0x4000 < b) || (c.role b == .scr && c.owner b == some own)) = true) : c.scratch own a n := by
  intro i hi
  simp only [Bool.and_eq_true, List.all_eq_true, List.mem_range, Bool.or_eq_true, decide_eq_true_eq, beq_iff_eq] at h
  have k := h.2 ((a + i) / 0x4000) (by omega)
  have lo : a / 0x4000 ≤ (a + i) / 0x4000 := Nat.div_le_div_right (by omega)
  have hi : (a + i) / 0x4000 ≤ (a + n) / 0x4000 := Nat.div_le_div_right (by omega)
  exact ⟨by omega, (k.resolve_left (by omega)).1, (k.resolve_left (by omega)).2⟩

def e6 : FmtE := { e0 with pa := 1, pb := 2 }
/-- Two LOCAL blocks of the strides and addresses that the LOCAL forms use. -/
def strided : State := base.modB fun b => ((b.setSreg 1 0x100).setSreg 2 512).setSreg 3 0x18000

theorem test_MatrixSteps_met :
    (∀ i ∈ ([.acczero hd e0, .mma false hd e0, .mma true hd e0, .accld false hd e0, .accld true hd e6, .accst false hd { e0 with vx := 4 },
      .accst true hd e6, .acccvt false hd e0, .acccvt true hd { e6 with pc := 3, sub := 64 }, .accscale hd e0, .smerge hd e6,
      .smerge hd { e6 with pb := 0, sub := 1 }, .oprel hd { y0 with sd := 1, imm := 3 }] : List Instr), mayBegin (begun i strided) = true) ∧
    (mayBegin (begun (.mmas true hd e0) (sparse base)) = true ∧ (mmaRow 0x100000).any (fun r => r.mmas) = true) ∧
    ((let s := begun (.accst true hd e6) strided
      ∀ q < 128, (s.core 0).scratch (lkey 0 0, 0) (0x100 + 4 * q) 4) ∧
      (let s := begun (.acccvt true hd { e6 with pc := 3, sub := 64 }) strided
       ∀ i < 128, (s.core 0).scratch (lkey 0 0, 0) (0x100 + i * 512) 64 ∧ (s.core 0).scratch (lkey 0 0, 0) (0x18000 + 2 * i) 2) ∧
      (let s := begun (.smerge hd { e6 with pb := 0, sub := 1 }) strided
       (s.core 0).scratch (lkey 0 0, 0) 0x100 66560)) ∧
    (((begun (.accscale hd e0) strided).core 0).mq.map (fun o => o.lanesIn.length) = [128]) ∧
    (let s := after (.mma false hd e0) (begun (.acczero hd e0) base)
     ((s.core 0).mq.map fun o => (s.core 0).matHeld o.id o.fmt o.slots o.instr) = [false, true]) ∧
    (∀ s ∈ [base, slotted base], Issues (.opclaim hd { y0 with sd := 1, imm := 0x600, pd := some 1 }) s ∧
      Issues (.opclaim hd { y0 with sd := 1, imm := 9, sub := 1, pd := none }) s ∧ Issues (.oprel hd { y0 with sd := 1, imm := 3 }) s) ∧
    (base.claimView base.b).claim base.b { y0 with imm := 0x600 } = some [9, 10] ∧
    ((slotted base).claimView base.b).claim base.b { y0 with imm := 9, sub := 1 } = none :=
  ⟨by decide +kernel, by decide +kernel,
    ⟨fun q hq => scratches (by revert q; decide +kernel),
      fun i hi => ⟨scratches (by revert i; decide +kernel), scratches (by revert i; decide +kernel)⟩, scratches (by decide +kernel)⟩,
    by decide +kernel, by decide +kernel, fun s hs => ⟨issues (by revert s; decide +kernel), issues (by revert s; decide +kernel),
    issues (by revert s; decide +kernel)⟩, by decide +kernel⟩

/-- A layout record at 0x10000: 64 elements of 4 bytes. -/
def layout1 : State := (mapped.wr 0x10000 32 (4 + 2 ^ 128 * 63)).modB fun b => ((b.setSreg 1 0x10000).setSreg 2 0x1000).setSreg 3 0x10001

theorem test_LayoutAndConflicts_met :
    (∀ i ∈ ([.layout hd { y0 with sd := 6, s1 := 1, s2 := 2, imm := 2, pd := some 1 },
      .layout hd { y0 with sd := 6, s1 := 3, s2 := 2, imm := 2, pd := some 1 }, .bankcnt hd { y0 with sd := 1, sub := 1 },
      .bankcnt hd { y0 with sd := 1 }] : List Instr), Issues i layout1) ∧
    reaches layout1 (layout1.xlateLanes layout1.b false 32 [(32, 0x10000)]) = true ∧
    ((layout1.xlateLanes layout1.b false 32 [(32, 0x10000)]).good.all fun p => layout1.roCheck p == none) = true ∧
    (layResult (layout1.rd 0x10000 32) 4 false 0x1000).isSome = true :=
  ⟨all_issue (by decide +kernel), by decide +kernel⟩

/-- A TASK launch whose kernel is at 0x30, with the record of a task at 0x10000 that lane 0 names in v8 and v9 and its future at
0x11000, which lane 0 of v12 and v13 names; `st` and `dep` are the record's, `fut` the future's bits, `task` what lane 0 runs. -/
def tasked (st dep fut task : Nat) : State :=
  let s := (mapped.wr 0x10000 64 (0x30 + 2 ^ 64 * 0x13000 + 2 ^ 128 * 0x11000 + 2 ^ 256 * dep + 2 ^ 288 * st + 2 ^ 384 * 0x400)).wr 0x11000 16 fut
  { s with launches := s.launches.map fun l =>
             { l with desc := { l.desc with task := true, entry := 0x30 }, entryq := if st = 2 then [0x10000] else [] },
           b := { s.b with vregs := [(8 * 32, 0x10000), (12 * 32, 0x11000)],
                           taskOf := if task = 0 then [] else [(0, BitVec.ofNat 64 task)] } }
def y6 : FmtY := { y0 with vd := 8, pd := some 1 }
def w6 : FmtY := { y6 with vd := 12 }
def signals : List Instr := [.tfillFut hp w6, .tfillSig hp { y6 with sub := 1, imm := 1 }, .tcancel hp y6]
/-- A state, and the same with a store in flight. -/
def unready (s : State) : State := after (.st hp { ld1 with dv := 6 }) s

theorem test_TaskSignals_met :
    (∀ i ∈ signals, ∀ s ∈ [tasked 1 1 0 0, tasked 2 0 0 0, tasked 3 0 (2 ^ 64) 0, unready (tasked 1 1 0 0)], Issues i s) ∧
    (let s := tasked 1 1 0 0
     s.releaseReady s.b false = true ∧ s.b.guard hp = 1 ∧ (unready s).releaseReady (unready s).b false = false ∧
       s.stepFault (s.recAddrs (s.laneVa y6 0) fun r => r.st ≤ 2) = none ∧
       s.stepFault [(s.laneVa w6 0, true)] = none ∧
       s.laneVa w6 0 % 16 = 0 ∧ s.laneVa y6 0 % 64 = 0 ∧
       good (fun x => x == 0x10000) (s.xlateRec 0 0 (s.laneVa y6 0) true) = true ∧
       good (fun x => x == 0x11000) (s.xlateRec 0 0 (s.laneVa w6 0) true) = true ∧ futState (s.rd 0x11000 16) = 0 ∧
       (s.taskRec 0x10000).st = 1 ∧ (s.taskRec 0x10000).dep = 1 ∧ (s.taskLaunch 0 0x30).isSome = true ∧ (s.launch 0 0).isSome = true) ∧
    ((tasked 3 0 (2 ^ 64) 0).taskRec 0x10000).st = 3 ∧ futState ((tasked 3 0 (2 ^ 64) 0).rd 0x11000 16) = 1 ∧
    (let s := (tasked 1 1 0 0).modB fun b => { b with vregs := [(8 * 32, 0x10008), (12 * 32, 0x11008)] }
     Issues (.tcancel hp y6) s ∧ s.laneVa y6 0 % 64 ≠ 0 ∧ s.laneVa w6 0 % 16 ≠ 0) :=
  ⟨fun i hi s hs => issues (by revert i s; decide +kernel), by decide +kernel, by decide +kernel, by decide +kernel, issues (by decide +kernel),
    by decide +kernel⟩

/-- The lanes' steps of an instruction that waits. -/
def steps6 (s : State) (lane : Steps → Nat → Steps) : Steps := lane { s, done := s.b.stepdone, run := 0, back := [] } 0

theorem test_TaskWaits_met :
    (∀ nb : Bool, ∀ s ∈ [tasked 0 1 0 0, tasked 0 0 0 0, tasked 2 0 (2 ^ 72 * 0x400) 0, tasked 2 0 (2 ^ 72 * 0x400) 0x400, unready (tasked 0 1 0 0)],
      Issues (.tspawn nb hp y6) s ∧ Issues (.twait nb hp w6) s) ∧
    (let s := tasked 0 1 0 0
     s.b.guard hp = 1 ∧ s.noTarget (s.laneVa y6 0) = none ∧ s.releaseReady s.b false = true ∧
       (unready s).releaseReady (unready s).b false = false ∧ (unready s).noTarget ((unready s).laneVa y6 0) = none ∧
       s.stepFault (s.recAddrs (s.laneVa y6 0) fun r => (s.spawnAs y6 0 r).isSome) = none ∧
       s.stepFault (s.futAddrs (s.laneVa w6 0)) = none ∧
       (steps6 s (spawnStep false y6 (s.laneVa y6))).s.b.emr ≠ 0 ∧ (steps6 s (spawnStep false y6 (s.laneVa y6))).run = 0 ∧ (steps6 s (spawnStep false y6 (s.laneVa y6))).done = 1 ∧
       (steps6 s (waitStep true w6 (s.laneVa w6))).done = 1 ∧ (steps6 s (waitStep false w6 (s.laneVa w6))).done = 0 ∧ (steps6 s (waitStep false w6 (s.laneVa w6))).s.b.emr ≠ 0) ∧
    (let s := tasked 2 0 (2 ^ 72 * 0x400) 0
     (steps6 s (waitStep false w6 (s.laneVa w6))).run = 1 ∧ (steps6 s (waitStep false w6 (s.laneVa w6))).s.b.emr ≠ 0 ∧ s.cycle 0 (s.laneVa w6 0) = false) ∧
    (let s := tasked 2 0 (2 ^ 72 * 0x400) 0x400
     s.cycle 0 (s.laneVa w6 0) = true) ∧
    (let s := (tasked 0 0 0 0).wr 0x10000 8 0x60
     Issues (.tspawn false hp y6) s ∧ s.noTarget (s.laneVa y6 0) = some 0x60) ∧
    (let s := tasked 0 0 0 0
     let t : State := { s with launches := s.launches.map fun l => { l with entryq := List.replicate 65536 0 } }
     (∃ la : Launch, t.taskLaunch 0 0x30 = some la ∧ t.launch 0 la.id = some la ∧ 65536 ≤ la.entryq.length) ∧
       s.b.depth 0 < s.b.nestmax ∧ (t.taskRec 0x10000).st = 0 ∧ (t.taskRec 0x10000).dep + (BitVec.truncate 32 (t.ss y6.s1)).toInt ≤ 0) ∧
    (tasked 0 0 (2 ^ 64) 0).futBits 0x11000 / 2 ^ 64 = 1 ∧ (tasked 0 0 (2 ^ 65) 0).futBits 0x11000 / 2 ^ 64 = 2 ∧
    (let s := tasked 3 0 (2 ^ 72 * 0x400) 0
     s.b.task 0 = 0 ∧ futOwner (s.futBits 0x11000) ≠ 0 ∧ (s.taskRec 0x10000).st ≠ 2) ∧
    let s := (tasked 2 0 (2 ^ 72 * 0x400) 0).wr 0x10000 8 0x60
    (s.taskRec 0x10000).st = 2 ∧ (s.taskRec 0x10000).entry ≠ (s.kernelEntry s.b).toNat :=
  ⟨fun nb s hs => ⟨issues (by revert nb s; decide +kernel), issues (by revert nb s; decide +kernel)⟩, by decide +kernel, by decide +kernel,
    by decide +kernel, ⟨issues (by decide +kernel), by decide +kernel⟩,
    ⟨⟨_, rfl, rfl, Nat.le_of_eq List.length_replicate.symm⟩, by decide +kernel, by decide +kernel, by decide +kernel⟩, by decide +kernel⟩

theorem test_TaskStates_met :
    (∀ i ∈ ([.tinfo hp { y0 with vd := 12 }, .tinfo hp { y0 with vd := 12, sub := 1 }, .tinfo hp { y0 with vd := 12, sub := 2 },
      .tinfo hp { y0 with vd := 12, sub := 3 }, .tinfo hp { y0 with sd := 12, sub := 4 }, .tinfo hp { y0 with sd := 12, sub := 5 },
      .nestset hp { y0 with sd := 1, imm := 4 }, .tyield hp y0] : List Instr), Issues i (tasked 3 0 0 0x400)) ∧
    Issues (.tyield hp y0) mapped ∧ ((mapped.launchOf mapped.b).any fun la => la.desc.task) = false ∧
    (let s := tasked 3 0 0 0x400
     s.stepFault [(64 * s.b.task 0 + 24, false)] = none ∧
       s.stepFault [(64 * s.b.task 0, true)] = none ∧ s.b.refill = none ∧
       (s.launchOf s.b).any (fun la => la.desc.task) = true ∧ s.b.task 0 ≠ 0 ∧
       good (fun x => x == 0x10000) (s.xlateRec 0 0 (64 * s.b.task 0) true) = true ∧
       (s.taskLaunch 0 (s.vword s.b (64 * s.b.task 0) 8)).isSome = true) ∧
    ((tasked 2 0 0 0).taskRec 0x10000).resume = false ∧
    (let w : Watch := { id := 9, uid := 1, lane := 0, core := 0, part := 0, fut := 0x11000, home := 0x11000, task := 0, ready := true, again := false, overflow := false }
     let s : State := { tasked 4 0 0 0 with watches := [w] }
     let t : State := { tasked 4 0 0 0 with watches := [{ w with task := 0x10000 }] }
     (s.watches.find? fun w => w.id == 9 && w.ready) = some w ∧ (s.bough 1).isSome = true ∧
       (t.watches.find? fun w => w.id == 9 && w.ready).map (fun w => w.task) = some 0x10000 ∧ (t.taskRec 0x10000).st = 4 ∧
       good (fun x => x == 0x10000) (t.xlateRec 0 0 0x10000 true) = true ∧ (t.taskLaunch 0 0x30).isSome = true) ∧
    let s := tasked 2 0 0 0
    let p : Place := { core := 1, regBases := [0], scr := 0, fif := 0 }
    ((s.launch 0 0).map fun l => (l.desc.task, s.mayAdmit l p, l.desc.copse, l.entryq)) = some (true, true, 1, [0x10000]) ∧
      s.b.uid ≠ s.nuid ∧ ∀ b ∈ s.boughs, b.uid ≠ s.nuid :=
  ⟨all_issue (by decide +kernel), issues (by decide +kernel), by decide +kernel⟩

/-- The copse has one FIF bank, bank 40, and queue 3 is bound to it; `size` is that of its elements. -/
def queued (size count : Nat) : State :=
  let s := mapped.modCore 0 fun c => { c with roles := [(40, .fif)], owners := [(40, lkey 0 0, 0)] }
  s.modCopse 0 0 0 fun c => { c with
    fif := 40, fifn := 1,
    queues := if count = 9999 then [] else [(3, { bound := true, first := 0, banks := 1, size, head := 0, count })] }
def q3 : FmtY := { y0 with vd := 8, pd := some 1, imm := 3 }

theorem test_Queues_met :
    (∀ nb : Bool, ∀ s ∈ [mapped, queued 0 0, queued 1 5, queued 0 4096], Issues (.enq nb hp q3) s ∧ Issues (.deq nb hp q3) s ∧
      Issues (.enq nb hp { q3 with vd := 7 }) s) ∧
    (mapped.hqueue 3).bound = false ∧
    (let s := queued 1 5
     let x := s.hqueue 3
     x.bound = true ∧ x.size ≠ 0 ∧ (s.pairCheck x 8).isNone = true ∧ s.releaseReady s.b true = true ∧ s.olderWaits 3 = false ∧
       s.olderWaits 19 = false ∧ (s.b.guard hp).list.length = 1 ∧ x.cap - x.count = 2043 ∧ x.banks ≠ 0 ∧
       s.fifBase s.b + x.elem * ((x.head + x.count) % x.cap) = 0xA0028 ∧
       (s.core 0).role (0xA0028 / 0x4000) = .fif ∧ (s.core 0).owner (0xA0028 / 0x4000) = some s.b.own) ∧
    (let s := unready (queued 0 0)
     Issues (.enq false hp q3) s ∧ s.releaseReady s.b true = false ∧ ((s.hqueue 3).bound = true ∧ (s.pairCheck (s.hqueue 3) 8).isNone = true)) ∧
    ((queued 0 4096).hqueue 3).cap - ((queued 0 4096).hqueue 3).count = 0 ∧ ((queued 0 0).hqueue 3).count = 0 ∧
    (let s := queued 0 9999
     Issues (.qcreate hd { y0 with pd := some 1, imm := 0x103 }) s ∧ Issues (.qcreateFree hd { y0 with pd := some 1, imm := 3, sub := 1 }) s ∧
       Issues (.qcreateFree hd { y0 with pd := some 1, imm := 3, sub := 1 }) (queued 0 0) ∧
       Issues (.qcreate hd { y0 with imm := 0x103 }) (queued 0 0)) ∧
    ((queued 0 9999).copseOf mapped.b).map (fun c => (c.fifn, (c.queue 3).bound, c.queues)) = some (1, false, []) ∧
    ((queued 0 0).copseOf mapped.b).map (fun c => (c.queue 3).bound) = some true ∧
    ∀ x ∈ (queued 0 0).boughsOf 0 0 0, x.wait ≠ .queue 3 ∧ x.wait ≠ .queue 19 :=
  ⟨fun nb s hs => ⟨issues (by revert nb s; decide +kernel), issues (by revert nb s; decide +kernel), issues (by revert nb s; decide +kernel)⟩,
    by decide +kernel, by decide +kernel, ⟨issues (by decide +kernel), by decide +kernel⟩, by decide +kernel, by decide +kernel,
    ⟨issues (by decide +kernel), issues (by decide +kernel), issues (by decide +kernel), issues (by decide +kernel)⟩, by decide +kernel⟩

theorem test_QueueStatus_met :
    (∀ s ∈ [mapped, queued 1 5, tasked 2 0 0 0], Issues (.qstat hd { y0 with sd := 1, imm := 3 }) s ∧ Issues (.qstat hd { y0 with sd := 1, sub := 1 }) s ∧
      (s.launchOf s.b).isSome = true ∧ (s.copseOf s.b).isSome = true) :=
  fun s hs => ⟨issues (by revert s; decide +kernel), issues (by revert s; decide +kernel), by revert s; decide +kernel⟩

/-- A launch record that lane 0 names in v8 and v9, and the descriptor of its child at 0x14000, whose ENTRY is 0x20000. -/
def launching : State :=
  let s := (mapped.wr 0x10000 64 (0xAA + 2 ^ 64 * 0x11000 + 2 ^ 128 * 4)).wr 0x14000 48 (0x20000 + 2 ^ 64 * 3)
  (s.wr 0x2003C 4 (2 ^ 20)).modB fun b => { b with vregs := [(8 * 32, 0x10000)], sregs := [(1, 0x14000)] }
def l6 : FmtY := { y6 with s1 := 1 }
def window (n : Nat) (s : State) : State :=
  { s with wins := [{ id := 7, part := 0, desc := 0x14000, kernel := oneDesc, opened := 4, children := List.replicate n (0xAA, 4, 0x11000) }] }

theorem test_DeviceLaunches_met :
    (∀ i ∈ ([.launch hp l6, .launchAgg hp l6] : List Instr), ∀ s ∈ [launching, window 1 launching, unready launching], Issues i s) ∧
    (let s := launching
     s.releaseReady s.b false = true ∧ s.laneVa l6 0 % 64 = 0 ∧ s.stepFault [(s.laneVa l6 0, false)] = none ∧ (launchRec (s.vword s.b (s.laneVa l6 0) 64)).ok = true ∧
       (s.childDesc 0 0x14000 4).isSome = true ∧ s.unstarted 0 = 0 ∧ (s.openWin 0 0x14000).isNone = true ∧
       (unready s).releaseReady (unready s).b false = false ∧ (s.childDesc 0 0x14040 4).isNone = true ∧
       (s.b.guard hp &&& ~~~(launchStep true l6 (s.laneVa l6) { s, done := 0, run := 0, back := [] } 0).done) = 0 ∧
       good (fun x => x == 0x11000) (s.xlateRec 0 0 0x11000 true) = true ∧ futState (s.rd 0x11000 16) = 0) ∧
    (let s := launching.modB fun b => { b with vregs := [(8 * 32, 0xFFF8)] }
     s.laneVa l6 0 % 64 ≠ 0 ∧ s.stepFault [(s.laneVa l6 0 + 16, false), (s.laneVa l6 0 + 23, false)] = none ∧
       s.vword s.b (s.laneVa l6 0 + 16) 8 = 0x11000) ∧
    ((window 1 launching).openWin 0 0x14000).isSome = true ∧ 4096 ≤ (window 4096 launching).unstarted 0 ∧
    (let s : State := { window 1 launching with time := 2504 }
     ((s.wins.find? fun w => w.id == 7 && w.due s.time).map fun w => w.kernel.fits ((w.children.map fun c => c.2.1).foldl (· + ·) 0)) = some true) ∧
    (let s : State := { window 1 launching with time := 2504 }
     let t : State := { s with wins := s.wins.map fun w => { w with kernel := { w.kernel with cosched := true, copse := 40 } } }
     ((t.wins.find? fun w => w.id == 7 && w.due t.time).map fun w => w.kernel.fits ((w.children.map fun c => c.2.1).foldl (· + ·) 0)) = some false) :=
  ⟨fun i hi s hs => issues (by revert i s; decide +kernel), by decide +kernel⟩

/-- A group whose members are 0 and 2 in bough 1, with threshold 1; the bough is `m`. -/
def sib (m : Option Nat) (cancelled : Bool) : Sib := { handle := 5, member := m, gen := 9, since := 1, cancelled, seqVa := 0 }
def grouped (m : Option Nat) (cancelled : Bool) : State :=
  { mapped with groups := [{ part := 0, handle := 5, words := [(0, 5), (4, 1 + 9 * 2 ^ 48)], joined := [(0, 1), (2, 6)], obs := [], lastInc := [] }],
                b := { mapped.b with sib := some (sib m cancelled), sregs := [(1, 5), (2, 1)] } }
def joining (h k : W64) : State := mapped.modB fun b => { b with sregs := [(1, h), (2, k)] }

theorem test_SiblingMembers_met :
    (∀ f ∈ [{ y0 with sd := 6, s1 := 1, s2 := 2, s3 := 3, pd := some 1, imm := 3 }, { y0 with sd := 6, s1 := 1, s2 := 63, s3 := 63, pd := some 1, imm := 64 },
        { y0 with sd := 6, s1 := 1, s2 := 2, s3 := 3, imm := 3 }],
      ∀ s ∈ [joining 5 1, joining 0 1, joining 5 65, grouped none false], Issues (.sibjoin hd f) s) ∧
    ((joining 5 1).b.sib = none ∧ (joining 5 1).b.sreg 3 = 0 ∧ (joining 5 1).group 0 5 = none ∧ (grouped none false).b.sib ≠ none) ∧
    (∀ s ∈ [joining 5 1, grouped (some 0) false, grouped none false, unready (grouped (some 0) false)],
      Issues (.sibleave hd { y0 with sd := 6, s1 := 1, pd := some 1 }) s) ∧
    (let s := grouped (some 0) false
     s.releaseReady s.b false = true ∧ (s.b.sib.any fun x => x.handle == 5) = true ∧ s.b.uid ≠ 0 ∧
       ((s.issued (.sibleave hd { y0 with sd := 6, s1 := 1, pd := some 1 })).leaveGroup s.b (some s.time)).1.isSome = true ∧
       (unready s).releaseReady (unready s).b false = false) ∧
    ((joining 5 1).b.sib.any fun x => x.handle == 5) = false :=
  ⟨fun f hf s hs => issues (by revert f s; decide +kernel), by decide +kernel, fun s hs => issues (by revert s; decide +kernel), by decide +kernel⟩

theorem test_SiblingBallots_met :
    (∀ i ∈ ([.ballot hd { y0 with s1 := 1, s2 := 2 }, .sibinfo hd { y0 with sd := 6, s1 := 1, imm := 4 }, .canchk hd { y0 with sd := 6, sub := 1 },
      .canchk hd y0] : List Instr), ∀ s ∈ [grouped (some 0) false, unready (grouped (some 0) false)], Issues i s) ∧
    (let s := grouped (some 0) false
     s.releaseReady s.b false = true ∧ (unready s).releaseReady (unready s).b false = false ∧
       ((s.group 0 5).map fun g => !g.has gBalloted 0 && !g.decided && g.k == 1 && g.slotFor 7 == some 0 && g.bits gCounts 0 8 == 0 &&
         g.has gMembers 2 && !g.has gLeft 2) = some true ∧
       ((s.group 0 5).bind fun g => g.joined.find? fun e => e.1 == 2) = some (2, 6)) ∧
    (((grouped none false).group 0 5).isSome = true ∧ (grouped none false).b.sib.bind (fun x => x.member) = none) ∧
    (let s : State := { grouped (some 0) false with cancels := [{ id := 3, uid := 1, handle := 5, gen := 9 }] }
     (s.cancels.find? fun c => c.id == 3).map (fun c => c.uid) = some 1 ∧ (s.bough 1).map (fun b => b.wait) = some .none) ∧
    (let s := grouped (some 0) true
     s.b.sib = some (sib (some 0) true) ∧ ((s.group 0 5).map fun g => g.has gCancelled 0) = some false) ∧
    (let g : Group := { part := 0, handle := 5, words := [(0, 3), (1, 3), (6, 7), (14, 2)], joined := [], obs := [], lastInc := [0] }
     g.decided = false ∧ g.word gMembers ≠ 0 ∧ g.lastInc = [] ++ 0 :: [] ∧ (g.has gBalloted 0 = true ∧ g.has gBalloted 1 = true)) :=
  ⟨fun i hi s hs => issues (by revert i s; decide +kernel), by decide +kernel⟩

/-- In system mode, with values in s1 to s3. -/
def system : State := mapped.modB fun b => { b with sysmode := true, sregs := [(1, 0x10000), (2, 0x10001), (3, 1)] }
def srGets : List Instr := ([0, 1, 2, 3, 4, 5, 0x10, 0x11, 0x12, 0x13, 0x14, 0x15, 0x16, 0x20, 0x21, 0x22, 0x23, 0x24, 0x25] : List (BitVec 32)).map
  fun n => .srget true hd { y0 with sd := 9, imm := n }
def srSets : List Instr := ([5, 0x10, 0x11, 0x12, 0x13, 0x14, 0x20, 0x21, 0x24, 0x25] : List (BitVec 32)).map
  fun n => .srset true hd { y0 with s1 := 3, imm := n }

theorem test_SystemRegisters_met :
    (∀ i ∈ srGets ++ srSets, Issues i system) ∧
    (∀ i ∈ ([.timeget hd { y0 with sd := 1 }, .srget false hd { y0 with sd := 9, imm := 0x12 }, .srset false hd { y0 with s1 := 3, imm := 5 },
      .sleep hd { y0 with imm := 100 }, .sleep hd { y0 with sub := 1, s1 := 3 }] : List Instr), Issues i mapped) ∧
    (∀ t : Nat, mapped.b.wait ≠ .sleep t) ∧ (mapped.b.sreg 3).toNat ≤ mapped.time ∧
    (∀ s ∈ [system, unready system], Issues (.tlbinv hd { y0 with s1 := 1, s2 := 1 }) s ∧ Issues (.tlbinv hd { y0 with s1 := 1, s2 := 2 }) s ∧
      Issues (.tlbinv hd { y0 with sub := 1 }) s) ∧
    (system.releaseReady system.b false = true ∧ system.partQuiet 0 = true ∧ (unready system).releaseReady (unready system).b false = false) :=
  ⟨all_issue (by decide +kernel), all_issue (by decide +kernel), (fun t => by rw [show mapped.b.wait = .none by decide +kernel]; exact Wait.noConfusion), by decide +kernel,
    fun s hs => ⟨issues (by revert s; decide +kernel), issues (by revert s; decide +kernel), issues (by revert s; decide +kernel)⟩, by decide +kernel⟩

/-- A handler at 0x20000, and breakpoints enabled. -/
def handled (s : State) : State := (s.wr 0x2003C 4 (2 ^ 20)).modPart 0 fun p => { p with trapvec := 0x20000, dbgctl := 1 }

theorem test_TrapsAndReturn_met :
    (∀ s ∈ [handled mapped, mapped], Issues (.trap hd { y0 with imm := 7 }) s ∧ Issues (.bkpt hd { y0 with imm := 7 }) s) ∧
    ((handled mapped).targetOk (handled mapped).b 0x20000 = true ∧ mapped.b.sysmode = false ∧ mapped.ringBusy 0 = false ∧
      (mapped.part 0).fqbase ≠ 0 ∧ (mapped.part 0).trapvec = 0 ∧ (mapped.part 0).dbgctl = 0 ∧ ((handled mapped).part 0).dbgctl = 1) ∧
    (let s := mapped.modPart 0 fun p => { p with fqsize := 0, recs := 1 }
     Issues (.trap hd y0) s ∧ s.ringBusy 0 = true) ∧
    (Issues (.halt hd { y0 with imm := 9 }) system ∧ ((system.launchOf system.b).map fun l => l.killed) = some false ∧ system.b.uid ≠ 0) ∧
    (let s := system.modB fun b => { b with epc := 0x30, emask := 1 }
     Issues (.eret hd y0) s ∧ slotAddr s.b.epc = true ∧ s.b.emask &&& s.b.settable ≠ 0) ∧
    let s := system.modB fun b => { b with epc := 0x31 }
    Issues (.eret hd y0) s ∧ slotAddr s.b.epc = false :=
  ⟨fun s hs => ⟨issues (by revert s; decide +kernel), issues (by revert s; decide +kernel)⟩, by decide +kernel,
    ⟨issues (by decide +kernel), by decide +kernel⟩, ⟨issues (by decide +kernel), by decide +kernel⟩, ⟨issues (by decide +kernel), by decide +kernel⟩,
    issues (by decide +kernel), by decide +kernel⟩

/-- s1 names a block at 0x40000 whose FORMAT is right, and in which PC is 0x60 and EMR 1. -/
def blocked : State :=
  ((system.wr 0x40000 12 (0x60 + 2 ^ 64)).wr (0x40000 + 136) 4 0x00010001).modB fun b => { b with sregs := [(1, 0x40000), (2, 0x40080)] }

theorem test_BoughBlocks_met :
    (∀ n : Fin 2, ∀ i ∈ ([.ctxsave hd { y0 with s1 := 1 + BitVec.ofNat 6 n }, .ctxrest hd { y0 with s1 := 1 + BitVec.ofNat 6 n }] : List Instr),
      ∀ s ∈ [blocked, unready blocked, system], Issues i s) ∧
    ((blocked.b.sreg 1).toNat % 0x20000 = 0 ∧ (blocked.b.sreg 2).toNat % 0x20000 ≠ 0 ∧ blocked.stopped 1 = true ∧
      (unready blocked).stopped 1 = false ∧ good (fun x => x == (0x40000, 0x50000)) (blocked.blockHalves 0x40000 true) = true ∧
      (blocked.blockImage blocked.b.trapped).all (fun w => decide (w.1 + w.2.1 ≤ 0x10000) || (decide (0x10000 ≤ w.1) && decide (w.1 + w.2.1 ≤ 0x20000))) = true) ∧
    (good (fun x => blocked.rdHalves x 136 4 == 0x00010001 && BitVec.ofNat 32 (blocked.rdHalves x 0 256 / 2 ^ 64) != 0) (blocked.blockHalves 0x40000 false) = true) ∧
    good (fun x => system.rdHalves x 136 4 != 0x00010001) (system.blockHalves 0x40000 false) = true ∧
    good (fun x => (blocked.loadBlock blocked.b (blocked.rdHalves x)).fmtsValid) (blocked.blockHalves 0x40000 false) = true ∧
    good (fun x => !(((blocked.wr 0x4000C 4 0x100).loadBlock blocked.b ((blocked.wr 0x4000C 4 0x100).rdHalves x)).fmtsValid)) (blocked.blockHalves 0x40000 false) = true ∧
    let s := hearted [{ heart0 0 0 1 with line := 0x40000 / 128 }] blocked
    (s.heartOf (0x40000 / 128)).isSome = true ∧ s.isDet s.b.part s.b.launch = false ∧ (s.launch 0 0).isSome = true ∧ s.stopped 1 = true :=
  ⟨fun n i hi s hs => issues (by revert n i s; decide +kernel), by decide +kernel⟩

def place1 : Place := { core := 1, regBases := [0], scr := 0, fif := 0 }
/-- A launch of two copses of which none has started. -/
def pending (cosched : Bool) : State :=
  { mapped with launches := mapped.launches.map fun l => { l with ncopses := 2, started := [], desc := { l.desc with cosched } }, copses := [] }
/-- The bough has slept for longer than LWT, and a context area is free. -/
def stuck : State :=
  ({ mapped with time := 200000 } : State).modB (fun b => { b with wait := .sleep 300000, waitSince := 1 }) |>.modPart 0 fun p => { p with ctxarea := 0x1000000, ctxcount := 1 }
/-- Evicted, and what it waited for has come. -/
def evicted : State := (after (.lwtExpiry 0 0) stuck).modCopse 0 0 0 fun c => { c with event := 1 }

theorem test_Copses_met :
    (∀ c : Bool, ((pending c).launch 0 0).map (fun l => !l.desc.task && l.started.length == 0 && (pending c).mayAdmit l place1) = some true ∧
      (pending c).copse 0 0 0 = none) ∧
    (((pending true).launch 0 0).bind fun l => ((pending true).seat l 0 place1 0xFFFFFFFF#32).placesFor l (l.ncopses - 1)).isSome = true ∧
    ((stuck.copse 0 0 0).map fun c => stuck.mayEvict c && ((stuck.part 0).freeArea).isSome) = some true ∧
    ((mapped.copse 0 0 0).map fun c => mapped.mayEvict c) = some false ∧
    ((evicted.copse 0 0 0).map fun c => c.at_ == .saved 0 && c.event != 0 && !(evicted.part 0).noAdmit && evicted.matrixFree c 1 &&
      evicted.badAt ((evicted.part 0).area 0) 0x530000 == none &&
      evicted.firstRestore c && (evicted.launch 0 0).any fun l => evicted.placeOk l.part { l.desc with copse := (evicted.returning c).length } c.extraBanks.length place1) = some true := by
  decide +kernel

/-- A COSCHED launch of more copses than the package holds. -/
theorem test_Copses_none_met :
    let s : State := { pending true with launches := (pending true).launches.map fun l => { l with ncopses := 200000 } }
    (s.launch 0 0).map (fun l => s.mayAdmit l place1) = some true ∧
      ∀ l : Launch, (s.launch 0 0) = some l → (s.seat l 0 place1 0xFFFFFFFF#32).placesFor l (l.ncopses - 1) = none := by
  intro s
  refine ⟨by decide +kernel, fun l hl => State.packOver_none _ _ _ _ _ ?_⟩
  have room : (s.launch 0 0).all (fun l => decide ((((s.seat l 0 place1 0xFFFFFFFF#32).cores.map fun e => e.1).length + (List.range 2048).length) *
    l.desc.perCore < l.ncopses - 1)) = true := by decide +kernel
  rw [hl, Option.all_some, decide_eq_true_eq] at room
  rw [List.length_append]
  exact Nat.lt_of_le_of_lt (Nat.mul_le_mul_right _ (Nat.add_le_add_left (List.length_filter_le _ _) _)) room

/-- The launch is over, and `n` says whether its descriptor has DET. -/
def finished (det : Bool) : State :=
  { mapped with launches := mapped.launches.map fun l => { l with cdone := 1, prog := 0x18000, desc := { l.desc with det } } }

theorem test_LaunchEnds_met :
    (∀ d : Bool, ((finished d).launch 0 0).map (fun l => l.isOver && (finished d).launchQuiet l && l.desc.det == d && !l.killed && l.phaseWait.isNone) = some true) ∧
    (((finished false).launch 0 0).map (fun l => l.origin == .host 0 0 && l.prog != 0) = some true ∧ (((finished false).part 0).queue 0).ready = [] ∧
      (((finished false).part 0).queue 0).full = false ∧
      good (fun x => x == 0x18000) ((finished false).xlateRec 0 0 0x18000 true) = true) ∧
    (let s := (finished false).modPart 0 fun p => p.setQueue 0 { p.queue 0 with cqsize := 3, cqbase := 0x1C001 }
     ((s.part 0).queue 0).ready = [] ∧ ((s.part 0).queue 0).full = false ∧ ringBase ((s.part 0).queue 0).cqbase = 0x1C000) ∧
    (let s := mapped.modPart 0 fun p => p.setQueue 0 { p.queue 0 with lastdone := 1 }
     ((s.part 0).queue 0).full = true) ∧
    ((mapped.launch 0 0).map fun l => l.isOver || l.killed) = some false ∧
    ((mapped.part 0).fqbase ≠ 0 ∧ (mapped.part 0).fqwait = [] ∧ (mapped.part 0).fqFree (mapped.part 0).recs = true) ∧
    (let s := mapped.modPart 0 fun p => { p with fqsize := 0, recs := 1 }
     (s.part 0).fqFree (s.part 0).recs = false) := by
  decide +kernel

/-- Queue 0 of partition 0: a submission ring of 8 entries at 0x18000, whose entry 1 is `e`, and a completion ring at 0x1C000. -/
def ringed (e : Nat) : State :=
  let s := mapped.modPart 0 fun p => p.setQueue 0 { p.queue 0 with sqbase := 0x18001, sqsize := 3, cqbase := 0x1C001, cqsize := 3 }
  s.wr (0x18000 + 64) 64 e
/-- One accepted command. -/
def commanded (c : Cmd) (s : State) : State := s.modPart 0 fun p => { p with cmds := [c] }
def cmd0 : Cmd := { q := 0, subseq := 1, op := 8, flags := 0, a1 := 0, a2 := 0, a3 := 0, a4 := 0, ext := none, begun := false, order := 0 }

theorem test_Submissions_met :
    (∀ e ∈ [1 + 2 ^ 32 * 8, 1 + 2 ^ 32 * 9, 2],
      let s := ringed e
      s.sirxo.booted = true ∧ s.sirxo.recovery = false ∧ ((s.part 0).queue 0).sqsize = 3 ∧ ((s.part 0).queue 0).lastacc + 1 = 1 ∧
        s.slotEntry ((s.part 0).queue 0) 1 = e) ∧
    (let c := entryCmd 0 (1 + 2 ^ 32 * 8)
     c.subseq = 1 ∧ c.op = 8 ∧ entryZeros (1 + 2 ^ 32 * 8) = true ∧ cmdOk c = true) ∧
    (cmdOk (entryCmd 0 (1 + 2 ^ 32 * 9)) = false ∧ (entryCmd 0 2).subseq ≠ 1) ∧
    (let s : State := { ringed 2 with sirxo := { mapped.sirxo with booted := false, recovery := true } }
     ((s.part 0).queue 0).sqsize = 3 ∧ (entryCmd 0 (s.slotEntry ((s.part 0).queue 0) 1)).subseq = 2 ∧
       (entryCmd 0 ((ringed (1 + 2 ^ 32 * 8)).slotEntry ((s.part 0).queue 0) 1)).subseq = 1) ∧
    let c := { cmd0 with op := 1, flags := 1 }
    let s := mapped.modPart 0 fun p => { p with cmds := [c, { cmd0 with op := 0, subseq := 2, a1 := 0x15000 }] }
    s.nextCmd 0 1 0 = some c ∧
      ((s.part 0).cmds.find? fun x => x.op == 0 && x.q == 0 && x.subseq == 2).map (fun e => e.a1) = some 0x15000 := by
  decide +kernel

/-- The device after its boot. -/
def timed (s : State) : State := after .sirxoBoot { s with sirxo := { s.sirxo with booted := false } }

theorem test_Commands_met :
    (∀ o ∈ [1, 2, 3, 4, 6, 7, 8], let c := { cmd0 with op := o }; (commanded c mapped).nextCmd 0 o 0 = some c) ∧
    (∀ o ∈ [0, 1], (commanded { cmd0 with op := 5, a1 := BitVec.ofNat 64 (2 ^ 32 * o + 7) } mapped).replyCmd 0 0 o ≠ none) ∧
    ((launching.readDesc 0 0x14000).map fun d => !d.task && d.fits 1) = some true ∧ (launching.readDesc 0 0x15000).isNone = true ∧
    launching.hasSlots 0 = true ∧ mapped.hasSlots 1 = false ∧ (mapped.launch 0 0).isSome = true ∧ (mapped.launch 0 1).isNone = true ∧
    (let s := mapped.modPart 0 fun p => { p with halted := true }
     ((s.residents 0).foldl (fun s c => s.preemptOne c) s).residents 0 ≠ []) ∧
    (let s := ({ mapped with copses := [] } : State).modPart 0 fun p => { p with halted := true }
     ((s.residents 0).foldl (fun s c => s.preemptOne c) s).residents 0 = []) ∧
    (let f : Pending := { seq := 7, launch := 0, uid := 1, eng := 0 }
     let s := faulted.modPart 0 fun p => { p with pending := [f] }
     s.pendingOf 0 7 = some f ∧ s.isOut f = false ∧ (s.bough 1).isSome = true ∧ s.b.deepLanes (s.b.faultMask 7) = 0 ∧
       (evicted.modPart 0 fun p => { p with pending := [f] }).isOut f = true) ∧
    (mapped.partQuiet 0 = true ∧ (unready mapped).partQuiet 0 = false) ∧
    ((mapped.rankTable 0 0x15000 2).isSome = true ∧ (mapped.rankTable 0 0x50000000 2).isNone = true) ∧
    mapped.nuid ≠ 0 ∧ (mapped.copses.map fun y => (y.part, y.launch, y.cid)).length = 1 := by
  decide +kernel

def mapCmd (begun : Bool) : Cmd := { cmd0 with op := 9, a1 := 0x3008, a2 := 0x40000000 + 2 ^ 53 + 3, begun }

theorem test_PagePublication_met :
    (∀ s ∈ [mapped, unready mapped], (commanded (mapCmd false) s).nextCmd 0 9 0 = some (mapCmd false)) ∧
    (mapped.rd 0x3000 8 % 2 = 1 ∧ mapped.rd 0x3008 8 % 2 = 0 ∧ mapped.partQuiet 0 = true ∧ (unready mapped).partQuiet 0 = false) ∧
    (let s := commanded (mapCmd true) mapped
     s.begunCmd 0 9 0 = some (mapCmd true) ∧ s.leaseOver (mapCmd true) = true ∧ s.heartOf (0x3008 / 128) = none) ∧
    (let s : State := { commanded (mapCmd true) mapped with leases := [(0x40000000 / 128, 900)] }
     s.begunCmd 0 9 0 = some (mapCmd true) ∧ s.leaseOver (mapCmd true) = false) ∧
    let s := (commanded (mapCmd true) mapped).modPart 0 fun p => p.setQueue 0 { p.queue 0 with cqbase := 0x1C001, cqsize := 3 }
    ((s.part 0).queue 0).ready = [] ∧ ((s.part 0).queue 0).full = false := by
  decide +kernel

theorem test_RegisterWrites_met :
    (let s := mapped.modPart 0 fun p => { p with fqwait := [(1, 5)], fqsize := 0, recs := 2 }
     (s.part 0).fqwait = [(1, 5)] ∧ ({ s.part 0 with fqhead := 1 } : Part).fqFree 1 = true) ∧
    (let s := mapped.modPart 0 fun p => p.setQueue 0 { p.queue 0 with ready := [5], cqsize := 0, lastdone := 1 }
     ((s.part 0).queue 0).ready = [5] ∧ ({ (s.part 0).queue 0 with cqhead := 1 } : SQueue).full = false) ∧
    (mapped.sirxo.booted = true ∧ (∀ l ∈ mapped.launches, l.part ≠ 1) ∧ ¬ (∀ l ∈ mapped.launches, l.part ≠ 0)) ∧
    (let d : Doom := { k := 0, uid := 1, launch := 0, endst := 1 }
     let s := mapped.modPart 0 fun p => { p with dooms := [d] }
     (s.part 0).dooms = [d] ∧ (s.part 0).fqwait = [] ∧ (s.launch 0 0).map (fun l => l.killed) = some false) ∧
    ({ State.reset.sirxo with recovery := true }.recovery = true) ∧
    State.reset.sirxo.booted = false ∧ ({ mapped with launches := [] } : State).launches = [] := by
  decide +kernel

theorem test_OutsideAccesses_met :
    mapped.barXlate 0 0x50000000 true = none ∧ mapped.barXlate 0 0x20000 true = some 0x20000 ∧ mapped.heartOf (0x20000 / 128) = none ∧
    mapped.rd 0x20000 4 = 0 ∧ mapped.rd 0x3000 8 ≠ 0 := by
  decide +kernel

theorem test_Platform_met :
    (State.reset.sirxo.booted = false ∧ State.reset.sirxo.imageOk = true ∧ base.sirxo.booted = true ∧ base.sirxo.shutdown = false ∧
      { base.sirxo with shutdown := true }.shutdown = true) ∧
    ((timed base).links[17]?.map fun l => l.up) = some true ∧ base.sirxo.tjmax < 920 ∧
    (let s := after (.powerSample { watts := 9000, icore := [], tj := 930, hbm := 0 }) base
     920 ≤ s.sirxo.tjmax ∧ s.sirxo.plimit < s.sirxo.pnow) ∧
    (let s := commanded { cmd0 with op := 2 } base
     (s.parts.flatMap fun e => e.2.cmds).map (fun c => c.op) = [2]) ∧
    (base.launches.map fun x => x.killed) = [false] ∧ (base.parts.flatMap fun e => e.2.cmds) = [] ∧ (base.launches.map fun x => (x.part, x.id)).Nodup ∧ base.wins = [] := by
  decide +kernel

theorem test_GateTraps_met :
    (faulted.b.nf ≠ 0 ∧ isRejoin (.join hd j0) = true) ∧
    ((grouped (some 0) true).b.sib.any (fun x => x.cancelled) = true ∧ isCancelPoint (.canchk hd y0) = true ∧ (grouped (some 0) true).b.nf = 0) ∧
    (Instr.legal (.nop hd { y0 with imm := 1 }) = false ∧ isSystem (.eret hd y0) = true ∧ base.b.sysmode = false) ∧
    ((base.modB fun b => { b with nregs := 16 }).b.badReg (.iadd hd { a0 with dst := 20 }) = some 20 ∧
      (Instr.iadd hd { a0 with dst := 20 }).legal = true) ∧
    (base.b.badReg (.iadd hp a0) = none ∧ base.b.guard hp = 0 ∧ (Instr.iadd hp a0).legal = true) ∧
    (let s := base.modB fun b => { b with emr := 1 }
     needsFull (.gbar hd y0) = true ∧ s.b.emr ≠ s.b.live ∧ (Instr.gbar hd y0).legal = true) ∧
    (let s := inBody region0
     s.b.refill ≠ none ∧ badInRefill (.splitq hd y0) = false ∧ badInRefill (.rfenter hd y0) = true ∧ s.b.emr = s.b.live) ∧
    loading.scoreboard (.iadd hd { a0 with dst := 2 }) = true ∧
    (let s := after (.ld hp { ld1 with ord := true, sc := .pkg }) mapped
     let i : Instr := .ld hp { ld1 with dv := 10 }
     s.scoreboard i = false ∧ s.predPending s.b.uid = false ∧ isMem i = true ∧ s.acquiring s.b.uid = true ∧ s.b.badReg i = none ∧
       s.b.guard hp ≠ 0) ∧
    (base.modPart 0 fun p => { p with fqbase := 0x8000, fqsize := 0, recs := 1 }).ringBusy 0 = true ∧
    ((handled base).targetOk base.b 0x20000 = true ∧ base.b.emr ≠ 0 ∧ base.b.deepLanes base.b.emr = 0 ∧
      (base.launchOf base.b).map (fun l => l.killed) = some false ∧ (base.part 0).trapvec = 0 ∧ base.ringBusy 0 = false) := by
  decide +kernel

theorem test_SystemModeOpcodes_met :
    (∀ i ∈ ([.srget true hd y0, .srset true hd y0, .tlbinv hd y0, .halt hd y0, .ctxsave hd y0, .ctxrest hd y0, .eret hd y0] : List Instr),
      isSystem i = true) ∧ base.b.sysmode = false ∧ isSystem (.srget false hd y0) = false := by
  decide +kernel

/-- A word stands where the next step fetches, and no turn is due. -/
def fetching (w : Nat) : State := { base.withFetchWord 96 w with agenda := [] }
/-- Two boughs that may issue on one quadrant, the second of them ready for `n` cycles. -/
def paired (n : Nat) : State :=
  let s := fetching 0x44700000_00007000_00000000
  { s with b := { s.b with ready := 1 }, boughs := [{ s.b with uid := 50, idx := 1, slot := 1, ready := n }] }

theorem test_StepRunsDecoded_met :
    (∀ w ∈ [0x44700000_00007000_00000000, 0x44760000_00007000_00000000],
      let s := fetching w
      s.agenda = [] ∧ s.sirxo.booted = true ∧ s.sirxo.shutdown = false ∧ s.b.status = .running ∧ s.b.wait = .none ∧ (s.time + 1) % 64 < 62 ∧ (s.part 0).halted = false ∧
        (s.copses.all fun c => c.at_ == .resident) = true ∧ (s.allBoughs.all fun b => b.status != .ended) = true ∧ s.boughs = [] ∧ s.b.emr ≠ 0 ∧
        s.atJoin = false ∧ s.atEnd = false ∧ s.b.entered = true ∧ s.b.rep = none ∧
        (s.b.line.map fun l => l.addr == lineAddr s.b.pc && lineSlot l.bits 0 == w && !linePair l.bits 0) = some true) ∧
    (decode (leBytes 12 0x44700000_00007000_00000000)).toOption = some (.nop hd y0) ∧
    (decode (leBytes 12 0x44760000_00007000_00000000)).toOption = none ∧
    (let i : Instr := .iadd hd { a0 with dst := 16, sa := 0, sb := 8, ty := .i64 }
     let r : Rep := { left := 3, stride := 2, done := 1, fields := 7 }
     ((encode i).bind fun w => (decode (leBytes 12 w.1)).toOption) = some i ∧ repOk r i = true ∧
       advInstr r i = some (.iadd hd { a0 with dst := 18, sa := 2, sb := 10, ty := .i64 }) ∧ advOut r i = none ∧
       advOut { r with done := 125 } i = some 10 ∧ (advInstr { r with done := 125 } i).any (fun j => j.legal) = true ∧
       (advInstr { r with stride := 1 } i).any (fun j => j.legal) = false) ∧
    (∀ d ∈ (base.part 0).dooms, d.uid ≠ base.b.uid) ∧
    ((grouped (some 0) true).b.sib.any (fun x => x.cancelled) = true ∧ (grouped (some 0) true).b.nf = 0 ∧
      cancelOp 0x44700000_00007000_00000000 = false ∧ cancelOp (0x87 * 2 ^ 87) = true ∧
      (decode (leBytes 12 (0x87 * 2 ^ 87))).toOption = none) ∧
    ∀ n ∈ [2, 9], let s := paired n
      (s.bough 50).map (fun b => b.uid) = some 50 ∧ (s.quadrant s.b).length = 2 ∧ ((s.quadrant s.b).filter fun x => s.isReady x).length = 2 := by
  decide +kernel

theorem test_StepKeepsMemory_met : base.memOk ∧ mapped.memOk ∧ (match step (fetching 0x44700000_00007000_00000000) with
    | .next t => t.b.pc == 12
    | _ => false) = true := by
  decide +kernel

theorem test_DecodeEncode_met :
    (∀ i ∈ [Instr.nop hd y0, .mbr hd mbr1, .movw hd { dst := 2, scalar := false, imm := 5 }], i.legal = true ∧ i.view.isSome = true) ∧
    Instr.view .lineEntry = none := by
  decide +kernel

/-! ## Words of the manual -/

/-- The instruction that a word decodes to. -/
def word (w : Nat) : Option Instr := (decode (leBytes 12 w)).toOption
/-- What the two words of a pair decode to. -/
def pairOf (w1 w2 : Nat) : Option Instr := (decode (leBytes 12 w1 ++ leBytes 12 w2)).toOption
/-- Words, each with its instruction, that decode and encode as the manual says. -/
def words (l : List (Nat × Instr)) : Bool := l.all fun x => word x.1 == some x.2 && encode x.2 == some (x.1, none)

/-- NOP and FFMA with a guard and a flag of 02_encoding.md, DOT16 of 06_numeric.md, COEF.lo of 16_prog_isqrt.md. -/
theorem test_words_alu : words [
    (0x44700000_00007000_00000000, .nop hd y0),
    (0x231A0A04_0705A200_B8000000, .ffma { pg := 1, pn := true, fs := .a, tr := false }
      (.a { a0 with dst := 10, sa := 4, sb := 7, sc := 5, ty := .f32, rm := .rz, knd := 1 })),
    (0x36F0080C_103FC000_B8000000, .dot16 hd { a0 with dst := 8, sa := 12, sb := 16, sc := 63, ty := .e4m3, knd := 1 }),
    (0x18F00083_3F007000_00000000, .coef hd { y0 with s1 := 8, s2 := 12, s3 := 63 })] = true := by
  decide +kernel

theorem test_words_control : words [
    (0x46F00000_00007000_00000000, .rfenter hd y0),
    (0x47700000_00007020_00000000, .refill hd { y0 with sub := 2 }),
    (0x4A70FFFF_C4000000_40000000, .loop hd { j0 with tgt := 0xFFFFC, tsl := 2, as := 16 })] = true := by
  decide +kernel

theorem test_words_memory : words [
    (0x61700200_FC8200AE_00000000, .ld hd { m0 with dv := 2, as := 63, am := .ln, sz := .b32, ty := .n32 }),
    (0x6370020D_240300AE_00000008, .st hd { m0 with dv := 2, av := 13, as := 9, sz := .b64, ty := .n32, off := 8 }),
    (0x63500C0B_300300AE_00000008, .st { hd with pg := 5 } { m0 with dv := 12, av := 11, as := 12, sz := .b64, ty := .n32, off := 8 }),
    (0x66700607_2E0000AE_00000000, .ldro hd { m0 with dv := 6, av := 7, as := 11, sp := .ro, sz := .b8, ty := .n32 })] = true := by
  decide +kernel

theorem test_words_atomic : words [
    (0x81700A02_1012034E_00000010, .atom hd { m0 with dv := 10, av := 2, as := 4, sc := .pkg, aop := 1, ty := .f32, off := 16 }),
    (0x87300E0C_2C120EAE_00000000, .atom { hd with pg := 3 } { m0 with dv := 14, av := 12, as := 11, sc := .pkg, aop := 7, ty := .n32 }),
    (0x80B01200_605200AE_00000000, .atom { hd with pg := 3 } { m0 with dv := 18, as := 24, am := .uniform, sc := .pkg, ty := .n32 }),
    (0x9AF00000_00007000_00000043, .barArrive hd { y0 with imm := 0x43 }),
    (0x9BF0FC00_00007000_00000000, .gbar hd { y0 with sd := 63 })] = true := by
  decide +kernel

theorem test_words_matrix : words [
    (0xA370FFF0_00000099_00000000, .mma false hd { e0 with sla := 2, slb := 6, acc := 1 }),
    (0xAA702941_0518A000_03000000, .kvgather hd { e0 with tk := 10, fp := 20, pa := 4, pb := 5, pc := 6, vx := 40, sub := 3 }),
    (0xAB706D72_80001010_00000000, .seqcommitFork hd { y0 with sd := 27, s1 := 23, s2 := 10, pd := some 1, sub := 1 }),
    (0xAAF0FFF5_CC340000_00001000, .kvappend hd { e0 with pa := 23, pb := 12, pc := 13, imm := 0x1000 })] = true := by
  decide +kernel

theorem test_words_tasks : words [
    (0xC1700000_00083000_00000000, .twait false hd { y0 with vd := 8, pd := some 3 }),
    (0xC9700042_40007000_00000000, .ballot hd { y0 with s1 := 4, s2 := 9 }),
    (0xC9720086_80007000_00000000, .ballot { hd with fs := .a } { y0 with s1 := 8, s2 := 26 }),
    (0xC870408F_FF001000_00000040, .sibjoin hd { y0 with sd := 16, s1 := 8, s2 := 63, s3 := 63, pd := some 1, imm := 0x40 }),
    (0xC8706C82_57001000_00000002, .sibjoin hd { y0 with sd := 27, s1 := 8, s2 := 9, s3 := 23, pd := some 1, imm := 2 }),
    (0xCA704480_00007000_00000003, .sibinfo hd { y0 with sd := 17, s1 := 8, imm := 3 })] = true := by
  decide +kernel

/-- FENCE.rel.pkg has OP 0x1C1, SUB 2; TIMEGET s7 OP 0x1C9 (R54, R229). -/
theorem test_words_system : words [
    (0xE0F00000_00007020_00000000, .fenceRel hd { y0 with sub := 2 }),
    (0xE4F01C00_00007000_00000000, .timeget hd { y0 with sd := 7 })] = true := by
  decide +kernel

/-- Pairs, by R55 and R323: MOVW, MBR of two pairs, and `ATTN.full.causal.fin s11, s21, s4, s5, s6, 0, 1, 32, s7, s8, 0, 2`. -/
theorem test_words_pairs :
    pairOf (0x1470 * 2 ^ 80 + 2 * 2 ^ 72) 0x11223344_55667788 = some (.movw hd { dst := 2, scalar := false, imm := 0x1122334455667788 }) ∧
    pairOf (0x4170 * 2 ^ 80 + 1 * 2 ^ 60 + 1 * 2 ^ 57 + 2 * 2 ^ 33 + 1 * 2 ^ 27 + 2 ^ 26 + 3 * 2 ^ 6 + 4 * 2 ^ 3) (1 * 2 ^ 40) = some (.mbr hd mbr1) ∧
    pairOf (0xA970 * 2 ^ 80 + 11 * 2 ^ 74 + 21 * 2 ^ 68 + 4 * 2 ^ 62 + 5 * 2 ^ 56 + 6 * 2 ^ 50 + 1 * 2 ^ 32 + 2 * 2 ^ 24 + 31)
        (2 ^ 31 + 2 * 2 ^ 28 + 8 * 2 ^ 6 + 7) =
      some (.attn (some { causal := true, g := 2, win := 0, ks := 8, qs := 7 }) hd
        { e0 with tk := 11, fp := 21, pa := 4, pb := 5, pc := 6, acc := 1, sub := 2, imm := 31 }) := by
  decide +kernel

/-- R47, R63: reserved codes and fields that a page fixes are no instructions: FS = 11, PG = 7 with PN, an opcode that has no
row, NOP with S1 = 1. -/
theorem test_words_refused : ([0x44760000_00007000_00000000, 0x44780000_00007000_00000000, 0xFFF00000_00007000_00000000,
    0x44700010_00007000_00000000, 0x14700200_00000000_00000000].map word) = [none, none, none, none, none] := by
  decide +kernel

/-- R35, R36, R42, R44 and the line of the example: its slots, its flags and targets, and its parity. -/
def line65 : BitVec 512 :=
  BitVec.ofNat 512 (0x447000000000700000000000 + 2 ^ 96 * 0x231A0A040705A200B8000000 + 2 ^ 192 * 0x447000000000700000000000 +
    2 ^ 288 * 0x447000000000700000000000 + 2 ^ 384 * 0x447000000000700000000000 + 2 ^ 480 * 0x803F2008)

theorem test_line : lineParityOk line65 = true ∧ lineParityOk (line65 ^^^ 1) = false ∧ lineMalformed line65 = false ∧
    lineWM line65 = 8 ∧ lineFA line65 = 2 ∧ lineFB line65 = 15 ∧ lineTM line65 1 = true ∧ lineTM line65 2 = false ∧
    (word (lineSlot line65 1)).map hdrOf = some { pg := 1, pn := true, fs := .a, tr := false } := by
  decide +kernel

/-! ## Ill-formed terms -/

/-- One term for each check of WellFormed.lean, which it refuses, beside one that it accepts. -/
theorem test_ill_formed :
    ([.nop { hd with pn := true } y0, .iadd hd { a0 with knd := 7, dst := 64 }, .iadd hd { a0 with knd := 4 },
      .fadd hd (.a { a0 with ty := .f32, knd := 2, sb := 64 }), .fadd hd (.a { a0 with ty := .f32, knd := 1, sc := 64 }),
      .movi hd { i0 with kndd := true, dst := 64 }, .ld hd { m0 with am := .uniform, av := 1, ty := .n32 },
      .ld hd { m0 with am := .ln, av := 1, ty := .n32 }, .mbr hd { mbr1 with cnt := 0 }, .movw hd { dst := 64, scalar := true, imm := 0 },
      .acopy false false hd e0, .acopy false false hd { e0 with tk := 1 }, .mma false hd { e0 with tk := 1 }, .dot16 hd { a0 with ty := .f16 },
      .dot4 hd { a0 with ty := .e4m3 }, .cvtPack hd { a0 with sub := 1 }, .ld hd { m0 with sp := .ro, ty := .n32 }, .ldro hd { m0 with ty := .n32 },
      .atom hd { m0 with aop := 12, ty := .n32 }, .red hd { m0 with aop := 9, ty := .n32 }, .cas hd { m0 with sz := .b16 },
      .seqcommit hd { y0 with sub := 1 }, .seqcommitFork hd y0, .seqcommitRel hd y0, .tfillFut hd { y0 with sub := 1 }, .qcreateFree hd y0,
      .doorbell 16 0 0, .doorbell 0 8 0, .errstat 16 0, .partitionRegisterWrite 16 0 0, .flitReplay 18] : List Instr).all (fun i => !i.wf) = true ∧
    ([.nop hd y0, .iadd hd { a0 with knd := 7, dst := 63 }, .fadd hd (.a { a0 with ty := .f32, knd := 2, sb := 63 }), .mbr hd mbr1,
      .acopy false false hd { e0 with tk := 1, fp := 2 }, .doorbell 15 7 0, .flitReplay 17] : List Instr).all (fun i => i.wf) = true := by
  decide +kernel

/-! ## Worked examples of the manual -/

/-- The DOT16 of 06_numeric.md. -/
theorem test_dot16_example :
    let s := base.modB fun b => { b with vregs := [(12 * 32, 0x002C7E7E), (12 * 32 + 1, 0x002C7E7E), (16 * 32, 0x0030FE7E), (16 * 32 + 1, 0x0030007E)] }
    let t := after (.dot16 hd { a0 with dst := 8, sa := 12, sb := 16, sc := 63, ty := .e4m3, knd := 1 }) s
    (t.b.vreg 8 0, t.b.vreg 8 1) = (0, 0x48440000) := by
  decide +kernel

/-- R166: CVT.ff.bf16.rs with FMT.PHASE = 3 and SE = 1. -/
theorem test_dither_example :
    let s := base.modB fun b => { b with fmt := 3 * 2 ^ 27 + 2 ^ 26, vregs := [(64, 0x3F808000), (65, 0x3F808000), (66, 0x3F808000), (67, 0x3F808000)] }
    let t := after (.cvtFf hd { a0 with dst := 1, sa := 2, ty := .bf16, sub := 10, rm := .rs }) s
    (lanes.take 4).map (fun l => t.b.vreg 1 l) = [0x3F81, 0x3F80, 0x3F81, 0x3F80] := by
  decide +kernel

/-- The O4 block of 06_numeric.md: bytes 83 58 88 3C 21 with S8 = 0x7E. -/
theorem test_o4_example :
    let s := base.modB fun b => { b with vregs := [(256, 0x3C885883), (257, 0x21)], sregs := [(5, 0x7E)] }
    let t := after (.unpk hd { a0 with dst := 1, sa := 8, sb := 5, knd := 2, ty := .o4 }) s
    (lanes.take 11).map (fun l => t.b.vreg 1 l) =
      [0x3FC00000, 0x41000000, 0, 0, 0x3F400000, 0, 0, 0, 0x3F000000, 0x3F800000, 0] := by
  decide +kernel

/-- R163: an FMT0. -/
theorem test_fmt_example : fmtValid 0x040C0003 = true ∧ fmtA 0x040C0003 = 3 ∧ fmtB 0x040C0003 = 0 ∧ fmtSCA 0x040C0003 = true ∧
    fmtSCB 0x040C0003 = true ∧ fmtValid 0x00000100 = false := by
  decide +kernel

/-- R120: COEF.lo c2 with a base and two coefficients; lane 5 has IND[0] = 5 and IND[1] = 0. -/
theorem test_loop_nest_example :
    let s := base.modB fun b => { b with sregs := [(1, 0x7F0000100000), (2, 4), (3, 4096), (4, 32), (5, 1), (6, 64)] }
    let s := after (.coef hd { y0 with s1 := 1, s2 := 2, s3 := 3, imm := 2 }) s
    let s := after (.coef hd { y0 with sub := 1, imm := 2 }) s
    let s := after (.lnset hd { y0 with s1 := 0, s2 := 4, s3 := 5, sub := 4 }) s
    let s := after (.lnset hd { y0 with s1 := 0, s2 := 6, s3 := 5, sub := 1 }) s
    let addr (s : State) : Nat := ((after (.addr hd { m0 with dv := 2, av := 0x20, as := 63, sz := .b8, am := .ln }) s).b.vreg64 2 5).toNat
    addr s = 0x7F0000100014 := by
  decide +kernel

/-- R123: REP.d.a.b 4, 2 before IADD.i64 v16, v0, v8: what is issued as repetition 1, and a stride of 1 that makes it illegal. -/
theorem test_rep_example :
    let i : Instr := .iadd hd { a0 with dst := 16, sa := 0, sb := 8, ty := .i64 }
    let r (stride : BitVec 8) : Rep := { left := 3, stride, done := 1, fields := 7 }
    advInstr (r 2) i = some (.iadd hd { a0 with dst := 18, sa := 2, sb := 10, ty := .i64 }) ∧
      (advInstr (r 1) i).any (fun j => j.legal) = false := by
  decide +kernel

/-- R264: ATOM.add.n32 v4, v2, s6 in lanes 0 to 5; lanes 0, 2, 3 address X, lanes 1, 4 address Y, lane 5 addresses Z. -/
theorem test_atomic_example :
    let a : FmtM := { m0 with dv := 4, av := 2, as := 6, sc := .pkg, ty := .n32 }
    let s := (mapped.wr 0x20000 4 10).wr 0x20080 4 100
    let s := s.modB fun b =>
      { b.setPd (some 0) 0xFFFFFFFF 0x3F with
        sregs := [(6, 0x20000)], vregs := [(65, 0x80), (68, 0x80), (69, 0x100), (128, 1), (129, 2), (130, 3), (131, 4), (132, 5), (133, 6)] }
    let s := after (.atom hp a) s
    let k := s.atoms.flatMap fun x => (List.range x.groups.length).map fun j => (x.id, j)
    let s := k.foldl (fun s x => after (.atomicBatch x.1 x.2) s) s
    let t := s.atoms.foldl (fun s x => after (.loadDataReturn x.id) s) s
    [t.rd 0x20000 4, t.rd 0x20080 4, t.rd 0x20100 4] = [18, 107, 6] ∧ (lanes.take 6).map (fun l => t.b.vreg 4 l) = [10, 100, 11, 14, 102, 0] := by
  decide +kernel

/-- R294: LAYOUT.z2 of the record X over LOCAL 0x20000. -/
theorem test_layout_example :
    layResult (256 + 2 ^ 32 * 2 + 2 ^ 128 * 31 + 2 ^ 144 * 127) 2 false 0x20000 = some 0x07C000002000 := by
  decide +kernel

/-- R353: four members with k = 3 ballot A, B, B, A in the order m1, m0, m3, m2: the group finishes with B, and HOW = 2. -/
theorem test_ballot_example :
    let s : State := { base with groups := [{ part := 0, handle := 5, words := [(0, 15), (4, 3)], joined := [(0, 1), (1, 2), (2, 3), (3, 4)], obs := [], lastInc := [] }] }
    let t := [(1, 0xA), (0, 0xB), (3, 0xB), (2, 0xA)].foldl (fun s x => s.ballotStep 0 5 (some x.1) x.2) s
    ((t.group 0 5).map fun g => (g.decided, g.word gHash, g.bits gStatus 8 2)) = some (true, 0xB, 2) ∧ t.cancels = [] := by
  decide +kernel

/-- Record 17 of 13_system.md, by the fields of R359. -/
theorem test_record_example :
    let b := { base.b with idx := 2, core := 300, slot := 9, cid := 5, launch := 0 }
    let f : FaultInfo :=
      { cls := 0, cause := 1, detail := 0, addr := 0x7F0000310040, pc := 0x7F0000002418, mask := 0x210, engine := 0, ordinal := none,
        task := none, repdone := 0, time := 1640 }
    let at_ (lo n : Nat) : Nat := faultRecord b 17 f / 2 ^ lo % 2 ^ n
    [at_ 0 1, at_ 32 8, at_ 40 4, at_ 51 1, at_ 58 5, at_ 63 6, at_ 69 11, at_ 96 32, at_ 128 32, at_ 224 32, at_ 256 64, at_ 320 64, at_ 384 64] =
      [1, 1, 0, 0, 2, 9, 300, 17, 5, 0x210, 1640, 0x7F0000002418, 0x7F0000310040] := by
  decide +kernel

/-- R55, R50 and R52, each field at its bits: MBR with four pairs, an I form, and BRA with a reconvergence point. -/
theorem test_words_fields :
    pairOf (0x4170 * 2 ^ 80 + 5 * 2 ^ 60 + 1 * 2 ^ 57 + 1 * 2 ^ 54 + 1 * 2 ^ 53 + 6 * 2 ^ 33 + 2 * 2 ^ 30 + 2 * 2 ^ 27 + 9 * 2 ^ 6 + 4 * 2 ^ 3)
        (7 * 2 ^ 76 + 3 * 2 ^ 73 + 3 * 2 ^ 70 + 1 * 2 ^ 69 + 8 * 2 ^ 49 + 4 * 2 ^ 46 + 4 * 2 ^ 43 + 3 * 2 ^ 40) =
      some (.mbr hd ⟨⟨5, 1, 1, true⟩, ⟨6, 2, 2, false⟩, ⟨7, 3, 3, true⟩, ⟨8, 4, 4, false⟩, 9, 4, 3⟩) ∧
    word (0x0870 * 2 ^ 80 + 3 * 2 ^ 72 + 4 * 2 ^ 64 + 5 * 2 ^ 60 + 2 ^ 54 + 7 * 2 ^ 50 + 0xFFFFFFF0) =
      some (.andL hd (.i { i0 with dst := 3, sa := 4, ty := .n32, kndd := true, imm := 0xFFFFFFF0 })) ∧
    word (0x4070 * 2 ^ 80 + 0xFFFFE * 2 ^ 60 + 2 * 2 ^ 57 + 3 * 2 ^ 37 + 1 * 2 ^ 34) =
      some (.bra hd { j0 with tgt := 0xFFFFE, tsl := 2, rcv := 3, rsl := 1 }) ∧
    word (0x4070 * 2 ^ 80 + 0xFFFFE * 2 ^ 60 + 2 * 2 ^ 57 + 2 * 2 ^ 32) = some (.bra hd { j0 with tgt := 0xFFFFE, tsl := 2, bm := .all }) := by
  decide +kernel

/-- R327: two splits with REF 3 and 5, SUM 1.5 and 0.75, and a word of 6.0 and 2.0, merged with .fin. -/
theorem test_merge_example :
    mergeRow true [([0x40C00000], 0x3FC00000, 3), ([0x40000000], 0x3F400000, 5)] = ([0x40471C72], 0x3F900000, 5) := by
  decide +kernel

/-- R280, R281, base 2: T(L) of levels 0, 1, 3 and 10. -/
theorem test_level_example : [0, 1, 3, 10].map (lcThreshold 0) = [2 ^ 32, 0x80000000, 0x20000000, 0x00400000] := by
  decide +kernel

end Sys2Proof.Tests
end

section
/-! SUPPORT. R62: which instructions are the system-mode ones, and the trap that meets them outside system
mode. -/

namespace Sys2Proof.Machine

/-- R62, the list of the opcodes. -/
theorem isSystem_iff (i : Instr) : isSystem i = true ↔ ∃ (h : Hdr) (f : FmtY),
    i = .srget true h f ∨ i = .srset true h f ∨ i = .tlbinv h f ∨ i = .halt h f ∨ i = .ctxsave h f ∨
      i = .ctxrest h f ∨ i = .eret h f := by
  constructor
  · intro hi
    unfold isSystem at hi
    split at hi
    case h_1 | h_2 => simp [hi]
    case h_8 => cases hi
    all_goals simp
  · rintro ⟨h, f, rfl | rfl | rfl | rfl | rfl | rfl | rfl⟩ <;> rfl

/-- A system-mode opcode is no rejoin point, so no faulted lane keeps it from its checks (R131). -/
theorem isRejoin_of_isSystem {i : Instr} (hi : isSystem i = true) : isRejoin i = false := by
  obtain ⟨h, f, rfl | rfl | rfl | rfl | rfl | rfl | rfl⟩ := (isSystem_iff i).1 hi <;> rfl

/-- A system-mode opcode is no cancellation point, so no cancellation keeps it from its checks (R354). -/
theorem isCancelPoint_of_isSystem {i : Instr} (hi : isSystem i = true) : isCancelPoint i = false := by
  obtain ⟨h, f, rfl | rfl | rfl | rfl | rfl | rfl | rfl⟩ := (isSystem_iff i).1 hi <;> rfl

/-- Each system-mode opcode goes through the checks of `issue` before its own effect. -/
theorem exec_eq_issue_of_isSystem {i : Instr} (hi : isSystem i = true) (s : State) :
    ∃ eff : State → Res, exec i s = issue i s eff := by
  obtain ⟨h, f, rfl | rfl | rfl | rfl | rfl | rfl | rfl⟩ := (isSystem_iff i).1 hi <;>
    simp only [exec_srget, exec_srset, exec_tlbinv, exec_halt, exec_ctxsave, exec_ctxrest, exec_eret, execSrget,
      execSrset, execTlbinv, execHalt, execCtxsave, execCtxrest, execEret] <;>
    exact ⟨_, rfl⟩

/-- Outside system mode a system-mode opcode stops at the gate. The checks before that of R62 raise the same
trap, so it does not matter whether they pass. -/
theorem gate_of_isSystem {i : Instr} {s : State} (hi : isSystem i = true) (hs : s.b.sysmode = false) :
    gate i s = .trap cIllegal 0 := by
  have barred : (isSystem i && !s.b.sysmode || s.illegalHere i) = true := by simp [hi, hs]
  unfold gate
  rw [if_neg (by simp [isRejoin_of_isSystem hi]), if_neg (by simp [isCancelPoint_of_isSystem hi]), if_pos barred]
  split_ifs <;> rfl

/-- An instruction that the gate stops with a trap takes it, whatever its effect would be. -/
theorem issue_gate_trap {i : Instr} {s : State} {c d : Nat} (g : gate i s = .trap c d) (eff : State → Res) :
    issue i s eff = Host.Outcome.next (s.takeTrap c d 0) := by
  unfold issue
  rw [g]

end Sys2Proof.Machine
end

section

open Sys2Proof Sys2Proof.Machine

/-- Settles O55: each system-mode opcode is no rejoin and no cancellation point, so the gate traps it before
its effect. -/
theorem systemModeOpcodes : Obligations.SystemModeOpcodes := by
  refine ⟨isSystem_iff, fun i s hi hs => ?_⟩
  obtain ⟨eff, he⟩ := exec_eq_issue_of_isSystem hi s
  rw [he, issue_gate_trap (gate_of_isSystem hi hs)]

end

section
/-! SUPPORT. R98, R99, R100: what the integer arithmetic of format A writes, for every operation that `arith`
runs. -/

namespace Sys2Proof.Machine

/-! ## A write of DST keeps the guard -/

@[simp] theorem writeA_b_emr (t : State) (h : Hdr) (f : FmtA) (n : Nat) (g : Nat → Nat) :
    (t.writeA h f n g).b.emr = t.b.emr := by unfold State.writeA; split <;> simp

@[simp] theorem writeA_b_preds (t : State) (h : Hdr) (f : FmtA) (n : Nat) (g : Nat → Nat) :
    (t.writeA h f n g).b.preds = t.b.preds := by unfold State.writeA; split <;> simp

/-- So the predicate that follows DST is written in the same lanes. -/
@[simp] theorem guard_writeA (t : State) (h h' : Hdr) (f : FmtA) (n : Nat) (g : Nat → Nat) :
    (t.writeA h f n g).b.guard h' = t.b.guard h' :=
  guard_congr (by simp) (by simp) h'

/-! ## The effect -/

section
variable (x : Int → Int → Int → Int → Int) (h : Hdr) (f : FmtA) (t : State)

theorem arith_only : OnlyBough t (arith x h f t) := (writeA_only ..).trans (writePd_only ..)

theorem RegistersOnly.arith : RegistersOnly t.b (Machine.arith x h f t).b :=
  (RegistersOnly.writeA ..).trans (.writePd ..)

theorem arith_writesA : WritesA t.b (arith x h f t).b h f f.ty.regs (arithLane x t.b f) :=
  (writeA_spec t h f f.ty.regs (arithLane x t.b f)).congr rfl rfl rfl
    (setPd_fw ..) (setPd_vregs ..) (setPd_sregs ..)

theorem arith_writesPred : WritesPred t.b (arith x h f t).b f.pd (t.b.guard h) (arithFlag x t.b f) := by
  have w := writePd_spec (t.writeA h f f.ty.regs (arithLane x t.b f)) h f.pd (arithFlag x t.b f)
  rw [guard_writeA] at w
  exact w.congr (writeA_b_preds ..).symm rfl

end

/-- An instruction whose effect is `arith` completes wherever it issues (R99, R100). -/
theorem completesArith {i : Instr} {s : State} {h : Hdr} {f : FmtA} {x : Int → Int → Int → Int → Int}
    (hc : closes i = false) (he : exec i s = issue i s fun t => .done (arith x h f t)) (k : Issues i s) :
    ∃ t : State, exec i s = Host.Outcome.next t ∧ RegisterFrame s t ∧
      WritesA s.b t.b h f f.ty.regs (arithLane x (s.issued i).b f) ∧
      WritesPred s.b t.b f.pd (s.b.guard h) (arithFlag x (s.issued i).b f) := by
  have w := arith_writesPred x h f (s.issued i)
  rw [guard_issued] at w
  exact ⟨_, he.trans (issue_next k rfl), registers_frame _ (arith_only ..) (.arith ..),
    writesA_complete hc _ (arith_writesA ..), writesPred_complete _ w⟩

/-- The instructions of R99 in format A, each with its exact result. -/
def arithOps (h : Hdr) (f : FmtA) : List (Instr × (Int → Int → Int → Int → Int)) :=
  [(.iadd h f, addX), (.isub h f, subX), (.imul h f, mulX), (.imulhi h f, mulHiX f.ty.width),
    (.imad h (.a f), madX), (.imin h f, minX), (.imax h f, maxX), (.iabs h f, absX)]

/-- Each of them runs `arith` on its exact result, and none closes the forwarding window. -/
theorem exec_arithOps (h : Hdr) (f : FmtA) : ∀ p ∈ arithOps h f,
    closes p.1 = false ∧ ∀ s : State, exec p.1 s = issue p.1 s fun t => .done (arith p.2 h f t) := by
  simp only [arithOps, List.forall_mem_cons]
  exact ⟨⟨rfl, exec_iadd h f⟩, ⟨rfl, exec_isub h f⟩, ⟨rfl, exec_imul h f⟩, ⟨rfl, exec_imulhi h f⟩,
    ⟨rfl, exec_imad h (.a f)⟩, ⟨rfl, exec_imin h f⟩, ⟨rfl, exec_imax h f⟩, ⟨rfl, exec_iabs h f⟩, List.forall_mem_nil _⟩

end Sys2Proof.Machine
end

section

open Sys2Proof Sys2Proof.Machine

/-- Settles O1: each operation of format A is `arith` on its exact result, whose `arithLane` and `arithFlag` are the
stated result and flag by definition; the I form of IMAD writes DST alone. -/
theorem integerArithmetic : Obligations.IntegerArithmetic := by
  refine ⟨fun h f s p hp k => ?_, fun h f s k => ?_⟩
  · obtain ⟨hc, he⟩ := exec_arithOps h f p hp
    exact completesArith hc (he s) k
  · exact completesI (g := fun b => madILane b f) rfl (exec_imad h (.i f) s) k

end

section
/-! SUPPORT. R345, R347: the queue and the entry queue that QSTAT reads, and the value that each form writes into SD. -/

namespace Sys2Proof.Machine

/-- The focus bough names the queues of its own copse (R345). -/
theorem hqueue_of_copseOf {s : State} {c : Copse} (hc : s.copseOf s.b = some c) (q : Nat) :
    s.hqueue q = c.queue q := by
  unfold State.hqueue
  rw [hc]
  rfl

/-- What QSTAT.q reads of a queue: its count below its capacity, and 0 for an unbound queue (R347). -/
def HQueue.stat (x : HQueue) : Nat := if x.bound then x.count + 2 ^ 32 * x.cap else 0

/-- What QSTAT.entry reads of a launch: the ready tasks of a TASK launch, and 0 of any other (R347). -/
def Launch.readyTasks (l : Launch) : Nat := if l.desc.task then l.entryq.length else 0

/-- QSTAT.q writes the reading of its queue. -/
theorem exec_qstat_queue (h : Hdr) {f : FmtY} {s : State} {c : Copse} (hc : s.copseOf s.b = some c)
    (hf : f.sub = 0) :
    exec (.qstat h f) s = issue (.qstat h f) s fun t =>
      .done (t.writeSd f (BitVec.ofNat 64 (c.queue f.imm.toNat).stat)) := by
  simp only [exec_qstat, execQstat, hqueue_of_copseOf hc, hf, beq_self_eq_true, if_true, HQueue.stat]

/-- QSTAT.entry writes the reading of the launch that issues it. -/
theorem exec_qstat_entry (h : Hdr) {f : FmtY} {s : State} {l : Launch} (hl : s.launchOf s.b = some l)
    (hf : f.sub = 1) :
    exec (.qstat h f) s = issue (.qstat h f) s fun t =>
      .done (t.writeSd f (BitVec.ofNat 64 l.readyTasks)) := by
  have entry : (f.sub == 0) = false := by rw [hf]; rfl
  simp only [exec_qstat, execQstat, entry, hl, Bool.false_eq_true, if_false, Launch.readyTasks]

end Sys2Proof.Machine
end

section

open Sys2Proof Sys2Proof.Machine

/-- Settles O39: each form of QSTAT writes one reading into SD, of a queue of the copse or of the entry queue of the
launch, and the law of the instructions that only write SD gives the rest. -/
theorem queueStatus : Obligations.QueueStatus := by
  intro h f s l hl
  refine ⟨fun c hc hf => ?_, fun hf => ?_⟩
  · exact completesSd (g := fun _ => BitVec.ofNat 64 (c.queue f.imm.toNat).stat) (exec_qstat_queue h hc hf)
  · exact completesSd (g := fun _ => BitVec.ofNat 64 l.readyTasks) (exec_qstat_entry h hl hf)

end
